-- ==== Sys2Proof/Word.lean ====
section
/-! DEFINITION. The word types of the Zigen architecture and their plainest arithmetic
(spec/00_scope.md R7, R8). -/

namespace Sys2Proof

/-- A byte of memory, 8 bits (R8). -/
abbrev Byte := BitVec 8
/-- A word, 32 bits (R8). -/
abbrev Word32 := BitVec 32
/-- A doubleword, 64 bits (R8): an s register, an instruction slot, an address. -/
abbrev Word64 := BitVec 64
/-- A set of threads of a group, bit t for thread t; a group has at most 512 threads
(spec/04_groups_and_members.md R86, R90). -/
abbrev Mask := BitVec 512

/-- 2^10 bytes (R7). -/
def kib : Nat := 1024

end Sys2Proof
end

