-- ==== Sys2Proof/Syntax/Shapes.lean ====
section
/-! DEFINITION. Operands and the shapes of the core instructions and of the drain
micro-instructions, one structure for each encoding form of the spec. -/

namespace Sys2Proof

/-! ## Names the encodings select -/

/-- HOLD field (R20, R23). -/
inductive Hold | none | srcA | srcB | srcC
  deriving DecidableEq, Repr
/-- FSEL field (R20, R25). -/
inductive Fsel | none | setA | setB | both
  deriving DecidableEq, Repr
/-- Lane-integer types (R29). -/
inductive IntTy | i32 | n32 | i64 | n64 | i16 | n16 | i8 | n8
  deriving DecidableEq, Repr
/-- Integer condition codes (R59). -/
inductive Cond | eq | ne | lt | le | gt | ge
  deriving DecidableEq, Repr
/-- Floating-point condition codes (R63). -/
inductive FCond | eq | ne | lt | le | gt | ge | un | or
  deriving DecidableEq, Repr
/-- Floating-point formats (R29, R48). -/
inductive FFmt | f32 | f64 | f16 | bf16
  deriving DecidableEq, Repr
/-- Rounding modes (R12, R29). -/
inductive Rnd | rn | rz | ru | rd
  deriving DecidableEq, Repr
/-- CVT types (R64). -/
inductive CvtTy | i8 | i16 | i32 | i64 | n8 | n16 | n32 | n64 | f16 | bf16 | f32 | f64
  deriving DecidableEq, Repr
/-- PACK and UNPACK formats (R65). -/
inductive PackFmt | f16 | bf16 | i16 | n16
  deriving DecidableEq, Repr
/-- SHFL modes (R66). -/
inductive ShflMode | idx | up | down | xor
  deriving DecidableEq, Repr
/-- VOTE and MVOTE modes (R66, R134). -/
inductive VoteMode | any | all | eq | ballot
  deriving DecidableEq, Repr
/-- Reduction codes of LRED, SCAN and MRED (R66). -/
inductive RedOp | add | minI | minN | maxI | maxN | and | or | xor | fmin32 | fmax32 | fmin64 | fmax64
  deriving DecidableEq, Repr
/-- Fields ARD reads (R74). -/
inductive AField | ptr | base | limit | perm
  deriving DecidableEq, Repr
/-- Load and store widths (R75). -/
inductive Width | i8 | n8 | i16 | n16 | n32 | n64 | n128
  deriving DecidableEq, Repr
/-- Offset scales 1, 2, 4, 8 (R75). -/
inductive Scale | x1 | x2 | x4 | x8
  deriving DecidableEq, Repr
/-- PREF levels (R75). -/
inductive PrefLvl | l1 | l2
  deriving DecidableEq, Repr
/-- Scopes (R217). -/
inductive Scope | grp | team | dev | sys
  deriving DecidableEq, Repr
/-- Ordering codes of atomics (R221). -/
inductive AOrd | none | acq | rel | ar
  deriving DecidableEq, Repr
/-- Operations of atomics at memory (R222), without the width bit. -/
inductive AtomOp | add | minI | minN | maxI | maxN | and | or | xor | exch | cas | fadd
  deriving DecidableEq, Repr
/-- ATOML operations (R144). -/
inductive LOp | add | min | max | and | or | xor | exch | cas
  deriving DecidableEq, Repr
/-- ATOML types (R144). -/
inductive LTy | i32 | n32 | i64 | n64
  deriving DecidableEq, Repr
/-- FENCE kinds (R227). -/
inductive FenceKind | full | acq | rel
  deriving DecidableEq, Repr
/-- LAFL modes (R268). -/
inductive FoldMode | lane | memb | all
  deriving DecidableEq, Repr

/-! ## Operands -/

/-- Special values, codes 0x180 to 0x193 (R32). -/
inductive Special
  | lane | member | memberid | thread | group | width | members | origin
  | teamX | teamY | teamZ | teamMb | nteamX | nteamY | nteamZ | nteamMb
  | cycle | core | device | memberbase
  deriving DecidableEq, Repr

/-- An operand code of nine bits (R30): a register, a special value, or a reserved code. -/
inductive Opnd
  | v (n : BitVec 8)
  | s (n : BitVec 6)
  | w (n : BitVec 5)
  | a (n : BitVec 4)
  | p (n : BitVec 3)
  | h (n : Fin 3)
  | special (x : Special)
  | reserved (code : BitVec 9)
  deriving DecidableEq, Repr

/-- Source B: a register, the 18-bit immediate of R27, or the literal slot of R28. -/
inductive Src
  | reg (o : Opnd)
  | imm (i : BitVec 18)
  | lit (l : BitVec 64)
  deriving DecidableEq, Repr

/-- The address part of R75: an 18-bit displacement (I = 1), or an offset register with its
scale and a 9-bit displacement. -/
inductive Addr
  | disp (d : BitVec 18)
  | idx (off : Opnd) (scale : Scale) (d : BitVec 9)
  deriving DecidableEq, Repr

/-- The fields every core instruction carries beside its operands (R20): predicate, hold,
last-read bits and flag select. -/
structure Ctl where
  pred : BitVec 3
  pneg : Bool
  hold : Hold
  lrA : Bool
  lrB : Bool
  lrC : Bool
  fsel : Fsel
  deriving DecidableEq, Repr

/-- The control fields of an instruction written without predicate, hold, last-read or flag mark
(R22). -/
def Ctl.plain : Ctl := ⟨7, false, .none, false, false, false, .none⟩

/-! ## Shapes of core instructions, one structure per encoding form -/

/-- No operand (NOP, EXIT, YIELD, BKPT, TDONE). -/
structure INone where
  c : Ctl
  deriving DecidableEq, Repr
/-- Lane integer, two sources (R56). -/
structure IBin where
  c : Ctl
  ty : IntTy
  sat : Bool
  d : Opnd
  a : Opnd
  b : Src
  deriving DecidableEq, Repr
/-- Lane integer, three sources (IMAD, BFI, R56). -/
structure ITern where
  c : Ctl
  ty : IntTy
  sat : Bool
  d : Opnd
  a : Opnd
  b : Src
  x : Opnd
  deriving DecidableEq, Repr
/-- Lane integer, one source (R56). -/
structure IUn where
  c : Ctl
  ty : IntTy
  sat : Bool
  d : Opnd
  a : Opnd
  deriving DecidableEq, Repr
/-- ICMP (R59). -/
structure ICmp where
  c : Ctl
  ty : IntTy
  cc : Cond
  d : Opnd
  a : Opnd
  b : Src
  deriving DecidableEq, Repr
/-- SEL (R59). -/
structure ISel where
  c : Ctl
  ty : IntTy
  d : Opnd
  a : Opnd
  b : Src
  q : Opnd
  deriving DecidableEq, Repr
/-- MOVI (R56, R137). -/
structure IMovi where
  c : Ctl
  ty : IntTy
  d : Opnd
  b : Src
  deriving DecidableEq, Repr
/-- Lane floating point, two sources (R60). -/
structure FBin where
  c : Ctl
  rnd : Rnd
  fmt : FFmt
  d : Opnd
  a : Opnd
  b : Src
  deriving DecidableEq, Repr
/-- FFMA (R60). -/
structure FTern where
  c : Ctl
  rnd : Rnd
  fmt : FFmt
  d : Opnd
  a : Opnd
  b : Src
  x : Opnd
  deriving DecidableEq, Repr
/-- Lane floating point, one source (R60). -/
structure FUn where
  c : Ctl
  rnd : Rnd
  fmt : FFmt
  d : Opnd
  a : Opnd
  deriving DecidableEq, Repr
/-- FCMP (R63). -/
structure FCmp where
  c : Ctl
  fmt : FFmt
  cc : FCond
  d : Opnd
  a : Opnd
  b : Src
  deriving DecidableEq, Repr
/-- CVT (R64). -/
structure Cvt where
  c : Ctl
  sat : Bool
  rnd : Rnd
  dt : CvtTy
  st : CvtTy
  d : Opnd
  a : Opnd
  deriving DecidableEq, Repr
/-- PACK (R65). -/
structure Pack where
  c : Ctl
  sat : Bool
  rnd : Rnd
  fmt : PackFmt
  d : Opnd
  a : Opnd
  b : Opnd
  deriving DecidableEq, Repr
/-- UNPACK (R65). -/
structure Unpack where
  c : Ctl
  fmt : PackFmt
  d : Opnd
  a : Opnd
  deriving DecidableEq, Repr
/-- SHFL (R66). -/
structure Shfl where
  c : Ctl
  wide : Bool
  mode : ShflMode
  d : Opnd
  a : Opnd
  b : Src
  deriving DecidableEq, Repr
/-- VOTE and MVOTE (R66, R134). -/
structure Vote where
  c : Ctl
  mode : VoteMode
  d : Opnd
  a : Opnd
  deriving DecidableEq, Repr
/-- LRED and MRED (`flag` is the 64-bit bit), SCAN (`flag` is the exclusive bit) (R66, R134). -/
structure Red where
  c : Ctl
  flag : Bool
  op : RedOp
  d : Opnd
  a : Opnd
  deriving DecidableEq, Repr
/-- Uniform, two sources (R67). -/
structure UBin where
  c : Ctl
  d : Opnd
  a : Opnd
  b : Src
  deriving DecidableEq, Repr
/-- SSHR (R67). -/
structure UShr where
  c : Ctl
  arith : Bool
  d : Opnd
  a : Opnd
  b : Src
  deriving DecidableEq, Repr
/-- SCMP (R67). -/
structure UCmp where
  c : Ctl
  cc : Cond
  nat : Bool
  d : Opnd
  a : Opnd
  b : Src
  deriving DecidableEq, Repr
/-- A destination and source A (SMOV, R67; COLL, R272). -/
structure UMov where
  c : Ctl
  d : Opnd
  a : Opnd
  deriving DecidableEq, Repr
/-- A destination and source B (SMOVI, R67). -/
structure UMovi where
  c : Ctl
  d : Opnd
  b : Src
  deriving DecidableEq, Repr
/-- A displacement target (BRA, BRC, R68). -/
structure Bra where
  c : Ctl
  disp : BitVec 18
  deriving DecidableEq, Repr
/-- BRX (R68); `link` names the link register of BRX.LINK. -/
structure Brx where
  c : Ctl
  a : Opnd
  link : Option Opnd
  deriving DecidableEq, Repr
/-- CALL (R68). -/
structure Call where
  c : Ctl
  disp : BitVec 18
  d : Opnd
  deriving DecidableEq, Repr
/-- RET (R68). -/
structure Ret where
  c : Ctl
  a : Opnd
  deriving DecidableEq, Repr
/-- PAUSE (R68). -/
structure Pause where
  c : Ctl
  n : BitVec 16
  deriving DecidableEq, Repr
/-- TRAP (R71). -/
structure Trap where
  c : Ctl
  code : BitVec 8
  deriving DecidableEq, Repr
/-- RTE (R71); `target` names the s register of bit 57. -/
structure Rte where
  c : Ctl
  target : Option Opnd
  deriving DecidableEq, Repr
/-- RDSR (R71). -/
structure Rdsr where
  c : Ctl
  num : BitVec 18
  d : Opnd
  deriving DecidableEq, Repr
/-- WRSR (R71). -/
structure Wrsr where
  c : Ctl
  num : BitVec 18
  a : Opnd
  deriving DecidableEq, Repr
/-- ASET (R74). -/
structure ASet where
  c : Ctl
  rd : Bool
  wr : Bool
  atm : Bool
  pv : Bool
  d : Opnd
  a : Opnd
  b : Opnd
  x : Opnd
  deriving DecidableEq, Repr
/-- ANARROW (R74). -/
structure ANarrow where
  c : Ctl
  rd : Bool
  wr : Bool
  atm : Bool
  d : Opnd
  a : Opnd
  b : Opnd
  x : Opnd
  deriving DecidableEq, Repr
/-- ARD (R74). -/
structure ARd where
  c : Ctl
  fld : AField
  d : Opnd
  a : Opnd
  deriving DecidableEq, Repr
/-- LD, ST, LDU, LDW, LDL, STL (R75, R136, R140). -/
structure Mem where
  c : Ctl
  w : Width
  d : Opnd
  a : Opnd
  addr : Addr
  deriving DecidableEq, Repr
/-- PREF (R75). -/
structure Pref where
  c : Ctl
  lvl : PrefLvl
  a : Opnd
  addr : Addr
  deriving DecidableEq, Repr
/-- LD.ACQ, ST.REL, LDRA (R219, R229). -/
structure OMem where
  c : Ctl
  wide : Bool
  scope : Scope
  d : Opnd
  a : Opnd
  addr : Addr
  deriving DecidableEq, Repr
/-- MBCAST (R134). -/
structure MBcast where
  c : Ctl
  wide : Bool
  d : Opnd
  a : Opnd
  b : Src
  deriving DecidableEq, Repr
/-- REGRP (R138): the key, the first carried register and how many. -/
structure Regrp where
  c : Ctl
  key : Opnd
  vb : Opnd
  n : BitVec 9
  deriving DecidableEq, Repr
/-- REGRET (R138). -/
structure Regret where
  c : Ctl
  vb : Opnd
  n : BitVec 9
  deriving DecidableEq, Repr
/-- ATOML (R144); `cmp` is the compare operand of CAS. -/
structure AtomL where
  c : Ctl
  op : LOp
  ty : LTy
  d : Opnd
  a : Opnd
  b : Src
  cmp : Option Opnd
  deriving DecidableEq, Repr
/-- CPY (R147). -/
structure Cpy where
  c : Ctl
  ch : BitVec 3
  pm : Bool
  lin : Bool
  d : Opnd
  a : Opnd
  b : Opnd
  deriving DecidableEq, Repr
/-- CPYOUT (R147). -/
structure CpyOut where
  c : Ctl
  ch : BitVec 3
  pm : Bool
  d : Opnd
  a : Opnd
  b : Opnd
  deriving DecidableEq, Repr
/-- CPYH (R148). -/
structure CpyH where
  c : Ctl
  ch : BitVec 3
  d : Opnd
  a : Opnd
  b : Opnd
  deriving DecidableEq, Repr
/-- CPYWP (R153). -/
structure CpyWp where
  c : Ctl
  ch : BitVec 3
  rst : Bool
  d : Opnd
  deriving DecidableEq, Repr
/-- CPYWAIT (R153). -/
structure CpyWait where
  c : Ctl
  ch : BitVec 3
  b : Src
  deriving DecidableEq, Repr
/-- BAR.ARR and BAR.LAST (R155). -/
structure BarD where
  c : Ctl
  bar : BitVec 4
  d : Opnd
  b : Src
  deriving DecidableEq, Repr
/-- BAR.WAIT (R155). -/
structure BarWait where
  c : Ctl
  bar : BitVec 4
  a : Opnd
  deriving DecidableEq, Repr
/-- BAR.SYNC (R155). -/
structure BarSync where
  c : Ctl
  bar : BitVec 4
  b : Src
  deriving DecidableEq, Repr
/-- BAR.DEFER (R155). -/
structure BarDefer where
  c : Ctl
  bar : BitVec 4
  d : Opnd
  b : Src
  chans : BitVec 8
  deriving DecidableEq, Repr
/-- LAUNCH (R160). -/
structure LaunchI where
  c : Ctl
  d : Opnd
  a : Opnd
  q : Src
  deriving DecidableEq, Repr
/-- ATOM and RED (R221); `wide` is the width bit of the op code (R222). -/
structure Atom where
  c : Ctl
  op : AtomOp
  wide : Bool
  scope : Scope
  ord : AOrd
  scale : Scale
  d : Opnd
  a : Opnd
  b : Opnd
  deriving DecidableEq, Repr
/-- FENCE (R227). -/
structure Fence where
  c : Ctl
  kind : FenceKind
  scope : Scope
  deriving DecidableEq, Repr
/-- QFENCE (R228). -/
structure QFence where
  c : Ctl
  queues : BitVec 11
  deriving DecidableEq, Repr
/-- WAITC (R230). -/
structure Waitc where
  c : Ctl
  cc : Cond
  nat : Bool
  wide : Bool
  scope : Scope
  a : Opnd
  b : Src
  deriving DecidableEq, Repr
/-- RGET and RPUT (R232). -/
structure Rmt where
  c : Ctl
  w : Width
  scale : Scale
  win : BitVec 6
  d : Opnd
  a : Opnd
  b : Opnd
  deriving DecidableEq, Repr
/-- RATOM (R232). -/
structure RAtom where
  c : Ctl
  op : AtomOp
  wide : Bool
  win : BitVec 6
  d : Opnd
  a : Opnd
  b : Opnd
  deriving DecidableEq, Repr
/-- LACLR (R267). -/
structure LaX where
  c : Ctl
  x : BitVec 2
  deriving DecidableEq, Repr
/-- LAADD (R267). -/
structure LaAdd where
  c : Ctl
  x : BitVec 2
  fmt : FFmt
  a : Opnd
  deriving DecidableEq, Repr
/-- LAMAD (R267). -/
structure LaMad where
  c : Ctl
  x : BitVec 2
  fmt : FFmt
  a : Opnd
  b : Opnd
  deriving DecidableEq, Repr
/-- LAMRG (R267). -/
structure LaMrg where
  c : Ctl
  x : BitVec 2
  xs : BitVec 2
  deriving DecidableEq, Repr
/-- LAFL (R268). -/
structure LaFl where
  c : Ctl
  x : BitVec 2
  xs : BitVec 2
  mode : FoldMode
  deriving DecidableEq, Repr
/-- LARND (R269). -/
structure LaRnd where
  c : Ctl
  x : BitVec 2
  fmt : FFmt
  rnd : Rnd
  d : Opnd
  deriving DecidableEq, Repr
/-- LALD and LASV (R270). -/
structure LaMem where
  c : Ctl
  x : BitVec 2
  a : Opnd
  addr : Addr
  deriving DecidableEq, Repr
/-- What REDLA adds (R271): the image of an x register, or one value. -/
inductive RedlaSrc
  | image (xs : BitVec 2)
  | value (fmt : FFmt) (d : Opnd)
  deriving DecidableEq, Repr
/-- REDLA (R271); `kw` is true for .W. -/
structure Redla where
  c : Ctl
  kw : Bool
  scope : Scope
  rel : Bool
  scale : Scale
  a : Opnd
  b : Opnd
  src : RedlaSrc
  deriving DecidableEq, Repr
/-- MMA and MMAD (R312); `z` is .Z, which MMA does not have. -/
structure Mma where
  c : Ctl
  tile : BitVec 4
  z : Bool
  a : Opnd
  b : Opnd
  f : Opnd
  deriving DecidableEq, Repr
/-- MDRAIN (R312). -/
structure MDrain where
  c : Ctl
  tile : BitVec 4
  z : Bool
  f : Opnd
  deriving DecidableEq, Repr
/-- MZERO (R312). -/
structure MZero where
  c : Ctl
  tile : BitVec 4
  deriving DecidableEq, Repr
/-- MKLD and MKST (R316). -/
structure MTile where
  c : Ctl
  tile : BitVec 4
  a : Opnd
  disp : BitVec 18
  deriving DecidableEq, Repr
/-- DPLD (R317). -/
structure Dpld where
  c : Ctl
  n : BitVec 6
  a : Opnd
  deriving DecidableEq, Repr
/-- DPINV (R318). -/
structure Dpinv where
  c : Ctl
  n : BitVec 6
  deriving DecidableEq, Repr
/-- MSTAT (R319). -/
structure MStat where
  c : Ctl
  n : BitVec 9
  d : Opnd
  deriving DecidableEq, Repr

/-! ## Shapes of drain micro-instructions (R321) -/

/-- Types of micro-instructions (R321). -/
inductive DTy | f32 | f64 | i32
  deriving DecidableEq, Repr
/-- DCVT types (R322). -/
inductive DCvtTy | f32 | f64 | i32 | bf16 | f16
  deriving DecidableEq, Repr
/-- DMOV, DEXP2, DRCP without type: destination and source. -/
structure DUn where
  d : BitVec 3
  a : BitVec 3
  deriving DecidableEq, Repr
/-- DMOV.I. -/
structure DMovI where
  d : BitVec 3
  imm : BitVec 13
  deriving DecidableEq, Repr
/-- DROW and DCOL. -/
structure DPos where
  d : BitVec 3
  g : Bool
  deriving DecidableEq, Repr
/-- DLDS. -/
structure DLds where
  d : BitVec 3
  col : Bool
  k : BitVec 2
  deriving DecidableEq, Repr
/-- Typed, one source (DEXP2, DRCP). -/
structure DTUn where
  ty : DTy
  d : BitVec 3
  a : BitVec 3
  deriving DecidableEq, Repr
/-- Typed, two sources. -/
structure DTBin where
  ty : DTy
  d : BitVec 3
  a : BitVec 3
  b : BitVec 3
  deriving DecidableEq, Repr
/-- Typed, three sources. -/
structure DTTern where
  ty : DTy
  d : BitVec 3
  a : BitVec 3
  b : BitVec 3
  x : BitVec 3
  deriving DecidableEq, Repr
/-- DSEL. -/
structure DSelI where
  d : BitVec 3
  a : BitVec 3
  b : BitVec 3
  x : BitVec 3
  deriving DecidableEq, Repr
/-- DCMP. -/
structure DCmpI where
  ty : DTy
  cc : Cond
  d : BitVec 3
  a : BitVec 3
  b : BitVec 3
  deriving DecidableEq, Repr
/-- DSCALE and DBIAS. -/
structure DSide where
  ty : DTy
  d : BitVec 3
  a : BitVec 3
  col : Bool
  k : BitVec 2
  deriving DecidableEq, Repr
/-- DCVT. -/
structure DCvtI where
  st : DCvtTy
  dt : DCvtTy
  rnd : Rnd
  d : BitVec 3
  a : BitVec 3
  deriving DecidableEq, Repr
/-- DST; `z` is the base-2 logarithm of the size. -/
structure DStI where
  glob : Bool
  z : BitVec 2
  a : BitVec 3
  b : BitVec 3
  deriving DecidableEq, Repr
/-- DSTV. -/
structure DStvI where
  a : BitVec 3
  deriving DecidableEq, Repr
/-- DLA. -/
structure DLaI where
  ty : DTy
  x : BitVec 2
  a : BitVec 3
  deriving DecidableEq, Repr

end Sys2Proof
end

