-- ==== Sys2Proof/Syntax/Events.lean ====
section
/-! DEFINITION. What the event rows of spec/opcode_table.json name: which group, operation, port or
register an event is about, and the values that come from outside the device (another device's
answer, a host request, a flit, an error). Data only. -/

namespace Sys2Proof

/-- A team: its launch's handle and its linear index (R84, R200). -/
structure TeamKey where
  launch : Nat
  team : Nat
  deriving DecidableEq, Repr
/-- A group: its team, %group, and whether it is the shadow copy of a check pair (R86, R106). -/
structure GroupKey where
  team : TeamKey
  group : Nat
  shadow : Bool
  deriving DecidableEq, Repr
/-- A split of a group (R90). -/
structure SplitKey where
  g : GroupKey
  sid : Nat
  deriving DecidableEq, Repr

/-- What a peer device answers: data, or the fault it met (REMOTE_WINDOW, MEM_UNCORRECTABLE,
ENDPOINT_DOWN as the cause codes of R122). -/
inductive PeerReply
  | data (bytes : List Byte)
  | fault (code : BitVec 8)
  deriving DecidableEq, Repr

/-- The line that leaves a home L2 for another; `poison` marks an uncorrectable error of its write-back (R175, R176). -/
structure LineEvict where
  line : Nat
  poison : Bool
  deriving DecidableEq, Repr

/-- One group (GROUP_END, TAKE_CLASS_A_TRAP and others). -/
structure EvGroup where
  g : GroupKey
  deriving DecidableEq, Repr
/-- One split (CLAUSE_START, WAIT_SATISFIED). -/
structure EvSplit where
  g : GroupKey
  sid : Nat
  deriving DecidableEq, Repr
/-- One core of the package, 0 to 383 (R32). -/
structure EvCore where
  core : Nat
  deriving DecidableEq, Repr
/-- One team. -/
structure EvTeam where
  t : TeamKey
  deriving DecidableEq, Repr
/-- One context. -/
structure EvCtx where
  ctx : Nat
  deriving DecidableEq, Repr
/-- One context on one core (TIME_SLICE_EXPIRY, PRIORITY_PREEMPTION). -/
structure EvCtxCore where
  ctx : Nat
  core : Nat
  deriving DecidableEq, Repr
/-- One launch, by its handle. -/
structure EvLaunch where
  handle : Nat
  deriving DecidableEq, Repr
/-- VARIABLE_LATENCY_RESULT_ARRIVAL: an operation's data for one octet (R119). -/
structure EvArrival where
  op : Nat
  octet : Nat
  deriving DecidableEq, Repr
/-- DISTRIBUTOR_TAKE_LAUNCH: the context and its queue (R197). -/
structure EvTake where
  ctx : Nat
  q : Nat
  deriving DecidableEq, Repr
/-- TEAM_DISPATCH: the team and the core that takes it; which core is not architectural (R207). -/
structure EvDispatch where
  handle : Nat
  team : Nat
  core : Nat
  deriving DecidableEq, Repr
/-- GROUP_RESUME: the saved group and the core it resumes on (R210). -/
structure EvResume where
  g : GroupKey
  core : Nat
  deriving DecidableEq, Repr
/-- HOME_ACCESS: one piece of an outstanding operation reaches its home. `reply` is what a peer
answers for a remote frame; `bad` is an uncorrectable error of the home's read; `evict` is whether the write-back
of the line that leaves the home L2 for it fails; `dropped` is an urgent packet taking its place (R175, R176, R192). -/
structure EvHome where
  op : Nat
  piece : Nat
  reply : PeerReply
  bad : Bool
  evict : Option LineEvict
  dropped : Bool
  deriving DecidableEq, Repr
/-- One thread's operation of an atomic reaches its executor (R223, R224), or an urgent packet takes its place (R192). -/
structure EvAtomic where
  op : Nat
  reply : PeerReply
  bad : Bool
  dropped : Bool
  deriving DecidableEq, Repr
/-- One outstanding operation (LDRA_FLUSH, MONITOR_REGISTER, STORE_ACKNOWLEDGEMENT and others). -/
structure EvOp where
  op : Nat
  deriving DecidableEq, Repr
/-- MONITOR_REGISTER and MONITOR_RECHECK: the value a peer's home reads when the watched location is
on a remote frame (R231). -/
structure EvMonitor where
  op : Nat
  reply : PeerReply
  deriving DecidableEq, Repr
/-- TABLE_WALK: a core's walk of one page (R179, R193); `bad` is an uncorrectable error of a read. -/
structure EvWalk where
  core : Nat
  ctx : Nat
  va : Nat
  member : Nat
  bad : Bool
  deriving DecidableEq, Repr
/-- COPY_CHANNEL_OPERATION: how many units (rows of a CPYH, words of a linear copy) land, and where in the next one its read or
write meets an uncorrectable error, if it does: the byte's distance from the unit's start (R149, R151). -/
structure EvCopy where
  op : Nat
  units : Nat
  bad : Option Nat
  reply : PeerReply
  deriving DecidableEq, Repr
/-- DEFERRED_ARRIVAL_PERFORM: one deferred arrival of a team's barrier (R158, R162). -/
structure EvDeferred where
  t : TeamKey
  id : Nat
  deriving DecidableEq, Repr
/-- One cluster, 0 to 95 (R5). -/
structure EvCluster where
  cluster : Nat
  deriving DecidableEq, Repr
/-- One matrix-queue operation of a cluster (R334). -/
structure EvMatrix where
  cluster : Nat
  op : Nat
  deriving DecidableEq, Repr
/-- MATRIX_QUEUE_OPERATION_PERFORM: the cluster; `reply` is what a peer answers to the accesses of an
MKLD or MKST on remote frames, `bad` an uncorrectable error they meet. -/
structure EvMatMove where
  cluster : Nat
  reply : PeerReply
  bad : Bool
  deriving DecidableEq, Repr
/-- DRAIN_ELEMENT: the cluster whose drain unit runs the next element; `met` is the cause that the
element's first global store meets beyond this device's own state: an uncorrectable error, or a
peer's refusal. -/
structure EvDrain where
  cluster : Nat
  met : Option (BitVec 8)
  deriving DecidableEq, Repr
/-- REMOTE_OPERATION_PERFORM: the head pass of a core's remote queue is checked or performed at its peer,
which answers (R233, R235); `bad` lists the threads that the peer refuses, with their causes. -/
structure EvRemote where
  core : Nat
  reply : PeerReply
  bad : List (Nat × BitVec 8)
  deriving DecidableEq, Repr
/-- What an access from another device does (R368, R369). -/
inductive PeerKind
  | read
  | write (data : List Byte)
  | atomic (op : AtomOp) (wide : Bool) (b : BitVec 64) (c : BitVec 64)
  /-- REDLA on a remote frame: a value of a format, or an image's bytes (R271) -/
  | redla (wide : Bool) (value : Option FFmt) (b : BitVec 64) (img : List Byte)
  /-- LDRA (R229) -/
  | ldra
  /-- WAITC: the condition and the value it compares with (R231) -/
  | monitor (cc : Cond) (nat : Bool) (b : BitVec 64)
  /-- the group of such a WAITC has ended: its entry is freed (R231) -/
  | unwatch (cc : Cond) (nat : Bool) (b : BitVec 64)
  deriving DecidableEq, Repr
/-- WINDOW_ACCESS: a peer's RGET, RPUT or RATOM on one of this device's windows (R232, R368). -/
structure EvWindow where
  src : Nat
  win : Nat
  off : Nat
  size : Nat
  kind : PeerKind
  deriving DecidableEq, Repr
/-- REMOTE_FRAME_ACCESS: a peer's access through a remote frame (R369). -/
structure EvFrame where
  src : Nat
  addr : Nat
  size : Nat
  kind : PeerKind
  deriving DecidableEq, Repr
/-- A collective instance (R279). -/
structure InstKey where
  ctx : Nat
  grp : Nat
  inst : Nat
  deriving DecidableEq, Repr
/-- One device's contribution to a collective: its rows of element bit patterns, and for RANK its
observations (R276, R292). -/
structure Contribution where
  dev : Nat
  rows : List (List Nat)
  obs : List Nat
  deriving DecidableEq, Repr
/-- What must agree between the contributions of one instance (R279). -/
structure CollSig where
  op : BitVec 10
  ty : BitVec 8
  out : BitVec 8
  e : Nat
  param : Nat
  root : Nat
  deriving DecidableEq, Repr
/-- COLL_PARTIAL_RECEIVE: a child's partial, in the multiset form of R287 and R292, with the entry
fields it carries (R370); `sig` is none where no row is in it, `absent` the members it counts absent (R280), and `bad` says that
contributions below it differ (R279). -/
structure EvPartial where
  key : InstKey
  src : Nat
  sig : Option CollSig
  absent : BitVec 512
  bad : Bool
  mask : BitVec 512
  fanout : Nat
  timeout : Nat
  parts : List Contribution
  deriving DecidableEq, Repr
/-- An instance's end as the effective root sends it down (R371, R278): code, rows and devices that
arrived, and the contributions the result is formed from. -/
structure CollEnd where
  code : BitVec 7
  parts : List Contribution
  deriving DecidableEq, Repr
/-- COLL_RESULT_DELIVERY: the instance, and the root's end when the root is another device. -/
structure EvCollEnd where
  key : InstKey
  fromPeer : Option CollEnd
  deriving DecidableEq, Repr
/-- COLL_CONTRIBUTION: this device's engine reads one instance's inputs; `bad` is an uncorrectable
error of that read (R280). -/
structure EvContrib where
  op : Nat
  /-- the virtual address of an uncorrectable error that the reading meets (R280) -/
  bad : Option Nat
  deriving DecidableEq, Repr
/-- COLL_INSTANCE_TIMEOUT. -/
structure EvInst where
  key : InstKey
  deriving DecidableEq, Repr

/-- Island states (R373). -/
inductive IslandSt | off | islandOnly | joined
  deriving DecidableEq, Repr
/-- Kinds of traffic that software or another die hands the island as bytes, or that an operation asks (R364). -/
inductive Traffic | request | response | urgent | broadcast | atomic | management
  deriving DecidableEq, Repr
/-- What a packet that this device makes is about: the n-th request of one of its operations, an answer to a peer's request or the
wake of a peer's monitor, by the request's number here, a partial or the end of a collective, or an island state with the instances
whose contributions are kept (R229, R231, R370 to R373); any other packet is its bytes, of a kind of traffic. -/
inductive Note
  | bytes (t : Traffic)
  | request (op n : Nat) (t : Traffic)
  | reply (id : Nat) (r : PeerReply)
  | wake (id : Nat) (r : PeerReply)
  | part (x : EvPartial)
  | ending (key : InstKey) (sig : Option CollSig) (fin : CollEnd)
  | island (st : IslandSt) (kept : List InstKey)
  deriving DecidableEq, Repr
/-- A packet (R363, R364, R366, R402): its source, or 512 until it is sent, its destination, its number between them, its channel, for a multicast the
destination set and the source queue, its bytes, and what it is about. A destination is a device, below 512; a plane switch, 512
and its port (R373); or the class and queue of a multicast, 1,024 and above (R366). -/
structure Packet where
  src : Nat
  dst : Nat
  num : BitVec 32
  ch : BitVec 3
  dests : BitVec 512
  queue : Nat
  data : List Byte
  note : Note
  deriving DecidableEq, Repr
/-- The fields of a flit (R361). -/
structure Flit where
  ty : BitVec 4
  ch : BitVec 3
  slot : Bool
  seq : BitVec 12
  ack : BitVec 12
  nak : Bool
  crch : BitVec 3
  cred : BitVec 8
  resv : BitVec 20
  packet : Option Packet
  payload : List Byte
  deriving DecidableEq, Repr
/-- One port, 0 to 31. -/
structure EvPort where
  port : Nat
  deriving DecidableEq, Repr
/-- FLIT_RECEIVE: a flit at a port's receiver; `ok` says that its tag and link check hold. -/
structure EvFlit where
  port : Nat
  flit : Flit
  ok : Bool
  deriving DecidableEq, Repr
/-- FLIT_TRANSMISSION: the port sends its next flit: a new packet's flit, an idle flit (`none`), or the
next flit to resend. -/
structure EvSend where
  port : Nat
  ch : BitVec 3
  packet : Option Packet
  deriving DecidableEq, Repr
/-- NAK_RECEIVE: the transmitter of a port learns which SEQ failed (R362). -/
structure EvNak where
  port : Nat
  seq : BitVec 12
  deriving DecidableEq, Repr
/-- LENDING_FLIT_RECEIVE: the limits a receiver announces (R365). -/
structure EvLend where
  port : Nat
  period : Nat
  limits : List Nat
  deriving DecidableEq, Repr
/-- MULTICAST_DELIVERY: a multicast packet arrives here (R366): class (false A, true B), source,
source queue, its place in the source's order, its destinations, and the collective end it carries. -/
structure EvMulticast where
  src : Nat
  classB : Bool
  queue : Nat
  num : Nat
  dests : BitVec 512
  coll : Option (InstKey × Option CollSig × CollEnd)
  deriving DecidableEq, Repr
/-- KEY_CHANGE_MARKER sends, and MARKER_RECEIVE accepts, a marker that names a slot (R378). -/
structure EvMarker where
  port : Nat
  slot : Bool
  seq : BitVec 12
  deriving DecidableEq, Repr
/-- LINK_KEY_LOAD: firmware loads a key into a slot of one direction of a port (R377, R378). -/
structure EvLinkKey where
  port : Nat
  tx : Bool
  slot : Bool
  key : BitVec 256
  deriving DecidableEq, Repr
/-- ISLAND_POWER_GOOD: power is good, and whether the island firmware verified (R373). -/
structure EvPower where
  verified : Bool
  deriving DecidableEq, Repr
/-- STATE_ANNOUNCEMENT_RECEIVE: another device's island state, and the instances whose contributions its island had accepted before
it left (R372, R374). -/
structure EvAnnounce where
  dev : Nat
  st : IslandSt
  kept : List InstKey
  deriving DecidableEq, Repr
/-- PEER_UNREACHABLE_TIMEOUT. -/
structure EvPeer where
  dev : Nat
  deriving DecidableEq, Repr
/-- DIE_BOOT: a die's boot ends, with the result of its signature check (R380). -/
structure EvBoot where
  die : Nat
  ok : Bool
  digest : BitVec 512
  deriving DecidableEq, Repr
/-- The management record of the package flash (R392), as verified by the master. -/
structure MgmtRecord where
  device : BitVec 9
  manager : BitVec 9
  deriving DecidableEq, Repr
/-- DIE_FAULT_REPORT and HEARTBEAT_MISS. -/
structure EvDie where
  die : Nat
  deriving DecidableEq, Repr
/-- A thermal event: the hottest junction in degrees and the Curb budget firmware sets (R399). -/
structure EvThermal where
  tmax : BitVec 8
  budget : BitVec 11
  deriving DecidableEq, Repr
/-- QTAIL_WRITE (R394). -/
structure EvQTail where
  ctx : Nat
  q : Nat
  val : BitVec 32
  deriving DecidableEq, Repr
/-- CRHEAD_WRITE (R394). -/
structure EvCrHead where
  ctx : Nat
  val : BitVec 32
  deriving DecidableEq, Repr
/-- A written doubleword (FEATREQ1_WRITE, RETRY_WRITE, CURBBUDGET_WRITE). -/
structure EvVal where
  val : BitVec 64
  deriving DecidableEq, Repr
/-- REGISTER_WRITE: a doubleword written at an address of the device-register space (R384). -/
structure EvRegWrite where
  pa : Nat
  val : BitVec 64
  deriving DecidableEq, Repr
/-- Orders of host requests (R389). -/
inductive HostOrder | plain | acq | rel
  deriving DecidableEq, Repr
/-- What a host request does (R389). -/
inductive HostKind
  | read
  | write (data : List Byte)
  | atomic (op : AtomOp) (wide : Bool) (b : BitVec 64) (c : BitVec 64)
  | regRead
  | regWrite (val : BitVec 64)
  deriving DecidableEq, Repr
/-- A host request (R389); `privileged` says that the privileged host agent sent it, `bad` that an
uncorrectable error meets its read, `reply` what a peer answers for a remote frame. -/
structure HostReq where
  kind : HostKind
  addr : Nat
  phys : Bool
  ctx : Nat
  size : Nat
  order : HostOrder
  member : BitVec 16
  privileged : Bool
  bad : Bool
  reply : PeerReply
  deriving DecidableEq, Repr
/-- HOST_READ, HOST_WRITE, HOST_ATOMIC, HOST_REGISTER_ACCESS. -/
structure EvHost where
  r : HostReq
  deriving DecidableEq, Repr
/-- MANAGEMENT_REQUEST: a host request carried by the fabric from a device (R391). -/
structure EvMgmt where
  src : Nat
  r : HostReq
  deriving DecidableEq, Repr
/-- UNASSIGNED_OPCODE: the instruction word (R33, R34). -/
structure EvWord where
  w : BitVec 64
  deriving DecidableEq, Repr
end Sys2Proof
end

