-- ==== Sys2Proof/Syntax.lean ====
section
/-! DEFINITION. The one inductive of the instruction set: a constructor for every row of
spec/opcode_table.json; the rows that name nothing stand last. The docstring of each names its row and its rule. -/

namespace Sys2Proof

/-- An instruction or event: one constructor for each row of spec/opcode_table.json. -/
inductive Instr
  -- core instructions (R34)
  /-- NOP (R56). -/
  | nop (x : INone)
  /-- IADD (R57). -/
  | iadd (x : IBin)
  /-- ISUB (R57). -/
  | isub (x : IBin)
  /-- IMUL (R57). -/
  | imul (x : IBin)
  /-- IMULH (R57). -/
  | imulh (x : IBin)
  /-- IMAD (R57). -/
  | imad (x : ITern)
  /-- IMIN (R57). -/
  | imin (x : IBin)
  /-- IMAX (R57). -/
  | imax (x : IBin)
  /-- IABS (R57). -/
  | iabs (x : IUn)
  /-- INEG (R57). -/
  | ineg (x : IUn)
  /-- AND (R57). -/
  | and (x : IBin)
  /-- OR (R57). -/
  | or (x : IBin)
  /-- XOR (R57). -/
  | xor (x : IBin)
  /-- NOT (R57). -/
  | not (x : IUn)
  /-- SHL (R57). -/
  | shl (x : IBin)
  /-- SHR (R57). -/
  | shr (x : IBin)
  /-- SAR (R57). -/
  | sar (x : IBin)
  /-- ROT (R57). -/
  | rot (x : IBin)
  /-- POPC (R57). -/
  | popc (x : IUn)
  /-- CLZ (R57). -/
  | clz (x : IUn)
  /-- BREV (R57). -/
  | brev (x : IUn)
  /-- BFX (R58). -/
  | bfx (x : IBin)
  /-- BFI (R58). -/
  | bfi (x : ITern)
  /-- ICMP (R59). -/
  | icmp (x : ICmp)
  /-- SEL (R59). -/
  | sel (x : ISel)
  /-- MOV (R57). -/
  | mov (x : IUn)
  /-- MOVI (R57). -/
  | movi (x : IMovi)
  /-- FADD (R61). -/
  | fadd (x : FBin)
  /-- FSUB (R61). -/
  | fsub (x : FBin)
  /-- FMUL (R61). -/
  | fmul (x : FBin)
  /-- FFMA (R61). -/
  | ffma (x : FTern)
  /-- FMIN (R52). -/
  | fmin (x : FBin)
  /-- FMAX (R52). -/
  | fmax (x : FBin)
  /-- FABS (R60). -/
  | fabs (x : FUn)
  /-- FNEG (R60). -/
  | fneg (x : FUn)
  /-- FRCP (R62). -/
  | frcp (x : FUn)
  /-- FRSQ (R62). -/
  | frsq (x : FUn)
  /-- FSQRT (R62). -/
  | fsqrt (x : FUn)
  /-- FEX2 (R62). -/
  | fex2 (x : FUn)
  /-- FLG2 (R62). -/
  | flg2 (x : FUn)
  /-- FSIN (R62). -/
  | fsin (x : FUn)
  /-- FCOS (R62). -/
  | fcos (x : FUn)
  /-- FCMP (R63). -/
  | fcmp (x : FCmp)
  /-- FCLASS (R63). -/
  | fclass (x : FUn)
  /-- CVT (R64). -/
  | cvt (x : Cvt)
  /-- PACK (R65). -/
  | pack (x : Pack)
  /-- UNPACK (R65). -/
  | unpack (x : Unpack)
  /-- SHFL (R66). -/
  | shfl (x : Shfl)
  /-- VOTE (R66). -/
  | vote (x : Vote)
  /-- LRED (R66). -/
  | lred (x : Red)
  /-- SCAN (R66). -/
  | scan (x : Red)
  /-- SADD (R67). -/
  | sadd (x : UBin)
  /-- SSUB (R67). -/
  | ssub (x : UBin)
  /-- SMUL (R67). -/
  | smul (x : UBin)
  /-- SAND (R67). -/
  | sand (x : UBin)
  /-- SOR (R67). -/
  | sor (x : UBin)
  /-- SXOR (R67). -/
  | sxor (x : UBin)
  /-- SSHL (R67). -/
  | sshl (x : UBin)
  /-- SSHR (R67). -/
  | sshr (x : UShr)
  /-- SCMP (R67). -/
  | scmp (x : UCmp)
  /-- SMOV (R67). -/
  | smov (x : UMov)
  /-- SMOVI (R67). -/
  | smovi (x : UMovi)
  /-- RDLANE (R67). -/
  | rdlane (x : UBin)
  /-- BRA (R68). -/
  | bra (x : Bra)
  /-- BRC (R68). -/
  | brc (x : Bra)
  /-- BRX (R68). -/
  | brx (x : Brx)
  /-- CALL (R68). -/
  | call (x : Call)
  /-- RET (R68). -/
  | ret (x : Ret)
  /-- EXIT (R70). -/
  | exit (x : INone)
  /-- YIELD (R68). -/
  | yield (x : INone)
  /-- PAUSE (R68). -/
  | pause (x : Pause)
  /-- TRAP (R71). -/
  | trap (x : Trap)
  /-- RTE (R129). -/
  | rte (x : Rte)
  /-- RDSR (R72). -/
  | rdsr (x : Rdsr)
  /-- WRSR (R72). -/
  | wrsr (x : Wrsr)
  /-- BKPT (R71). -/
  | bkpt (x : INone)
  /-- ASET (R74). -/
  | aset (x : ASet)
  /-- ADV (R74). -/
  | adv (x : UBin)
  /-- ARD (R74). -/
  | ard (x : ARd)
  /-- ANARROW (R74). -/
  | anarrow (x : ANarrow)
  /-- LD (R78). -/
  | ld (x : Mem)
  /-- ST (R78). -/
  | st (x : Mem)
  /-- LDU (R78). -/
  | ldu (x : Mem)
  /-- PREF (R76). -/
  | pref (x : Pref)
  /-- LD_ACQ (R219). -/
  | ldAcq (x : OMem)
  /-- ST_REL (R219). -/
  | stRel (x : OMem)
  /-- MBCAST (R134). -/
  | mbcast (x : MBcast)
  /-- MRED (R134). -/
  | mred (x : Red)
  /-- MVOTE (R134). -/
  | mvote (x : Vote)
  /-- LDW (R136). -/
  | ldw (x : Mem)
  /-- MOVW (R137). -/
  | movw (x : UMovi)
  /-- REGRP (R98). -/
  | regrp (x : Regrp)
  /-- REGRET (R103). -/
  | regret (x : Regret)
  /-- LDL (R141). -/
  | ldl (x : Mem)
  /-- STL (R141). -/
  | stl (x : Mem)
  /-- ATOML (R145). -/
  | atoml (x : AtomL)
  /-- CPY (R147). -/
  | cpy (x : Cpy)
  /-- CPYH (R148). -/
  | cpyh (x : CpyH)
  /-- CPYOUT (R147). -/
  | cpyout (x : CpyOut)
  /-- CPYWP (R153). -/
  | cpywp (x : CpyWp)
  /-- CPYWAIT (R153). -/
  | cpywait (x : CpyWait)
  /-- BAR_ARR (R156). -/
  | barArr (x : BarD)
  /-- BAR_WAIT (R157). -/
  | barWait (x : BarWait)
  /-- BAR_SYNC (R157). -/
  | barSync (x : BarSync)
  /-- BAR_DEFER (R158). -/
  | barDefer (x : BarDefer)
  /-- BAR_LAST (R159). -/
  | barLast (x : BarD)
  /-- LAUNCH (R160). -/
  | launch (x : LaunchI)
  /-- TDONE (R161). -/
  | tdone (x : INone)
  /-- ATOM (R223). -/
  | atom (x : Atom)
  /-- RED (R223). -/
  | red (x : Atom)
  /-- ATOMR (R226). -/
  | atomr (x : UBin)
  /-- FENCE (R227). -/
  | fence (x : Fence)
  /-- LDRA (R229). -/
  | ldra (x : OMem)
  /-- QFENCE (R228). -/
  | qfence (x : QFence)
  /-- WAITC (R231). -/
  | waitc (x : Waitc)
  /-- RGET (R232). -/
  | rget (x : Rmt)
  /-- RPUT (R232). -/
  | rput (x : Rmt)
  /-- RATOM (R232). -/
  | ratom (x : RAtom)
  /-- LACLR (R267). -/
  | laclr (x : LaX)
  /-- LAADD (R267). -/
  | laadd (x : LaAdd)
  /-- LAMAD (R267). -/
  | lamad (x : LaMad)
  /-- LAMRG (R267). -/
  | lamrg (x : LaMrg)
  /-- LARND (R269). -/
  | larnd (x : LaRnd)
  /-- LALD (R270). -/
  | lald (x : LaMem)
  /-- LASV (R270). -/
  | lasv (x : LaMem)
  /-- LAFL (R268). -/
  | lafl (x : LaFl)
  /-- REDLA (R271). -/
  | redla (x : Redla)
  /-- COLL_SUM (R276). -/
  | collSum (x : UMov)
  /-- COLL_MIN (R276). -/
  | collMin (x : UMov)
  /-- COLL_MAX (R276). -/
  | collMax (x : UMov)
  /-- COLL_HIST (R276). -/
  | collHist (x : UMov)
  /-- COLL_RANK (R276). -/
  | collRank (x : UMov)
  /-- COLL_SELECT (R276). -/
  | collSelect (x : UMov)
  /-- COLL_STAT (R277). -/
  | collStat (x : UMov)
  /-- COLL_BCAST (R276). -/
  | collBcast (x : UMov)
  /-- MMA (R314). -/
  | mma (x : Mma)
  /-- MMAD (R314). -/
  | mmad (x : Mma)
  /-- MDRAIN (R314). -/
  | mdrain (x : MDrain)
  /-- MZERO (R314). -/
  | mzero (x : MZero)
  /-- MKLD (R316). -/
  | mkld (x : MTile)
  /-- MKST (R316). -/
  | mkst (x : MTile)
  /-- DPLD (R317). -/
  | dpld (x : Dpld)
  /-- DPINV (R318). -/
  | dpinv (x : Dpinv)
  /-- MSTAT (R319). -/
  | mstat (x : MStat)
  -- drain micro-instructions (R321)
  /-- DMOV (R321). -/
  | dmov (x : DUn)
  /-- DMOV_I (R321). -/
  | dmovI (x : DMovI)
  /-- DROW (R321). -/
  | drow (x : DPos)
  /-- DCOL (R321). -/
  | dcol (x : DPos)
  /-- DLDS (R323). -/
  | dlds (x : DLds)
  /-- DADD (R322). -/
  | dadd (x : DTBin)
  /-- DMUL (R322). -/
  | dmul (x : DTBin)
  /-- DFMA (R322). -/
  | dfma (x : DTTern)
  /-- DMIN (R322). -/
  | dmin (x : DTBin)
  /-- DMAX (R322). -/
  | dmax (x : DTBin)
  /-- DCLAMP (R322). -/
  | dclamp (x : DTTern)
  /-- DSEL (R321). -/
  | dsel (x : DSelI)
  /-- DCMP (R322). -/
  | dcmp (x : DCmpI)
  /-- DSCALE (R322). -/
  | dscale (x : DSide)
  /-- DBIAS (R322). -/
  | dbias (x : DSide)
  /-- DCVT (R322). -/
  | dcvt (x : DCvtI)
  /-- DEXP2 (R322). -/
  | dexp2 (x : DTUn)
  /-- DRCP (R322). -/
  | drcp (x : DTUn)
  /-- DST (R324). -/
  | dst (x : DStI)
  /-- DSTV (R324). -/
  | dstv (x : DStvI)
  /-- DLA (R324). -/
  | dla (x : DLaI)
  -- events (spec/95_what_each_step_holds.md)
  /-- CLAUSE_START (R17). -/
  | clauseStart (x : EvSplit)
  /-- PAUSE_EXPIRY (R104). -/
  | pauseExpiry (x : EvGroup)
  /-- VARIABLE_LATENCY_RESULT_ARRIVAL (R119). -/
  | variableLatencyResultArrival (x : EvArrival)
  /-- WAIT_SATISFIED (R97). -/
  | waitSatisfied (x : EvSplit)
  /-- REGPOOL_EVICTION (R116). -/
  | regpoolEviction (x : EvCore)
  /-- TAKE_CLASS_A_TRAP (R130). -/
  | takeClassATrap (x : EvGroup)
  /-- GROUP_END (R70). -/
  | groupEnd (x : EvGroup)
  /-- CORRAL_SORT (R99). -/
  | corralSort (x : EvTeam)
  /-- CORE_UNCORRECTABLE_ERROR (R132). -/
  | coreUncorrectableError (x : EvCore)
  /-- WATCHDOG_EXPIRY (R213). -/
  | watchdogExpiry (x : EvGroup)
  /-- DISTRIBUTOR_TAKE_LAUNCH (R197). -/
  | distributorTakeLaunch (x : EvTake)
  /-- TEAM_DISPATCH (R206). -/
  | teamDispatch (x : EvDispatch)
  /-- TEAM_BITMAP_SET (R161). -/
  | teamBitmapSet (x : EvTeam)
  /-- LAUNCH_COMPLETE (R200). -/
  | launchComplete (x : EvLaunch)
  /-- COMPLETION_RING_POST (R394). -/
  | completionRingPost (x : EvCtx)
  /-- TIME_SLICE_EXPIRY (R209). -/
  | timeSliceExpiry (x : EvCtxCore)
  /-- PRIORITY_PREEMPTION (R209). -/
  | priorityPreemption (x : EvCtxCore)
  /-- GROUP_EVICTION (R210). -/
  | groupEviction (x : EvGroup)
  /-- GROUP_RESUME (R210). -/
  | groupResume (x : EvResume)
  /-- HOME_ACCESS (R246). -/
  | homeAccess (x : EvHome)
  /-- ATOMIC_UNIT_OPERATION (R224). -/
  | atomicUnitOperation (x : EvAtomic)
  /-- LDRA_FLUSH (R229). -/
  | ldraFlush (x : EvOp)
  /-- MONITOR_REGISTER (R231). -/
  | monitorRegister (x : EvMonitor)
  /-- MONITOR_RECHECK (R231). -/
  | monitorRecheck (x : EvMonitor)
  /-- TABLE_WALK (R181). -/
  | tableWalk (x : EvWalk)
  /-- PACKET_RESEND (R192). -/
  | packetResend (x : EvOp)
  /-- COPY_CHANNEL_OPERATION (R149). -/
  | copyChannelOperation (x : EvCopy)
  /-- DEFERRED_ARRIVAL_PERFORM (R158). -/
  | deferredArrivalPerform (x : EvDeferred)
  /-- MATRIX_PROMOTION (R337). -/
  | matrixPromotion (x : EvMatrix)
  /-- MATRIX_GRANT (R337). -/
  | matrixGrant (x : EvMatrix)
  /-- MATRIX_QUEUE_OPERATION_PERFORM (R336). -/
  | matrixQueueOperationPerform (x : EvMatMove)
  /-- DPLD_INSTALL (R344). -/
  | dpldInstall (x : EvCluster)
  /-- DPINV_PERFORM (R344). -/
  | dpinvPerform (x : EvCluster)
  /-- DRAIN_ELEMENT (R346). -/
  | drainElement (x : EvDrain)
  /-- REMOTE_OPERATION_PERFORM (R235). -/
  | remoteOperationPerform (x : EvRemote)
  /-- WINDOW_ACCESS (R368). -/
  | windowAccess (x : EvWindow)
  /-- REMOTE_FRAME_ACCESS (R369). -/
  | remoteFrameAccess (x : EvFrame)
  /-- REMOTE_RETRY_RESEND (R375). -/
  | remoteRetryResend (x : EvOp)
  /-- RETRY_PERIOD_EXPIRY (R234). -/
  | retryPeriodExpiry (x : EvOp)
  /-- COLL_CONTRIBUTION (R280). -/
  | collContribution (x : EvContrib)
  /-- COLL_PARTIAL_RECEIVE (R371). -/
  | collPartialReceive (x : EvPartial)
  /-- COLL_RESULT_DELIVERY (R371). -/
  | collResultDelivery (x : EvCollEnd)
  /-- COLL_INSTANCE_TIMEOUT (R372). -/
  | collInstanceTimeout (x : EvInst)
  /-- FLIT_RECEIVE (R362). -/
  | flitReceive (x : EvFlit)
  /-- NAK_RECEIVE (R362). -/
  | nakReceive (x : EvNak)
  /-- PORT_DOWN (R363). -/
  | portDown (x : EvPort)
  /-- PORT_UP (R360). -/
  | portUp (x : EvPort)
  /-- LENDING_PERIOD (R365). -/
  | lendingPeriod (x : EvPort)
  /-- LENDING_FLIT_RECEIVE (R365). -/
  | lendingFlitReceive (x : EvLend)
  /-- ISSUE_SLOT_SELECTION (R208). -/
  | issueSlotSelection
  /-- FLIT_TRANSMISSION (R377). -/
  | flitTransmission (x : EvSend)
  /-- STORE_ACKNOWLEDGEMENT (R218). -/
  | storeAcknowledgement (x : EvOp)
  /-- MULTICAST_DELIVERY (R366). -/
  | multicastDelivery (x : EvMulticast)
  /-- KEY_CHANGE_MARKER (R378). -/
  | keyChangeMarker (x : EvMarker)
  /-- MARKER_RECEIVE (R378). -/
  | markerReceive (x : EvMarker)
  /-- REKEY_THRESHOLD (R379). -/
  | rekeyThreshold (x : EvPort)
  /-- REKEY_STALL_TIMEOUT (R379). -/
  | rekeyStallTimeout (x : EvPort)
  /-- ISLAND_POWER_GOOD (R373). -/
  | islandPowerGood (x : EvPower)
  /-- STATE_ANNOUNCEMENT_RECEIVE (R373). -/
  | stateAnnouncementReceive (x : EvAnnounce)
  /-- PEER_UNREACHABLE_TIMEOUT (R373). -/
  | peerUnreachableTimeout (x : EvPeer)
  /-- MANAGEMENT_REQUEST (R391). -/
  | managementRequest (x : EvMgmt)
  /-- DIE_BOOT (R380). -/
  | dieBoot (x : EvBoot)
  /-- DIE_FAULT_REPORT (R383). -/
  | dieFaultReport (x : EvDie)
  /-- HEARTBEAT_MISS (R383). -/
  | heartbeatMiss (x : EvDie)
  /-- THERMAL_THROTTLE (R399). -/
  | thermalThrottle (x : EvThermal)
  /-- THERMAL_SHUTDOWN (R399). -/
  | thermalShutdown (x : EvThermal)
  /-- THERMAL_RETURN (R399). -/
  | thermalReturn (x : EvThermal)
  /-- DEBUG_HALT (R397). -/
  | debugHalt (x : EvGroup)
  /-- FEATREQ1_WRITE (R388). -/
  | featreq1Write (x : EvVal)
  /-- QTAIL_WRITE (R394). -/
  | qtailWrite (x : EvQTail)
  /-- CRHEAD_WRITE (R394). -/
  | crheadWrite (x : EvCrHead)
  /-- RETRY_WRITE (R376). -/
  | retryWrite (x : EvVal)
  /-- CURBBUDGET_WRITE (R386). -/
  | curbbudgetWrite (x : EvVal)
  /-- REGISTER_WRITE (R9). -/
  | registerWrite (x : EvRegWrite)
  /-- HOST_READ (R389). -/
  | hostRead (x : EvHost)
  /-- HOST_WRITE (R389). -/
  | hostWrite (x : EvHost)
  /-- HOST_ATOMIC (R389). -/
  | hostAtomic (x : EvHost)
  /-- HOST_REGISTER_ACCESS (R389). -/
  | hostRegisterAccess (x : EvHost)
  /-- UNASSIGNED_OPCODE (R34). -/
  | unassignedOpcode (x : EvWord)
  /-- LINK_KEY_LOAD (R378). -/
  | linkKeyLoad (x : EvLinkKey)
  -- rows that name nothing
  /-- DNOP (R321). -/
  | dnop
  /-- DEND (R321). -/
  | dend
  /-- CURB_WINDOW_START (R352). -/
  | curbWindowStart
  /-- COMPUTE_JOIN (R373). -/
  | computeJoin
  /-- COMPUTE_LEAVE (R374). -/
  | computeLeave
  /-- ISLAND_RESET_REQUEST (R373). -/
  | islandResetRequest
  /-- ISLAND_POWER_LOSS (R373). -/
  | islandPowerLoss
  /-- BOOT_WINDOW_EXPIRY (R380). -/
  | bootWindowExpiry
  /-- CTX_START (R395). -/
  | ctxStart
  /-- CTX_END (R395). -/
  | ctxEnd
  /-- RES_UPDATE (R395). -/
  | resUpdate
  /-- TLB_INV (R395). -/
  | tlbInv
  /-- KEY_LOAD (R395). -/
  | keyLoad
  /-- KEY_CLEAR (R395). -/
  | keyClear
  /-- ATTEST (R398). -/
  | attest
  /-- DBG_ATTACH (R397). -/
  | dbgAttach
  /-- DBG_DETACH (R397). -/
  | dbgDetach
  /-- DBG_HALT (R397). -/
  | dbgHalt
  /-- DBG_RESUME (R397). -/
  | dbgResume
  /-- DBG_LOCATE (R397). -/
  | dbgLocate
  /-- BAD_COMMAND (R395). -/
  | badCommand
  deriving DecidableEq, Repr

end Sys2Proof
end

