-- ==== Sys2Proof/Config.lean ====
section
/-! DEFINITION. What an implementation fixes, and the free values: values and choices the spec leaves
open (R13 and the rules named at each). A free value is an opaque constant, so that no proof can see
what it is; most take the counter `State.sched.free`, which a step that uses one advances. -/

namespace Sys2Proof.Config

/-- Which of `n` enabled moments comes next, where the spec leaves their order open (R13, R167):
read modulo `n`. DESIGN CHOICE: log entry 3. -/
opaque choice : Nat → Nat → Nat
/-- A byte that the inline encryption gives when a granule is read under a key other than the one it
was written under (R176): by the two keys, the physical address and the stored byte. DESIGN CHOICE: log entry 3. -/
opaque foreignByte : BitVec 512 → BitVec 512 → Nat → BitVec 8 → BitVec 8
/-- Which of the sixteen entries of a 64 KiB page an access takes when they differ (R179). DESIGN CHOICE: log entry 3. -/
opaque pageEntry : Nat → BitVec 4
/-- Whether an access uses a translation that a TLB or a walk cache holds, rather than the entry that its table has by now (R193): by
the counter of free values, the unit and the page. DESIGN CHOICE: log entry 3. -/
opaque cacheUsed : Nat → Nat → Nat → Bool
/-- The identity key's public-key digest, 64 bytes, of an attestation report (R398). DESIGN CHOICE: log entry 3. -/
opaque identityDigest : Nat → BitVec 8
/-- The signature bytes of an attestation report (R398): by the signed bytes and the byte's index. DESIGN CHOICE: log entry 3. -/
opaque signature : List (BitVec 8) → Nat → BitVec 8
/-- The fused key's verdict on a management record read from flash, and the record (R392); none when it
is absent or does not verify. DESIGN CHOICE: log entry 3. -/
opaque managementRecord : Option MgmtRecord
/-- The ciphertext and tag bytes of a flit's first transmission (R361, R377): by key, IV and clear
content. DESIGN CHOICE: log entry 3. -/
opaque flitCipher : BitVec 256 → BitVec 96 → List (BitVec 8) → Nat → BitVec 8
/-- A byte of another device's memory, where an engine of this device reads it through a remote frame: by the counter
of free values and the address. DESIGN CHOICE: log entry 3. -/
opaque peerByte : Nat → Nat → BitVec 8
/-- The value of a result the spec states no value for, by the counter of free values. DESIGN CHOICE: log entry 3. -/
opaque freeWord : Nat → BitVec 64

end Sys2Proof.Config
end

