-- ==== Sys2Proof/Machine/State.lean ====
section
/-! DEFINITION. The state of the machine as plain data: every piece of state the spec names
(INVENTORY.md lists each with its rule), and the model's own fields in `Sched`. Registers and tables
that are large and mostly at their reset value are lists of what differs from it. -/

namespace Sys2Proof.Machine

/-! ## Threads, splits, groups -/

/-- Status word of a long accumulator (R263). -/
structure AccStatus where
  count : BitVec 56
  lost : Bool
  ovf : Bool
  nan : Bool
  ninf : Bool
  pinf : Bool
  deriving DecidableEq, Repr
/-- A long-accumulator image (R262): a narrow one uses the low 384 bits and leaves the others 0. -/
structure Image where
  wide : Bool
  limbs : BitVec 2176
  st : AccStatus
  deriving DecidableEq, Repr

/-- The image of an a register (R73). -/
structure AReg where
  ptr : Word64
  base : Word64
  limit : Word64
  rd : Bool
  wr : Bool
  atm : Bool
  pv : Bool
  deriving DecidableEq, Repr

/-- An entry of a split's view of the operand latch (R23, R95, R118): each thread's value as 64 bits,
and how many instructions the split has issued since the hold. -/
structure Held where
  vals : List Word64
  age : Nat
  deriving DecidableEq, Repr

/-- A part of a serialised split waiting at a clause (R92). -/
structure Deferred where
  mask : Mask
  pc : Word64
  deriving DecidableEq, Repr

/-- What a blocked split waits for (R97, R212). -/
inductive Wait
  /-- the instruction has taken no effect and issues again: code as in R212, and the operation whose result a
  ready-bit stall awaits (R119) -/
  | retry (code : BitVec 8) (op : Option Nat)
  /-- a barrier generation (R157): BAR.SYNC with the arrivals it counted, BAR.WAIT with none -/
  | barrier (bar : Nat) (token : BitVec 32) (arrived : Nat)
  /-- BAR.LAST: the generation, and the predicate it writes (R159) -/
  | barLast (bar : Nat) (token : BitVec 32) (p : BitVec 3) (mask : Mask)
  /-- WAITC: its operation (R231) -/
  | monitor (op : Nat)
  /-- REGRP or REGRET arrived (R98): the carried range, its place in the order of arrivals, and each thread's key, 16
  for a thread that has not issued it -/
  | corral (ret : Bool) (vb : Nat) (n : Nat) (order : Nat) (keys : List Nat)
  /-- a debug halt's BKPT (R397) -/
  | halted
  deriving DecidableEq, Repr

/-- States of a split (R97); FAULTED and ENDED are transient inside a step. -/
inductive SplitSt
  | boundary
  | waiting
  | issuing
  | blocked (w : Wait)
  deriving DecidableEq, Repr

/-- A split (R90). -/
structure Split where
  sid : Nat
  /-- smaller is older -/
  age : Nat
  mask : Mask
  /-- the clause it stands at or runs -/
  pc : Word64
  st : SplitSt
  /-- the slot that issues next, 1 to 7 -/
  slot : Nat
  /-- the fetched clause: header and slots 1 to COUNT (R14) -/
  header : Word64
  code : List Word64
  s : List Word64
  a : List AReg
  /-- s registers whose result has not arrived, with its operation (R119) -/
  sBusy : List (Nat × Nat)
  /-- h0, h1, h2 of the view, the newest first -/
  latch : List Held
  /-- the region entry, or none (R124, R126) -/
  region : Option Word64
  /-- the group's allocation number when the region began (R113) -/
  regionAt : Nat
  defer : List Deferred
  /-- clauses its group has started from its other splits while it was ready to start one (R104) -/
  passed : Nat := 0
  /-- the wait operand that a debugger wrote for the write-pointer wait it goes on with (R211, R397) -/
  bound : Option Word64 := none
  deriving DecidableEq, Repr

/-- A thread of a group (R53, R54, R70, R99, R100, R161). -/
structure Thread where
  /-- p0 to p6; p7 reads true -/
  p : BitVec 7
  fflags : BitVec 5
  /-- pending IEEE flags, five bits for each completion flag -/
  pend : BitVec 60
  exited : Bool
  parked : Bool
  /-- marked done by TDONE, with the number of the next operation at its TDONE (R161) -/
  done : Option Nat
  memberid : Nat
  origin : Nat
  /-- bound long accumulators x0 to x3 -/
  acc : List Image
  deriving DecidableEq, Repr

/-- Where a physical entry was taken from (R112). -/
inductive EntSrc | floor | reserve | pool
  deriving DecidableEq, Repr
/-- A physical entry holding one v name of one octet (R111). `pend` names the splits
whose regions may restore it, none for a mapped entry (R113, R124); `busy` the operation whose result it awaits (R119). -/
structure VEnt where
  name : Nat
  octet : Nat
  vals : List Word32
  src : EntSrc
  seq : Nat
  pend : List Nat
  busy : Option Nat
  deriving DecidableEq, Repr
/-- A mapped w register: one word for each lane (R115). -/
structure WEnt where
  name : Nat
  lanes : List Word32
  busy : Option Nat
  deriving DecidableEq, Repr

/-- Trap record and handler registers (R123). -/
structure TrapRec where
  cause : Word64
  addr : Word64
  mask : Mask
  entry : Word64
  iaddr : Word64
  inst : Word64
  tvec : Word64
  scr : List Word64
  deriving DecidableEq, Repr

/-- Drain-restart registers (R349). -/
structure DrainRegs where
  cause : Word64
  addr : Word64
  req : Word64
  pos : Word64
  fmt0 : Word64
  fmt1 : Word64
  aptr : Word64
  abase : Word64
  alim : Word64
  aperm : Word64
  rows : Word64
  deriving DecidableEq, Repr

/-- A class A trap raised for a group and not yet taken (R130); `nores` where the rule that raises it sets NORES. -/
structure ClassA where
  code : BitVec 8
  addr : Word64
  nores : Bool
  deriving DecidableEq, Repr

/-- While a handler runs (R128, R129): the deferral list of the split that trapped, the trap's cause, the splits that issue
nothing until RTE, and the number of the next operation at its entry (log entry 36). -/
structure Handler where
  defer : List Deferred
  code : BitVec 8
  others : List Nat
  since : Nat
  deriving DecidableEq, Repr

/-- A group context (R84 to R110, R123, R186, R213, R215, R349, R353). -/
structure Group where
  key : GroupKey
  ctx : Nat
  core : Nat
  w : Nat
  m : Nat
  floor : Nat
  threads : List Thread
  v : List VEnt
  wr : List WEnt
  /-- w registers invalidated under R101 -/
  stale : BitVec 32
  splits : List Split
  nextSid : Nat
  nextAge : Nat
  flags : List Nat
  det : Bool
  /-- it is a copy of a check pair (R106) -/
  pairchk : Bool
  /-- GSTAT.PAIRCHK: the pair's copies are compared (R108, R110, R397) -/
  chk : Bool
  priv : Bool
  udiv : Bool
  trap : TrapRec
  msel : Word64
  dr : DrainRegs
  curbStalls : Nat
  curbCycles : Nat
  wd : Nat
  stallRdy : Nat
  /-- the cycle PAUSE ends (R68) -/
  pauseEnd : Nat
  /-- the last cycle it issued, the split it issued from last, and a YIELD hint (R93, R208) -/
  lastIssue : Nat
  lastSplit : Nat
  yieldHint : Bool
  /-- cycles it has been ready and has not issued (R104) -/
  readyFor : Nat
  asyncs : List ClassA
  handler : Option Handler
  /-- a debug halt is requested (R397) -/
  haltReq : Bool
  /-- an eviction is chosen and waits for its point (R209, R210) -/
  evictReq : Bool
  /-- allocation number of the next physical entry -/
  seq : Nat
  deriving DecidableEq, Repr

/-! ## Teams, launches, contexts -/

/-- E of a barrier generation (R156). -/
inductive Expect | unset | default | count (n : Nat)
  deriving DecidableEq, Repr
/-- A BAR.LAST arrival of a generation (R159). -/
structure LastArr where
  gen : BitVec 32
  group : Nat
  sid : Nat
  hi : Nat
  deriving DecidableEq, Repr
/-- A barrier (R154). -/
structure Barrier where
  gen : BitVec 32
  exp : Expect
  arr : Nat
  lasts : List LastArr
  /-- the elected BAR.LAST arrivals of completed generations still waited for -/
  elected : List LastArr
  deriving DecidableEq, Repr
/-- A deferred arrival (R158, R162): one thread's, in a generation, bound to copy operations. -/
structure DeferredArr where
  id : Nat
  bar : Nat
  gen : BitVec 32
  g : GroupKey
  thread : Nat
  ops : List Nat
  deriving DecidableEq, Repr
/-- A write pointer of a team: which core of the pair, the channel, FAILED and the count (R146, R153). -/
structure WPtr where
  half : Nat
  ch : Nat
  failed : Bool
  count : Nat
  deriving DecidableEq, Repr
/-- What the Corral unit recorded of a group's a15 (R102). -/
structure Origin15 where
  group : Nat
  base : Word64
  limit : Word64
  /-- the s and a registers of the group's split at its last arrival (R103) -/
  s : List Word64
  a : List AReg
  /-- s registers whose result had not arrived then, with its operation -/
  busy : List (Nat × Nat)
  deriving DecidableEq, Repr

/-- A team (R84 to R88, R146, R154, R201). -/
structure Team where
  key : TeamKey
  ctx : Nat
  core : Nat
  pair : Bool
  pairchk : Bool
  /-- scratchpad bytes on each core, and of the whole range (R88) -/
  k : Nat
  size : Nat
  x : Nat
  y : Nat
  z : Nat
  mb : Nat
  area : Option Nat
  spad : List Host.Cell
  /-- the shadow copy's scratchpad (R106) -/
  spad2 : List Host.Cell
  bars : List Barrier
  defers : List DeferredArr
  ptrs : List WPtr
  regrouped : Bool
  origin15 : List Origin15
  /-- its bit is set in the bitmap, or is due (R161) -/
  bitSet : Bool
  /-- the core of the pair that was lost (R132) and whether the team runs degraded (R110) -/
  lost : Option Nat
  degraded : Bool
  /-- RESBASE and RESCOUNT (R214, R215) -/
  resBase : Nat
  resCount : Nat
  /-- live threads of the groups a lost core took with it (R132) -/
  lostLive : Nat
  /-- groups that have ended and whose positions a sort may fill again (R99, R103) -/
  gone : List Group
  deriving DecidableEq, Repr

/-- The fields of a launch record (R198). -/
structure LRec where
  version : Nat
  det : Bool
  pairchk : Bool
  degrade : Bool
  serial : Bool
  w : Nat
  m : Nat
  groups : Nat
  curve : Nat
  blk : Nat
  dep : Nat
  radius : Nat
  wide : Nat
  narrow : Nat
  spad : Nat
  floor : Nat
  priv : Nat
  pslots : Nat
  entry : Word64
  nx : Nat
  ny : Nat
  nz : Nat
  nmb : Nat
  done : Word64
  privbase : Word64
  tvec : Word64
  depon : Word64
  table : Word64
  bitmap : Word64
  safe : Word64
  safecount : Nat
  rescount : Nat
  resv : Word64
  live : Word64
  args : List Word64
  deriving DecidableEq, Repr

/-- A launch the distributor has taken (R197, R200, R203 to R207, R214). -/
structure Launch where
  handle : Nat
  ctx : Nat
  q : Nat
  /-- acceptance order in the device (R116) -/
  order : Nat
  lrec : LRec
  /-- teams dispatched and teams ended, by linear index -/
  dispatched : List Nat
  ended : List Nat
  /-- the first fault reported: team and cause -/
  fault : Option (Nat × BitVec 8)
  tableBad : Bool
  aborted : Bool
  invalid : Bool
  complete : Bool
  /-- private areas held (R201) -/
  areas : List Nat
  /-- the ATOMR counts of its teams as read at acceptance; empty where RESV is 0 (R214, R401) -/
  resv : List Nat
  deriving DecidableEq, Repr

/-- A residency entry (R187). -/
structure ResEnt where
  en : Bool
  base : Nat
  limit : Nat
  ratio : Nat
  ways : BitVec 8
  deriving DecidableEq, Repr

/-- A launch that a LAUNCH has written to its queue and the distributor has not taken (R160, R200): its queue, the
entry's count, its handle, its place in the device's order of acceptance, whether it names a bitmap, and its ATOMR counts. -/
structure Queued where
  q : Nat
  n : BitVec 32
  handle : Nat
  order : Nat
  bitmap : Bool
  resv : List Nat
  deriving DecidableEq, Repr

/-- A context (R382, R393, R394, R397). Queue counts are listed where nonzero. -/
structure Context where
  id : Nat
  gen : Nat
  tslice : Nat
  root : Nat
  saveBase : Nat
  saveSize : Nat
  res : List ResEnt
  resAddr : Nat
  keys : BitVec 1024
  qbase : Word64
  qdepth : Nat
  crdepth : Nat
  crbase : Word64
  wdlimit : Nat
  qtail : List (Nat × BitVec 32)
  qhead : List (Nat × BitVec 32)
  crhead : BitVec 32
  crtail : BitVec 32
  seq : Nat
  touched : BitVec 19
  dbg : Bool
  /-- the queue served last of each priority, for the round-robin (R197) -/
  lastQ : List Nat
  /-- launches queued by LAUNCH (R160) -/
  pre : List Queued
  /-- completion-ring entries waiting to be posted (R394): handle, completion word, cycle of completion -/
  posts : List (Word64 × Word64 × Nat)
  /-- save records in the pool: address and size (R211) -/
  saves : List (Nat × Nat)
  /-- cycles used of the slice on each core (R209): core and the cycle the slice began -/
  slices : List (Nat × Nat)
  deriving DecidableEq, Repr

/-! ## Memory -/

/-- Page attributes an access carries (R180). -/
structure Attr where
  key : BitVec 10
  cls : BitVec 2
  sc : Bool
  pm : Bool
  mcount : Nat
  mstride : Nat
  deriving DecidableEq, Repr

/-- An L1 line (R169). -/
structure L1Line where
  core : Nat
  ctx : Nat
  line : Nat
  data : List Byte
  priv : Bool
  dirty : Bool
  key : BitVec 10
  /-- it holds an uncorrectable error (R176) -/
  bad : Bool
  /-- the address and class under which its home L2 takes it back (R172, R175, R185) -/
  va : Nat
  cls : BitVec 2
  deriving DecidableEq, Repr
/-- An RDC line of base die 8 or 9 (R177). `skip` marks bytes that an access bypassing the RDC has written since: they are
read at the peer (R177, R219, R252). -/
structure RdcLine where
  bdie : Nat
  ctx : Nat
  line : Nat
  data : List Byte
  skip : BitVec 128
  deriving DecidableEq, Repr
/-- A home-L2 line's bookkeeping (R175, R187): the way of its set that it stands in, its class, which granules are dirty, when
it was last used (0 at the least-recently-used position), and, for a retained line, the ways it may take and the context and
virtual address that retained it. -/
structure HomeLine where
  line : Nat
  way : Nat
  cls : BitVec 2
  dirty : BitVec 2
  used : Nat
  ways : BitVec 8
  ctx : Nat
  va : Nat
  deriving DecidableEq, Repr
/-- A cached leaf (R193): the unit that holds it (a core below 384, else 384 + C-die), its page and its
two words. -/
structure TlbEnt where
  unit : Nat
  ctx : Nat
  page : Nat
  size : Nat
  w0 : Word64
  w1 : Word64
  deriving DecidableEq, Repr
/-- A table pointer in a walk cache of a base die (R193): the entry read at a level for the addresses of its range, and the
table it names. -/
structure WalkEnt where
  bdie : Nat
  ctx : Nat
  lvl : Nat
  /-- the virtual address without the bits below the level's index -/
  page : Nat
  table : Nat
  deriving DecidableEq, Repr
/-- A monitor entry of a home slice, or a request the slice holds while its table is full (R231). -/
structure Monitor where
  op : Nat
  die : Nat
  pa : Nat
  size : Nat
  cc : Cond
  nat : Bool
  b : Word64
  /-- the key slot the location is read under -/
  slot : BitVec 10
  held : Bool
  /-- the cycle a held request was last evaluated -/
  seen : Nat
  /-- the device that asked, where it is another one -/
  peer : Option Nat
  deriving DecidableEq, Repr

/-- Memory and its caches (R166 to R195, R220, R231). -/
structure Mem where
  cells : List Host.Cell
  poison : List Nat
  /-- the key each 64-byte granule was last written under, where one was (R176) -/
  gkeys : List (Nat × BitVec 512)
  /-- error counters of the M-dies (R176) -/
  ecc : List (Nat × Nat)
  tags : List (Nat × Nat)
  hl2 : List HomeLine
  l1 : List L1Line
  rdc : List RdcLine
  tlb : List TlbEnt
  walks : List WalkEnt
  monitors : List Monitor
  deriving DecidableEq, Repr

/-! ## Operations under way -/

/-- How far a piece of an operation is: on its way, evicted from the network and to be resent (R192), performed,
or refused with a cause. -/
inductive PieceSt
  | todo
  | lost
  | done
  | bad (code : BitVec 8)
  deriving DecidableEq, Repr

/-- One aligned piece of a thread's access (R121, R189): its thread, address, size, the byte of the
datum it begins at, the bytes stored or loaded. -/
structure Piece where
  thread : Nat
  va : Nat
  pa : Nat
  size : Nat
  at0 : Nat
  data : List Byte
  attr : Attr
  st : PieceSt
  /-- times an urgent packet evicted it (R192) -/
  drops : Nat
  deriving DecidableEq, Repr

/-- Where loaded or old values go. -/
inductive Dest
  | none
  | v (name : Nat) (regs : Nat)
  | w (name : Nat) (regs : Nat)
  | s (n : Nat)
  | x (n : Nat)
  deriving DecidableEq, Repr

/-- What an outstanding operation is. -/
inductive OpKind
  | load
  /-- a prefetch, into the L1 or only into the home L2 or RDC (R75) -/
  | pref (l1 : Bool)
  | store
  | atomic (op : AtomOp) (wide : Bool) (returns : Bool)
  | redla (kw : Bool) (value : Option FFmt)
  | ldra
  | monitor (cc : Cond) (nat : Bool) (b : Word64)
  deriving DecidableEq, Repr

/-- One thread's operands of an atomic: new operand and compare operand, or an image for REDLA. -/
structure AtomArg where
  thread : Nat
  b : Word64
  c : Word64
  img : Option Image
  deriving DecidableEq, Repr

/-- An outstanding memory operation (R119, R189, R194, R218, R223, R400). -/
structure MemOp where
  id : Nat
  kind : OpKind
  g : GroupKey
  sid : Nat
  core : Nat
  ctx : Nat
  active : Mask
  pieces : List Piece
  args : List AtomArg
  dest : Dest
  width : Nat
  signed : Bool
  flag : Option Nat
  scope : Scope
  acq : Bool
  rel : Bool
  /-- a private window access (R169) -/
  priv : Bool
  /-- a store that waits for a release or an acquire before it is performed for its core (R218) -/
  late : Bool
  /-- its instruction has trapped, and the region's replay repeats it: it reports no fault of its own (R125) -/
  quiet : Bool
  /-- octets whose result has been written -/
  arrived : BitVec 64
  /-- LDRA: flushes sent and not answered: the core and the line (R229) -/
  flush : List (Nat × Nat)
  /-- every class T check has passed (R125, R400) -/
  checked : Bool
  /-- the cycle a request to an unreachable peer was first held, and how often it was sent again (R375) -/
  heldAt : Option Nat
  retries : Nat
  /-- acquires at device or system scope that threads of it have issued since: number, scope and threads (R247) -/
  fences : List (Nat × Scope × Mask)
  region : Option Word64
  iaddr : Word64
  inst : Word64
  deriving DecidableEq, Repr

/-- A release, acquire fence or QFENCE point in the issue order (R218, R227, R228). -/
structure OrderPt where
  id : Nat
  g : GroupKey
  threads : Mask
  scope : Scope
  rel : Bool
  acq : Bool
  /-- QFENCE: the queues it names; 0 otherwise -/
  queues : BitVec 11
  flag : Option Nat
  deriving DecidableEq, Repr

/-- What a pass of the remote queue does (R232 to R235). -/
inductive RemoteKind
  | get
  | put
  | atomic (op : AtomOp) (wide : Bool)
  deriving DecidableEq, Repr
/-- One thread's part of a pass: window offset, bytes to store, operands. -/
structure RemoteArg where
  thread : Nat
  off : Nat
  data : List Byte
  b : Word64
  c : Word64
  deriving DecidableEq, Repr
/-- A pass of an RGET, RPUT or RATOM in a core's remote queue (R233, R235). -/
structure RemoteOp where
  id : Nat
  inst : Nat
  kind : RemoteKind
  g : GroupKey
  sid : Nat
  core : Nat
  ctx : Nat
  peer : Nat
  win : Nat
  size : Nat
  signed : Bool
  args : List RemoteArg
  dest : Dest
  flag : Option Nat
  checked : Bool
  /-- threads whose check failed, with their causes (R233) -/
  bad : List (Nat × BitVec 8)
  /-- the cycle a request to an unreachable peer was first held (R375) -/
  heldAt : Option Nat
  retries : Nat
  region : Option Word64
  iaddr : Word64
  word : Word64
  deriving DecidableEq, Repr

/-- A range a copy moves, as units delivered in order (R147 to R149): for each unit its source and its
scratchpad or global destination. -/
inductive CopyKind | toSpad | spadToSpad | out
  deriving DecidableEq, Repr
/-- One unit of a copy: a word of a linear copy, or a row of a CPYH. -/
structure CopyUnit where
  member : Nat
  /-- source and destination: a virtual address or a scratchpad offset -/
  src : Nat
  dst : Nat
  len : Nat
  /-- its bytes on the global side: offset in the unit, length, physical address, key slot; the other bytes of a CPYH row
  lie outside the bounds and are written as zero (EDGE = 1) -/
  pas : List (Nat × Nat × Nat × BitVec 10)
  /-- the virtual address of its first global byte place; a CPYH row may begin outside the address space -/
  va : Int
  deriving DecidableEq, Repr
/-- An operation in a copy channel (R146 to R152). -/
structure CopyOp where
  id : Nat
  kind : CopyKind
  g : GroupKey
  core : Nat
  ctx : Nat
  ch : Nat
  /-- the threads that issued it (R255) -/
  threads : Mask
  units : List CopyUnit
  /-- source and destination overlap, and the source bytes, read before the first is written (R150) -/
  snap : Bool
  snapshot : Option (List Byte)
  done : Nat
  flag : Option Nat
  /-- operations of one instruction share it; the flag counts when the last is performed -/
  inst : Nat
  /-- the cycle since which its next unit waits for a device that is not reached, and how often it was sent again (R375) -/
  heldAt : Option Nat
  retries : Nat
  deriving DecidableEq, Repr

/-- A descriptor of a collective (R273). -/
structure CollDesc where
  inst : Nat
  grp : Nat
  src : Nat
  dst : Nat
  e : Nat
  cnt : Nat
  ty : BitVec 8
  out : BitVec 8
  param : Word64
  status : Nat
  dstlen : Nat
  deriving DecidableEq, Repr
/-- How far a collective is; one that has ended may wait to write its result to a device that is not reached (R375). -/
inductive CollSt
  | queued
  | contributed
  | failed
  | duplicate
  | ended (sig : Option CollSig) (fin : CollEnd)
  deriving DecidableEq, Repr
/-- A COLL in a core's collective queue (R272 to R280). -/
structure CollOp where
  id : Nat
  op : BitVec 10
  g : GroupKey
  sid : Nat
  core : Nat
  ctx : Nat
  /-- the threads that issued it (R255) -/
  threads : Mask
  member : Nat
  desc : CollDesc
  sreg : Nat
  flag : Option Nat
  st : CollSt
  /-- the translations fixed at issue: virtual page and physical page, with the page's key (R280) -/
  pages : List (Nat × Nat × BitVec 10)
  deriving DecidableEq, Repr

/-- Operations under way, oldest first in each list. -/
structure Ops where
  mem : List MemOp
  pts : List OrderPt
  remote : List RemoteOp
  copies : List CopyOp
  colls : List CollOp
  deriving DecidableEq, Repr

/-! ## Matrix engines -/

/-- Kinds of matrix-queue operations (R334). -/
inductive MatKind
  | mma
  | mmad (z : Bool)
  | mdrain (z : Bool)
  | mzero
  | mkld
  | mkst
  | dpld (n : Nat)
  | dpinv (n : Nat)
  deriving DecidableEq, Repr

/-- One octet's request of a matrix-queue operation, with the operands read at issue (R305, R307, R313, R314): the
rows active, the A bits of each row, the B image, the metadata records and the scales of each row and column; for
MKLD and MKST the image's address and its places in physical memory, each with its distance from the start. -/
structure MatReq where
  id : BitVec 16
  octet : Nat
  rows : BitVec 8
  a : List Nat
  b : Nat
  records : List Nat
  sa : List (List Nat)
  sb : List (List Nat)
  va : Nat
  pas : List (Nat × Nat × Nat × BitVec 10)
  drained : Bool
  deriving DecidableEq, Repr

/-- A matrix-queue operation (R334 to R340). -/
structure MatOp where
  id : Nat
  cluster : Nat
  core : Nat
  kind : MatKind
  g : GroupKey
  ctx : Nat
  /-- the threads active at its issue -/
  threads : Mask
  tile : Nat
  fmt0 : Word64
  fmt1 : Word64
  areg : AReg
  /-- the octet whose drain a handler has restarted, and the image that drain goes on with (R348) -/
  areg2 : Option (Nat × AReg)
  reqs : List MatReq
  wb : Nat
  level : Nat
  posted : Nat
  levelAt : Nat
  granted : Bool
  flag : Option Nat
  words : List (BitVec 32)
  /-- its drain is stopped by a drain fault (R347) -/
  stopped : Bool
  /-- the stopped request is abandoned, and ends with the next turn of its queue (R348) -/
  cut : Bool
  /-- the operation of the other copy of a check pair (R351) -/
  mate : Option Nat
  /-- its split, region and instruction, for MKLD's class T fault (R122, R316) -/
  sid : Nat
  region : Option Word64
  iaddr : Word64
  word : Word64
  /-- its split has trapped since, and the region's replay repeats it (R125) -/
  quiet : Bool
  deriving DecidableEq, Repr

/-- A drain-store slot (R343). -/
structure DSlot where
  cluster : Nat
  n : Nat
  valid : Bool
  gen : BitVec 32
  ctx : Option Nat
  words : List (BitVec 32)
  deriving DecidableEq, Repr
/-- A tile in use: 256 words (R309, R341); `spilled` is the place in the save pool of one that was spilled (R342). -/
structure Tile where
  g : GroupKey
  cluster : Nat
  octet : Nat
  k : Nat
  words : List Word32
  spilled : Option Nat
  used : Nat
  deriving DecidableEq, Repr
/-- An issue that Curb has stalled (R352): its split, the slot it stands at, its charge, the cycle it stalled, and whether
a later window has admitted it. -/
structure CurbStall where
  key : SplitKey
  slot : Word64
  charge : Nat
  since : Nat
  admitted : Bool
  deriving DecidableEq, Repr
/-- A cluster's Curb window (R352): array cycles charged, and the issues stalled, oldest first. -/
structure CurbWin where
  cluster : Nat
  used : Nat
  stalled : List CurbStall
  deriving DecidableEq, Repr

/-- A store a drain element has made and not yet kept (R324, R346): bytes of scratchpad, bytes of a global address with
their places, a v register's value, an addend. -/
inductive DrainEff
  | spad (off : Nat) (data : List Byte)
  | glob (va : Nat) (pas : List (Nat × Nat × Nat × BitVec 10)) (data : List Byte)
  | vreg (name : Nat) (regs : Nat) (val : Word64)
  | acc (x : Nat) (f64 : Bool) (bits : Word64)
  deriving DecidableEq, Repr
/-- A drain fault met (R326, R349): cause, DETAIL and address. -/
structure DrainFlt where
  code : BitVec 8
  detail : BitVec 16
  addr : Word64
  deriving DecidableEq, Repr
/-- The drain element in progress (R320, R346): the operation, request octet and element, the slot, the d registers, the index
of the next micro-word, the effects so far and the IEEE flags. -/
structure DrainRun where
  cluster : Nat
  op : Nat
  octet : Nat
  elem : Nat
  slot : Nat
  d : List Word64
  pc : Nat
  effs : List DrainEff
  fl : BitVec 5
  /-- what the element's first global store meets beyond this device's own state -/
  met : Option (BitVec 8)
  /-- the primary copy's effects and flags, while the shadow's element runs (R351) -/
  first : Option (List DrainEff × BitVec 5)
  deriving DecidableEq, Repr
/-- Where a drain continues: the operation, the octet and the next element. -/
structure DrainAt where
  op : Nat
  octet : Nat
  elem : Nat
  deriving DecidableEq, Repr

/-- The matrix engines of the clusters (R334 to R353). -/
structure Matrix where
  ops : List MatOp
  slots : List DSlot
  tiles : List Tile
  curb : List CurbWin
  /-- the Curb window that has begun, in 1,024 cycles (R352) -/
  window : Nat
  nextReq : List (Nat × BitVec 16)
  run : Option DrainRun
  drains : List DrainAt
  deriving DecidableEq, Repr

/-! ## Island and fabric -/

/-- One direction of a port: key slots, counters, replay (R362, R377 to R379). -/
structure PortDir where
  keys : List (Bool × BitVec 256)
  slot : Bool
  counter : Nat
  seq : BitVec 12
  deriving DecidableEq, Repr
/-- A flit in a replay buffer: as first sent, with its counter (R362). -/
structure SentFlit where
  flit : Flit
  counter : Nat
  resend : Bool
  deriving DecidableEq, Repr
/-- A port that is not at its reset state (R360 to R365). -/
structure Port where
  port : Nat
  up : Bool
  trained : Bool
  tx : PortDir
  rx : PortDir
  replay : List SentFlit
  /-- SEQ the receiver rejected and waits for again; failures in a row (R362) -/
  fails : Nat
  nakSeq : Option (BitVec 12)
  /-- flits sent on each channel and not freed; limits; flits received in this period (R364, R365) -/
  unfreed : List Nat
  limits : List Nat
  recvd : List Nat
  /-- flits freed on each channel whose credit has not been returned -/
  owed : List Nat
  /-- lending periods ended, and the cycle the present one began (R365) -/
  period : Nat
  periodAt : Nat
  /-- a marker is sent and its slot not yet in use, or the port is stalled since a cycle (R378, R379) -/
  stalledAt : Option Nat
  /-- the packet whose flits are going out, and how many have gone (R364) -/
  part : Option (Packet × Nat)
  deriving DecidableEq, Repr

/-- A window entry: its four words (R368). -/
structure Window where
  n : Nat
  w0 : Word64
  w1 : Word64
  w2 : Word64
  w3 : Word64
  deriving DecidableEq, Repr
/-- A collective group table entry (R370); `resv` is true when its last 56 bytes are nonzero. -/
structure CollGroup where
  n : Nat
  mask : BitVec 512
  ctl : Word64
  tail : List Word64
  deriving DecidableEq, Repr
/-- A collective instance under way at this node (R371, R372, R279). -/
structure Instance where
  key : InstKey
  /-- what its contributions must agree in, once one has arrived -/
  sig : Option CollSig
  parts : List Contribution
  mismatch : Bool
  /-- members counted absent -/
  absent : BitVec 512
  /-- the cycle the first partial arrived -/
  first : Option Nat
  /-- members whose contribution or absence this node has sent to its effective parent -/
  sent : BitVec 512
  deriving DecidableEq, Repr
/-- An ended instance kept for a late COLL (R372). -/
structure EndedInst where
  key : InstKey
  sig : Option CollSig
  fin : CollEnd
  deriving DecidableEq, Repr

/-- A peer's LDRA that waits for a flush (R229): its number here, the device that asked, the core the line's tag names, the line
and the bytes read. -/
structure PeerLdra where
  id : Nat
  src : Nat
  core : Nat
  line : Nat
  bytes : List Byte
  deriving DecidableEq, Repr

/-- A request of the host position, or of the managing device, that waits: its number here, the request and whether it may name
physical addresses, who sent it, its ranges with their physical addresses and attributes, the cycle from which a device that is not
reached has held it up (R375; none while an earlier request that waits comes first, R390), and how often it was sent again. -/
structure HostHeld where
  id : Nat
  r : HostReq
  physOk : Bool
  mgmt : Bool
  ps : List (Nat × Nat × Attr)
  heldAt : Option Nat
  retries : Nat
  deriving DecidableEq, Repr

/-- What holds a request back that a device which is not reached would have to answer (R375): an instruction at its slot, an engine's
operation, or the device's own access at a virtual address of a context. -/
inductive HoldKey
  | issue (k : SplitKey) (slot : Word64)
  | op (id : Nat)
  | dev (ctx va : Nat)
  deriving DecidableEq, Repr
/-- Such a request: its number, the device, the cycle since which it is held, and how often it was sent again. -/
structure HeldReq where
  id : Nat
  key : HoldKey
  dev : Nat
  since : Nat
  retries : Nat
  deriving DecidableEq, Repr

/-- A request that the island's leave left unanswered (R374). -/
structure Orphan where
  id : Nat
  /-- answers still to come -/
  left : Nat
  /-- a monitor, whose answer is a wake -/
  wake : Bool
  deriving DecidableEq, Repr

/-- The island (R360 to R379). -/
structure Island where
  st : IslandSt
  retry : Nat
  orphan : Word64
  colllate : Word64
  authfail : Word64
  rekeyth : Nat
  ports : List Port
  nextPort : Nat
  windows : List Window
  colls : List CollGroup
  insts : List Instance
  ended : List EndedInst
  /-- other devices' island states as announced; a device not listed is JOINED until known otherwise -/
  peers : List (Nat × IslandSt)
  /-- devices that are ISLAND-ONLY, each with an instance to which its island accepted a contribution before it left (R372, R374) -/
  kept : List (Nat × InstKey)
  /-- next packet number by destination, and the numbers accepted by source (R363) -/
  nums : List (Nat × BitVec 32)
  accepted : List (Nat × BitVec 32)
  /-- multicasts accepted: source, class B, queue and place (R366) -/
  mcasts : List (Nat × Bool × Nat × Nat)
  /-- requests of the compute dies that the leave left unanswered (R374; log entry 32) -/
  orphans : List Orphan
  /-- LDRAs of peers that wait for a flush here (R229) -/
  ldras : List PeerLdra
  /-- requests of the host that wait for a device that is not reached (R375) -/
  hostHeld : List HostHeld
  /-- requests of instructions as they issue, of engines and of the distributor that wait for such a device (R375) -/
  holds : List HeldReq
  /-- packets accepted from other devices, and packets waiting for a port (R363) -/
  inbox : List Packet
  outbox : List Packet
  /-- requests that have gone out as packets: operation, number and device (R364) -/
  asked : List (Nat × Nat × Nat)
  /-- an island reset request met JOINED: OFF follows once what was accepted is sent (R373) -/
  offAfter : Bool
  deriving DecidableEq, Repr

/-! ## Package -/

/-- A die as boot and the master know it (R380, R381, R383). -/
structure Die where
  id : Nat
  ready : Bool
  digest : BitVec 512
  lost : Bool
  deriving DecidableEq, Repr

/-- The package block and what boot leaves (R380 to R399). -/
structure Package where
  /-- the host position is populated (R1, R2) -/
  hosted : Bool
  device : BitVec 9
  master : BitVec 8
  healthy : BitVec 19
  featReq0 : Word64
  featReq1 : Word64
  featAct0 : Word64
  featAct1 : Word64
  ctxbase : Nat
  cmdOp : BitVec 8
  cmdSlot : BitVec 10
  cmdCtx : BitVec 10
  cmdA : Word64
  cmdB : Word64
  busy : Bool
  cmdCode : BitVec 8
  mgmtHost : BitVec 10
  curbBudget : BitVec 11
  /-- the budget that thermal throttling lowered, to be restored (R399) -/
  budgetWas : BitVec 11
  tmax : BitVec 8
  /-- the cycle since which TMAX has stayed below 95 degrees (R399) -/
  cool : Option Nat
  level : BitVec 2
  dies : List Die
  windowClosed : Bool
  mgmtRead : Bool
  /-- loaded key slots (R395) -/
  keys : List (Nat × BitVec 512)
  /-- cores that suffered an uncorrectable error (R132) -/
  badCores : List Nat
  deriving DecidableEq, Repr

/-! ## Saved groups -/

/-- A group in the save pool (R210, R211): the group as it stopped, where its record lies, whether the
save is a safe-point save or a debug halt, and the launch's acceptance order. -/
structure Saved where
  g : Group
  addr : Nat
  size : Nat
  safe : Bool
  halted : Bool
  /-- evicted under R116: it returns before other allocations (R116) -/
  regpool : Bool
  /-- the groups whose allocations were waiting when it was evicted, each with the cycle of its last issue: these go first
  (R116; log entry 26) -/
  first : List (GroupKey × Nat)
  deriving DecidableEq, Repr
/-- An evicted team (R209, R211). -/
structure SavedTeam where
  t : Team
  addr : Nat
  size : Nat
  deriving DecidableEq, Repr

/-! ## The model's own bookkeeping -/

/-- What the outside brings with a cycle: the M-die whose counter counts a soft error that was corrected, and the L1 line, by core,
context and number, that holds one that was not (R176); `hot` is the temperature in degrees of the hottest junction, where it has
changed (R386). -/
structure CycleInput where
  soft : Option Nat
  hard : Option (Nat × Nat × Nat)
  hot : Option (BitVec 8)
  deriving DecidableEq, Repr

/-- What the model adds to run one step at a time: outside inputs and engine moments still to come,
what the cycles to come bring, in their order, the splits selected to issue, the split whose instruction is being executed, the counter of free
values, and the numbers of the next operation and order point. DESIGN CHOICE: log entries 2, 3, 10. -/
structure Sched where
  schedule : List Instr
  inputs : List CycleInput
  issue : List SplitKey
  cur : Option SplitKey
  free : Nat
  nextId : Nat
  nextOrder : Nat
  deriving DecidableEq, Repr

/-- The state of the machine. -/
structure State where
  sched : Sched
  /-- core cycles since the start, and the cycle at which the cores last left reset (R32) -/
  cycle : Nat
  born : Nat
  groups : List Group
  teams : List Team
  launches : List Launch
  ctxs : List Context
  /-- contexts that have ended: their pages keep their counts until CTX_START (R394; log entry 37) -/
  past : List Context
  mem : Mem
  ops : Ops
  mtx : Matrix
  isl : Island
  pkg : Package
  saved : List Saved
  savedTeams : List SavedTeam
  /-- what the last host request was answered: its status, 0 when performed, and the bytes (R389); the model's own field, log entry 34 -/
  reply : Nat × List Byte
  deriving DecidableEq, Repr

/-- Why a step stops. No ordinary instruction of a running program ends in one: each says that an
event of the agenda cannot happen in the state it meets, or that the model's own bookkeeping names
nothing. Safe: the model stops where nothing of the device happens. -/
inductive Fault
  /-- raised by every event whose conditions the spec sets do not hold: the moment is not due (safe) -/
  | notDue (event : String)
  /-- raised by a core instruction executed while no split is selected to issue it (safe) -/
  | noIssuer
  /-- raised by a micro-instruction executed while no drain element runs (safe) -/
  | noElement
  /-- raised by step when the agenda holds an instruction that is no event (safe) -/
  | notAnEvent
  deriving DecidableEq, Repr

/-- Why an instruction has no meaning. -/
inductive Refusal
  /-- raised by an arm of exec whose instruction has no meaning yet (safe) -/
  | notModelled (mnemonic : String)
  deriving DecidableEq, Repr

/-- The outcome of a step or of a meaning. -/
abbrev Result := Host.Outcome State Fault Refusal

/-- The a register of launch that holds nothing (R73). -/
def AReg.zero : AReg := ⟨0, 0, 0, false, false, false, false⟩

def Mem.reset : Mem :=
  { cells := [], poison := [], gkeys := [], ecc := [], tags := [], hl2 := [], l1 := [], rdc := [], tlb := [], walks := [], monitors := [] }
def Ops.reset : Ops := { mem := [], pts := [], remote := [], copies := [], colls := [] }
def Matrix.reset : Matrix :=
  { ops := [], slots := [], tiles := [], curb := [], window := 0, nextReq := [], run := none, drains := [] }
/-- The island's registers at the values R376 gives; ISTATE reads ISLAND-ONLY (log entry 9). -/
def Island.reset : Island :=
  { st := .islandOnly, retry := 2000, orphan := 0, colllate := 0, authfail := 0, rekeyth := 2 ^ 48, ports := [], nextPort := 0
    windows := [], colls := [], insts := [], ended := [], peers := [], kept := [], nums := [], accepted := [], mcasts := [], orphans := [], ldras := [], hostHeld := [], holds := [], inbox := []
    outbox := [], asked := [], offAfter := false }
/-- The package block at the values R386 gives. DESIGN CHOICE: log entry 9. -/
def Package.reset : Package :=
  { hosted := true, device := 0, master := 0, healthy := 0, featReq0 := 0, featReq1 := 0, featAct0 := 5, featAct1 := 0, ctxbase := 0
    cmdOp := 0, cmdSlot := 0, cmdCtx := 0, cmdA := 0, cmdB := 0, busy := false, cmdCode := 0, mgmtHost := 0x3FF
    curbBudget := 1024, budgetWas := 1024, tmax := 0, cool := some 0, level := 0, dies := [], windowClosed := false, mgmtRead := false, keys := []
    badCores := [] }
def Sched.reset : Sched := { schedule := [], inputs := [], issue := [], cur := none, free := 0, nextId := 0, nextOrder := 0 }

/-- The machine right after reset: no die has booted, no context runs, memory lists nothing. DEDUCED: log entry 1. -/
def State.reset : State :=
  { sched := .reset, cycle := 0, born := 0, groups := [], teams := [], launches := [], ctxs := [], past := [], mem := .reset, ops := .reset, mtx := .reset
    isl := .reset, pkg := .reset, saved := [], savedTeams := [], reply := (0, []) }

end Sys2Proof.Machine
end

