-- ==== Sys2Proof/Machine/Flags.lean ====
section
/-! DEFINITION. Conditions, IEEE flags and saturation (spec/02_core_instructions.md R53, R57, R59). -/

namespace Sys2Proof.Machine

/-! ## IEEE flags (R53) -/

def fNV : BitVec 5 := 0x10
def fDZ : BitVec 5 := 0x08
def fOF : BitVec 5 := 0x04
def fUF : BitVec 5 := 0x02
def fNX : BitVec 5 := 0x01

/-- One flag when a condition holds. -/
def flagIf (b : Bool) (f : BitVec 5) : BitVec 5 := if b then f else 0

/-! ## Conditions (R59) -/

/-- A condition code on integers. -/
def condInt (c : Sys2Proof.Cond) (a b : Int) : Bool :=
  match c with
  | .eq => a == b
  | .ne => a != b
  | .lt => decide (a < b)
  | .le => decide (a ≤ b)
  | .gt => decide (b < a)
  | .ge => decide (b ≤ a)

/-! ## Exact values and their narrowing (R57) -/

/-- The value of the low n bits, signed or not. -/
def extInt (signed : Bool) (n : Nat) (x : Word64) : Int :=
  let u : Nat := x.toNat % 2 ^ n
  if signed && decide (2 ^ (n - 1) ≤ u) then (u : Int) - 2 ^ n else u

/-- The nearest bound where a value lies outside the range of an n-bit type (R57). -/
def satInt (signed : Bool) (n : Nat) (e : Int) : Int :=
  let lo : Int := if signed then -(2 ^ (n - 1)) else 0
  let hi : Int := if signed then 2 ^ (n - 1) - 1 else 2 ^ n - 1
  if e < lo then lo else if hi < e then hi else e

/-- The low n bits of an exact value as the destination receives them: narrow results are extended to 32 bits (R47, R57). -/
def narrowInt (signed : Bool) (n : Nat) (e : Int) : Word64 :=
  let r : Word64 := BitVec.ofNat 64 (e % 2 ^ n).toNat
  if n < 32 then (BitVec.ofInt 32 (extInt signed n r)).setWidth 64 else r

end Sys2Proof.Machine
end

