-- ==== Sys2Proof/Machine/Float.lean ====
section
/-! DEFINITION. Floating point (spec/02_core_instructions.md R48 to R52, R61 to R64): values, one rounding of an
exact result, and the functions. An exact result that is no dyadic number is given by its leading bits with a
last bit of 1 below them, which every rounding treats as it would the exact value. -/

namespace Sys2Proof.Machine

/-! ## Formats and values (R48) -/

/-- Precision with the hidden bit, and the exponent bias. -/
structure Fmt where
  p : Nat
  bias : Nat
  width : Nat

def fF32 : Fmt := ⟨24, 127, 32⟩
def fF64 : Fmt := ⟨53, 1023, 64⟩
def fF16 : Fmt := ⟨11, 15, 16⟩
def fBF16 : Fmt := ⟨8, 127, 16⟩
/-- The layout of a format an instruction names. -/
def fmtOf (f : FFmt) : Fmt :=
  match f with
  | .f32 => fF32
  | .f64 => fF64
  | .f16 => fF16
  | .bf16 => fBF16

/-- The exponent of the lowest bit of a subnormal. -/
def Fmt.qmin (f : Fmt) : Int := 2 - (f.bias : Int) - f.p
/-- The exponent field of infinities and NaNs. -/
def Fmt.emaxField (f : Fmt) : Nat := 2 * f.bias + 1

/-- A value: a NaN (signalling or quiet), an infinity, or sign, significand and exponent. -/
inductive FVal
  | nan (signalling : Bool)
  | inf (neg : Bool)
  | fin (neg : Bool) (m : Nat) (e : Int)
  deriving DecidableEq, Repr

/-- A result with the flags it raises. -/
abbrev FRes := Nat × BitVec 5

/-- The value of a bit pattern (R48). -/
def Fmt.unpack (f : Fmt) (x : Nat) : FVal :=
  let fr := x % 2 ^ (f.p - 1)
  let ex := (x / 2 ^ (f.p - 1)) % (f.emaxField + 1)
  let neg := x.testBit (f.width - 1)
  if ex = f.emaxField then
    if fr = 0 then .inf neg else .nan (!fr.testBit (f.p - 2))
  else if ex = 0 then .fin neg fr f.qmin
  else .fin neg (fr + 2 ^ (f.p - 1)) (f.qmin + ex - 1)

def Fmt.signBit (f : Fmt) (neg : Bool) : Nat := if neg then 2 ^ (f.width - 1) else 0
/-- The canonical quiet NaN (R48). -/
def Fmt.qnan (f : Fmt) : Nat := f.emaxField * 2 ^ (f.p - 1) + 2 ^ (f.p - 2)
def Fmt.infBits (f : Fmt) (neg : Bool) : Nat := f.signBit neg + f.emaxField * 2 ^ (f.p - 1)
def Fmt.maxBits (f : Fmt) (neg : Bool) : Nat := f.infBits neg - 1
def Fmt.zeroBits (f : Fmt) (neg : Bool) : Nat := f.signBit neg

def FVal.isSnan : FVal → Bool
  | .nan s => s
  | _ => false
def FVal.isNan : FVal → Bool
  | .nan _ => true
  | _ => false
def FVal.isZero : FVal → Bool
  | .fin _ 0 _ => true
  | _ => false
def FVal.neg? : FVal → Bool
  | .nan _ => false
  | .inf n => n
  | .fin n _ _ => n
def FVal.negate : FVal → FVal
  | .nan s => .nan s
  | .inf n => .inf (!n)
  | .fin n m e => .fin (!n) m e

/-! ## Rounding (R50) -/

/-- An integer quotient m / 2^k rounded in a mode: the result, and whether it is inexact. -/
def roundShift (r : Rnd) (neg : Bool) (m k : Nat) : Nat × Bool :=
  let q := m >>> k
  let rem := m - (q <<< k)
  let half := if k = 0 then 0 else 2 ^ (k - 1)
  let up := match r with
    | .rn => decide (half < rem) || (rem == half && k != 0 && q % 2 == 1)
    | .rz => false
    | .ru => !neg && rem != 0
    | .rd => neg && rem != 0
  (if up then q + 1 else q, rem != 0)

/-- The rounding of a magnitude m × 2^e to an exponent: the multiple of 2^q, and whether it is inexact. -/
def roundAt (r : Rnd) (neg : Bool) (m : Nat) (e q : Int) : Nat × Bool :=
  if q ≤ e then (m <<< (e - q).toNat, false) else roundShift r neg m (q - e).toNat

/-- The overflow rule of R50. -/
def Fmt.overflow (f : Fmt) (r : Rnd) (neg : Bool) : FRes :=
  (match r with
   | .rn => f.infBits neg
   | .rz => f.maxBits neg
   | .ru => if neg then f.maxBits neg else f.infBits neg
   | .rd => if neg then f.infBits neg else f.maxBits neg, fOF ||| fNX)

/-- A nonzero magnitude m × 2^e rounded once to a format (R50). -/
def Fmt.round (f : Fmt) (r : Rnd) (neg : Bool) (m : Nat) (e : Int) : FRes :=
  if m = 0 then (f.zeroBits neg, 0)
  else
    let top : Int := (Nat.log2 m : Int) + e
    let qn : Int := top - (f.p - 1)
    let q : Int := if qn < f.qmin then f.qmin else qn
    let (n, inexact) := roundAt r neg m e q
    if (f.bias : Int) < (Nat.log2 n : Int) + q then f.overflow r neg
    else
      let tiny := top < f.qmin + (f.p - 1) &&
        (let (n', _) := roundAt r neg m e qn
         decide ((Nat.log2 n' : Int) + qn < f.qmin + (f.p - 1)))
      (f.signBit neg + ((q - f.qmin).toNat * 2 ^ (f.p - 1) + n),
        flagIf inexact fNX ||| flagIf (tiny && inexact) fUF)

/-- An exact signed value n × 2^e rounded; an exact zero takes the sign of R50. -/
def Fmt.roundInt (f : Fmt) (r : Rnd) (n : Int) (e : Int) (zeroNeg : Bool) : FRes :=
  if n = 0 then (f.zeroBits zeroNeg, 0) else f.round r (decide (n < 0)) n.natAbs e

/-- The invalid result (R51). -/
def Fmt.invalid (f : Fmt) : FRes := (f.qnan, fNV)
/-- The NaN result of NaN inputs: invalid when one is signalling (R51). -/
def Fmt.nanOf (f : Fmt) (l : List FVal) : FRes := (f.qnan, flagIf (l.any FVal.isSnan) fNV)

/-! ## Arithmetic (R61, R62) -/

/-- A finite value as an integer of a given exponent, which is not above the value's own. -/
def finInt (neg : Bool) (m : Nat) (e q : Int) : Int :=
  let x : Nat := m <<< (e - q).toNat
  if neg then -(x : Int) else x

/-- The sign of an exact zero sum (R50). -/
def zeroSign (r : Rnd) (n1 n2 : Bool) : Bool := if n1 = n2 then n1 else r == .rd

/-- A finite product plus a finite value, rounded once. -/
def Fmt.fmaFin (f : Fmt) (r : Rnd) (pn : Bool) (pm : Nat) (pe : Int) (cn : Bool) (cm : Nat) (ce : Int) : FRes :=
  let q := min pe ce
  f.roundInt r (finInt pn pm pe q + finInt cn cm ce q) q (if pm = 0 && cm = 0 then zeroSign r pn cn else r == .rd)

def Fmt.add (f : Fmt) (r : Rnd) (a b : FVal) : FRes :=
  match a, b with
  | .nan _, _ => f.nanOf [a, b]
  | _, .nan _ => f.nanOf [a, b]
  | .inf x, .inf y => if x = y then (f.infBits x, 0) else f.invalid
  | .inf x, _ => (f.infBits x, 0)
  | _, .inf y => (f.infBits y, 0)
  | .fin x m e, .fin y n g => f.fmaFin r x m e y n g

def Fmt.mul (f : Fmt) (r : Rnd) (a b : FVal) : FRes :=
  match a, b with
  | .nan _, _ => f.nanOf [a, b]
  | _, .nan _ => f.nanOf [a, b]
  | .inf x, y => if y.isZero then f.invalid else (f.infBits (x != y.neg?), 0)
  | x, .inf y => if x.isZero then f.invalid else (f.infBits (x.neg? != y), 0)
  | .fin x m e, .fin y n g => f.round r (x != y) (m * n) (e + g)

/-- a × b + c with one rounding; 0 × ∞ is invalid whatever c is (R51). -/
def Fmt.fma (f : Fmt) (r : Rnd) (a b c : FVal) : FRes :=
  let bad := match a, b with
    | .inf _, y => y.isZero
    | x, .inf _ => x.isZero
    | _, _ => false
  if a.isNan || b.isNan then f.nanOf [a, b, c]
  else if bad then f.invalid
  else
    match c with
    | .nan _ => f.nanOf [c]
    | _ =>
      match a, b, c with
      | .fin x m e, .fin y n g, .fin z k h => f.fmaFin r (x != y) (m * n) (e + g) z k h
      | .fin _ _ _, .fin _ _ _, .inf z => (f.infBits z, 0)
      | _, _, .inf z => if z = (a.neg? != b.neg?) then (f.infBits z, 0) else f.invalid
      | _, _, _ => (f.infBits (a.neg? != b.neg?), 0)

/-- The order of two finite values or infinities: a < b. -/
def FVal.lt (a b : FVal) : Bool :=
  match a, b with
  | .nan _, _ => false
  | _, .nan _ => false
  | .inf x, .inf y => x && !y
  | .inf x, _ => x
  | _, .inf y => !y
  | .fin x m e, .fin y n g => let q := min e g; decide (finInt x m e q < finInt y n g q)
def FVal.eq (a b : FVal) : Bool := !a.isNan && !b.isNan && !a.lt b && !b.lt a

/-- FMIN (`min`) and FMAX (R52): on the bit patterns, since the result is never rounded. -/
def Fmt.minmax (f : Fmt) (isMin : Bool) (x y : Nat) : FRes :=
  let a := f.unpack x
  let b := f.unpack y
  let fl := flagIf (a.isSnan || b.isSnan) fNV
  let less := a.lt b || (a.eq b && a.neg? && !b.neg?)
  (if a.isNan && b.isNan then f.qnan
   else if a.isNan then y
   else if b.isNan then x
   else if less = isMin then x else y, fl)

/-- FCMP's conditions (R63). -/
def fcond (c : FCond) (a b : FVal) : Bool × BitVec 5 :=
  let un := a.isNan || b.isNan
  let sn := flagIf (a.isSnan || b.isSnan) fNV
  let qn := flagIf un fNV
  match c with
  | .eq => (a.eq b, sn)
  | .ne => (!a.eq b, sn)
  | .lt => (a.lt b, qn)
  | .le => (!un && !b.lt a, qn)
  | .gt => (b.lt a, qn)
  | .ge => (!un && !a.lt b, qn)
  | .un => (un, sn)
  | .or => (!un, sn)

/-- FCLASS's mask (R63). -/
def Fmt.classMask (f : Fmt) (x : Nat) : Nat :=
  match f.unpack x with
  | .nan true => 1
  | .nan false => 2
  | .inf true => 4
  | .inf false => 512
  | .fin neg m _ =>
    if m = 0 then (if neg then 32 else 64)
    else if m < 2 ^ (f.p - 1) then (if neg then 16 else 128)
    else (if neg then 8 else 256)

/-- A value in another format (R64, float to float). -/
def Fmt.convert (f : Fmt) (r : Rnd) (a : FVal) : FRes :=
  match a with
  | .nan _ => f.nanOf [a]
  | .inf n => (f.infBits n, 0)
  | .fin n m e => f.round r n m e

/-- A value as an integer of a type (R64, float to integer). -/
def floatToInt (r : Rnd) (signed : Bool) (n : Nat) (a : FVal) : Int × BitVec 5 :=
  match a with
  | .nan _ => (0, fNV)
  | .inf neg => (satInt signed n (if neg then -(2 ^ 128) else 2 ^ 128), fNV)
  | .fin neg m e =>
    let e' := min e 256
    let (q, inexact) := roundAt r neg m e' 0
    let v : Int := if neg then -(q : Int) else q
    let w := satInt signed n v
    (w, if w = v then flagIf inexact fNX else fNV)

/-! ## Roots and reciprocals (R62) -/

/-- The integer square root, bit by bit. -/
def isqrtGo (x : Nat) : Nat → Nat → Nat
  | 0, r => r
  | n + 1, r => isqrtGo x n (if (r + 2 ^ n) * (r + 2 ^ n) ≤ x then r + 2 ^ n else r)
def isqrt (x : Nat) : Nat := isqrtGo x (Nat.log2 x / 2 + 1) 0

/-- A magnitude with a last bit that says whether something nonzero lies below it. -/
def stick (m : Nat) (exact : Bool) : Nat := 2 * m + (if exact then 0 else 1)

def Fmt.rcp (f : Fmt) (r : Rnd) (a : FVal) : FRes :=
  match a with
  | .nan _ => f.nanOf [a]
  | .inf n => (f.zeroBits n, 0)
  | .fin n m e =>
    if m = 0 then (f.infBits n, fDZ)
    else
      let k := Nat.log2 m + f.p + 4
      f.round r n (stick (2 ^ k / m) (2 ^ k % m == 0)) (-(k : Int) - e - 1)

def Fmt.sqrt (f : Fmt) (r : Rnd) (a : FVal) : FRes :=
  match a with
  | .nan _ => f.nanOf [a]
  | .inf n => if n then f.invalid else (f.infBits false, 0)
  | .fin n m e =>
    if m = 0 then (f.zeroBits n, 0)
    else if n then f.invalid
    else
      let k := 2 * f.p + 6 + (e % 2).toNat
      let x := m <<< k
      let q := isqrt x
      f.round r false (stick q (q * q == x)) ((e - k) / 2 - 1)

def Fmt.rsq (f : Fmt) (r : Rnd) (a : FVal) : FRes :=
  match a with
  | .nan _ => f.nanOf [a]
  | .inf n => if n then f.invalid else (f.zeroBits false, 0)
  | .fin n m e =>
    if m = 0 then (f.infBits n, fDZ)
    else if n then f.invalid
    else
      let k := 2 * (Nat.log2 m + f.p + 4) + (e % 2).toNat
      let q := isqrt (2 ^ k / m)
      f.round r false (stick q (q * q * m == 2 ^ k)) ((-e - k) / 2 - 1)

/-! ## Functions that are irrational but at the points named apart (R61, R62)

Each gives, for a scale of 2^P, a sign and two bounds of the magnitude; the rounding of the exact value is
known once both bounds round alike. -/

/-- Bounds of an irrational value: sign, lower, upper, and the scale's exponent. -/
structure Bounds where
  neg : Bool
  lo : Nat
  hi : Nat
  scale : Nat

/-- The rounding that both bounds share; none where they differ. -/
def Fmt.roundBounds (f : Fmt) (r : Rnd) (b : Bounds) : Option FRes :=
  if b.lo < 2 ^ (f.p + 4) || b.hi ≤ b.lo then none
  else
    let x := f.round r b.neg (stick b.lo false) (-(b.scale : Int) - 1)
    if x = f.round r b.neg (stick (b.hi - 1) false) (-(b.scale : Int) - 1) then some x else none

/-- Scales tried one after another; the last one's lower bound is rounded should none decide. -/
def Fmt.refine (f : Fmt) (r : Rnd) (enc : Nat → Option Bounds) : List Nat → FRes
  | [] => f.invalid
  | [p] =>
    match enc p with
    | some b => f.round r b.neg (stick b.lo false) (-(b.scale : Int) - 1)
    | none => f.invalid
  | p :: ps =>
    match (enc p).bind (f.roundBounds r) with
    | some x => x
    | none => f.refine r enc ps

def scales : List Nat := [128, 256, 512, 1024, 2048, 4096]

/-- ln 2 × 2^P from below, within P + 2 units: the sum of 1 / (i 2^i). -/
def ln2Go (P : Nat) : Nat → Nat
  | 0 => 0
  | n + 1 => ln2Go P n + 2 ^ P / ((n + 1) * 2 ^ (n + 1))
def ln2 (P : Nat) : Nat := ln2Go P P

/-- The sum of x^i / i! at scale 2^P, from a term on. -/
def expGo (P x : Nat) : Nat → Nat → Nat → Nat → Nat
  | 0, _, _, sum => sum
  | n + 1, i, t, sum => expGo P x n (i + 1) (t * x / 2 ^ P / i) (sum + t)

/-- 2^(n + fr / 2^k) with 0 < fr < 2^k. -/
def exp2Bounds (n : Int) (fr k : Nat) (P0 : Nat) : Option Bounds :=
  let P := P0 + k
  let x := fr * ln2 P / 2 ^ k
  let y := expGo P x (P0 + k) 1 (2 ^ P) 0
  let err := 16 * P
  let s : Int := (P : Int) - n
  if 0 ≤ s then some ⟨false, y - err, y + err, s.toNat⟩
  else some ⟨false, (y - err) <<< (-s).toNat, (y + err) <<< (-s).toNat, 0⟩

/-- 2^a (R62): an integer power is exact. -/
def Fmt.exp2 (f : Fmt) (r : Rnd) (a : FVal) : FRes :=
  match a with
  | .nan _ => f.nanOf [a]
  | .inf n => if n then (f.zeroBits false, 0) else (f.infBits false, 0)
  | .fin neg m e =>
    if m = 0 then f.round r false 1 0
    else if 14 ≤ (Nat.log2 m : Int) + e then f.round r false 3 (if neg then -16384 else 16384)
    else if 0 ≤ e then
      let n : Int := (m <<< e.toNat : Nat)
      f.round r false 1 (if neg then -n else n)
    else
      let k := (-e).toNat
      if m % 2 ^ k = 0 then
        let n : Int := (m / 2 ^ k : Nat)
        f.round r false 1 (if neg then -n else n)
      else if (Nat.log2 m : Int) + e < -((f.p : Int) + 6) then
        f.round r false (stick (if neg then 2 ^ (f.p + 8) - 1 else 2 ^ (f.p + 8)) false) (-((f.p : Int) + 8) - 1)
      else
        let v : Int := if neg then -(m : Int) else m
        let n := v / 2 ^ k
        f.refine r (exp2Bounds n (v % 2 ^ k).toNat k) scales

/-- The sum of z^(2i+1) / (2i+1) at scale 2^P for z2 = z². -/
def atanhGo (P z2 : Nat) : Nat → Nat → Nat → Nat → Nat
  | 0, _, _, sum => sum
  | n + 1, i, t, sum => atanhGo P z2 n (i + 2) (t * z2 / 2 ^ P) (sum + t / i)

/-- log2 (m × 2^e) for m with lead exponent L and m no power of two. -/
def log2Bounds (m : Nat) (e : Int) (P : Nat) : Option Bounds :=
  let L := Nat.log2 m
  let z := ((m - 2 ^ L) <<< P) / (m + 2 ^ L)
  let lnm := 2 * atanhGo P (z * z / 2 ^ P) P 1 z 0
  let l2 := ln2 P
  let y : Int := ((lnm <<< P) / l2 : Nat)
  let v : Int := y + ((L : Int) + e) * 2 ^ P
  let err : Int := 64 * P
  let lo := v - err
  let hi := v + err
  if 0 < lo then some ⟨false, lo.toNat, hi.toNat, P⟩
  else if hi < 0 then some ⟨true, (-hi).toNat, (-lo).toNat, P⟩
  else none

/-- log2 a (R62): the logarithm of a power of two is exact. -/
def Fmt.log2 (f : Fmt) (r : Rnd) (a : FVal) : FRes :=
  match a with
  | .nan _ => f.nanOf [a]
  | .inf n => if n then f.invalid else (f.infBits false, 0)
  | .fin neg m e =>
    if m = 0 then (f.infBits true, fDZ)
    else if neg then f.invalid
    else
      let L := Nat.log2 m
      if m = 2 ^ L then f.roundInt r ((L : Int) + e) 0 false
      else f.refine r (log2Bounds m e) scales

/-- The alternating sum of 1 / ((2i+1) d^(2i+1)) at scale 2^P, truncated. -/
def atanInvGo (d : Nat) : Nat → Nat → Nat → Bool → Int → Int
  | 0, _, _, _, sum => sum
  | n + 1, i, t, neg, sum => atanInvGo d n (i + 2) (t / (d * d)) (!neg) (if neg then sum - (t / i : Nat) else sum + (t / i : Nat))
def atanInv (d P : Nat) : Int := atanInvGo d (P / 4 + 4) 1 (2 ^ P / d) false 0
/-- π / 2 × 2^P within 32 P units. -/
def halfPi (P : Nat) : Nat := (8 * atanInv 5 P - 2 * atanInv 239 P).toNat

/-- The alternating series of sine (t = x, i = 2) and cosine (t = 1, i = 1) at scale 2^P. -/
def trigGo (P x2 : Nat) : Nat → Nat → Nat → Bool → Int → Int
  | 0, _, _, _, sum => sum
  | n + 1, i, t, neg, sum =>
    trigGo P x2 n (i + 2) (t * x2 / 2 ^ P / (i * (i + 1))) (!neg) (if neg then sum - (t : Int) else sum + (t : Int))
def sinAt (P x : Nat) : Int := trigGo P (x * x / 2 ^ P) (P / 2) 2 x false 0
def cosAt (P x : Nat) : Int := trigGo P (x * x / 2 ^ P) (P / 2) 1 (2 ^ P) false 0

/-- sin (or cos, where `q0` is 1) of m × 2^e. -/
def trigBounds (q0 : Nat) (neg : Bool) (m : Nat) (e : Int) (P0 : Nat) : Option Bounds :=
  let P := P0 + 128
  let E := ((Nat.log2 m : Int) + e).toNat + 16
  let S := P + E
  let x : Nat := if 0 ≤ e + S then m <<< (e + S).toNat else m >>> (-(e + S)).toNat
  let hp := halfPi S
  let n := (2 * x + hp) / (2 * hp)
  let d : Int := (x : Int) - n * hp
  let slop : Int := (n + 1) * (32 * S) + 1
  let rlo := d - slop
  let rhi := d + slop
  let sh : Int := 2 ^ E
  let arg : Option (Bool × Nat × Nat) :=
    if 0 < rlo then some (false, (rlo / sh).toNat, (rhi / sh).toNat + 1)
    else if rhi < 0 then some (true, ((-rhi) / sh).toNat, ((-rlo) / sh).toNat + 1)
    else none
  match arg with
  | none => none
  | some (rneg, lo, hi) =>
    let quad := (n + q0) % 4
    let err : Int := 16 * P
    let (vneg, a, b) : Bool × Int × Int :=
      if quad % 2 = 0 then (rneg != (quad == 2), sinAt P lo - err, sinAt P hi + err)
      else (quad == 3, cosAt P hi - err, cosAt P lo + err)
    if a ≤ 0 then none
    else some ⟨if q0 = 0 then vneg != neg else vneg, a.toNat, b.toNat, P⟩

/-- sin a and cos a (R62); near zero the leading term decides. -/
def Fmt.sin (f : Fmt) (r : Rnd) (a : FVal) : FRes :=
  match a with
  | .nan _ => f.nanOf [a]
  | .inf _ => f.invalid
  | .fin neg m e =>
    if m = 0 then (f.zeroBits neg, 0)
    else if (Nat.log2 m : Int) + e < -((f.p : Int) / 2 + 4) then
      f.round r neg (stick ((m <<< (2 * f.p)) - 1) false) (e - 2 * f.p - 1)
    else f.refine r (trigBounds 0 neg m e) scales
def Fmt.cos (f : Fmt) (r : Rnd) (a : FVal) : FRes :=
  match a with
  | .nan _ => f.nanOf [a]
  | .inf _ => f.invalid
  | .fin neg m e =>
    if m = 0 then f.round r false 1 0
    else if (Nat.log2 m : Int) + e < -((f.p : Int) / 2 + 6) then
      f.round r false (stick (2 ^ (f.p + 8) - 1) false) (-((f.p : Int) + 8) - 1)
    else f.refine r (trigBounds 1 neg m e) scales

end Sys2Proof.Machine
end

