-- ==== Sys2Proof/WellFormed.lean ====
section
/-! DEFINITION. Which instruction terms are legal: the checks of steps 2 and 3 of R33
(spec/01_instruction_word.md) said once over a view of an instruction, the rules R325 sets for
micro-instructions, and the ranges of what an event names. -/

namespace Sys2Proof

/-- Operand classes (R30). -/
inductive Cls | v | s | w | a | p | h | special
  deriving DecidableEq, Repr

/-- The class of an operand code; a reserved code has none (R30, R31). -/
def Opnd.cls : Opnd → Option Cls
  | .v _ => some .v
  | .s _ => some .s
  | .w _ => some .w
  | .a _ => some .a
  | .p _ => some .p
  | .h _ => some .h
  | .special _ => some .special
  | .reserved _ => none

/-- What a description demands of an operand: its classes, how many v or w registers the value takes
(a pair or a quadruple stands on a multiple of that number, R31, R75), and whether an s register must be even. -/
structure Need where
  o : Opnd
  cls : List Cls
  n : Nat
  sEven : Bool := false
  deriving DecidableEq, Repr

/-- The operand meets what its description demands (R31). -/
def Need.ok (x : Need) : Bool :=
  match x.o.cls with
  | none => false
  | some k => x.cls.contains k &&
    (match x.o with
     | .v i => i.toNat % x.n == 0
     | .w i => i.toNat % x.n == 0
     | .s i => !x.sEven || i.toNat % 2 == 0
     | _ => true)

/-- Classes of a source of the lane families (R56, R60). -/
def laneSrc : List Cls := [.v, .w, .s, .h, .special]
/-- Classes of a source of the uniform family (R67). -/
def uniSrc : List Cls := [.s, .special]
/-- Classes of the data of a store (R75). -/
def dataSrc : List Cls := [.v, .w, .s]
/-- Classes of an offset register (R75). -/
def offSrc : List Cls := [.v, .s]

def IntTy.bits : IntTy → Nat
  | .i32 | .n32 => 32
  | .i64 | .n64 => 64
  | .i16 | .n16 => 16
  | .i8 | .n8 => 8
def IntTy.signed : IntTy → Bool
  | .i32 | .i64 | .i16 | .i8 => true
  | _ => false
/-- Registers an integer of the type takes (R47). -/
def IntTy.regs (t : IntTy) : Nat := if t.bits = 64 then 2 else 1
/-- Registers a lane-floating-point operand takes (R47, R49). -/
def FFmt.regs : FFmt → Nat
  | .f64 => 2
  | _ => 1
def CvtTy.regs : CvtTy → Nat
  | .i64 | .n64 | .f64 => 2
  | _ => 1
def CvtTy.isFloat : CvtTy → Bool
  | .f16 | .bf16 | .f32 | .f64 => true
  | _ => false
/-- Bytes of a width (R76). -/
def Width.bytes : Width → Nat
  | .i8 | .n8 => 1
  | .i16 | .n16 => 2
  | .n32 => 4
  | .n64 => 8
  | .n128 => 16
/-- Registers a datum of a width takes (R75). -/
def Width.regs : Width → Nat
  | .n64 => 2
  | .n128 => 4
  | _ => 1
def RedOp.isFloat : RedOp → Bool
  | .fmin32 | .fmax32 | .fmin64 | .fmax64 => true
  | _ => false
/-- Registers a reduction's values take (R66). -/
def RedOp.regs (op : RedOp) (wide : Bool) : Nat :=
  match op with
  | .fmin64 | .fmax64 => 2
  | _ => if wide then 2 else 1
def LTy.wide : LTy → Bool
  | .i64 | .n64 => true
  | _ => false
def AtomOp.isCas : AtomOp → Bool
  | .cas => true
  | _ => false
/-- Registers the DST of ATOM, RED and RATOM names (R221). -/
def AtomOp.regs (op : AtomOp) (wide : Bool) : Nat :=
  (if wide then 2 else 1) * (if op.isCas then 2 else 1)

def Src.reg? : Src → Option Opnd
  | .reg o => some o
  | _ => none
def Src.isImm : Src → Bool
  | .imm _ => true
  | _ => false
def Src.isLit : Src → Bool
  | .lit _ => true
  | _ => false
/-- What a register in place of source B must meet. -/
def Src.need (b : Src) (cls : List Cls) (n : Nat) : List Need :=
  match b with
  | .reg o => [⟨o, cls, n, false⟩]
  | _ => []
def Addr.off? : Addr → Option Opnd
  | .idx o _ _ => some o
  | .disp _ => none
def Addr.need (x : Addr) (cls : List Cls) : List Need :=
  match x with
  | .idx o _ _ => [⟨o, cls, 1, false⟩]
  | .disp _ => []

/-- What decoding checks of a core instruction: its control fields, the registers it reads as
sources A, B and C (where LR and HOLD may stand), whether its description defines a completion
(R25), whether its modifiers are legal, and what its operands must meet. -/
structure View where
  c : Ctl
  a : Option Opnd := none
  b : Option Opnd := none
  x : Option Opnd := none
  completes : Bool := false
  legal : Bool := true
  needs : List Need := []
  /-- the system register an RDSR or WRSR names -/
  sr : Option (BitVec 18) := none

def INone.view (x : INone) : View := { c := x.c }
/-- DEDUCED: log entry 11. -/
def IBin.view (x : IBin) (sat : Bool) : View :=
  { c := x.c, a := some x.a, b := x.b.reg?, legal := sat || !x.sat
    needs := [⟨x.d, [.v], x.ty.regs, false⟩, ⟨x.a, laneSrc, x.ty.regs, false⟩] ++ x.b.need laneSrc x.ty.regs }
def ITern.view (x : ITern) (sat : Bool) : View :=
  { c := x.c, a := some x.a, b := x.b.reg?, x := some x.x, legal := (sat || !x.sat) && !x.b.isImm
    needs := [⟨x.d, [.v], x.ty.regs, false⟩, ⟨x.a, laneSrc, x.ty.regs, false⟩] ++ x.b.need laneSrc x.ty.regs
      ++ [⟨x.x, laneSrc, x.ty.regs, false⟩] }
/-- `sat`: saturation allowed; `sgn`: only .I types; `count`: the result is one 32-bit register. -/
def IUn.view (x : IUn) (sat sgn count : Bool) : View :=
  { c := x.c, a := some x.a, legal := (sat || !x.sat) && (!sgn || x.ty.signed)
    needs := [⟨x.d, [.v], if count then 1 else x.ty.regs, false⟩, ⟨x.a, laneSrc, x.ty.regs, false⟩] }
def ICmp.view (x : ICmp) : View :=
  { c := x.c, a := some x.a, b := x.b.reg?, legal := !x.b.isImm
    needs := [⟨x.d, [.p], 1, false⟩, ⟨x.a, laneSrc, x.ty.regs, false⟩] ++ x.b.need laneSrc x.ty.regs }
def ISel.view (x : ISel) : View :=
  { c := x.c, a := some x.a, b := x.b.reg?, x := some x.q, legal := !x.b.isImm
    needs := [⟨x.d, [.v], x.ty.regs, false⟩, ⟨x.a, laneSrc, x.ty.regs, false⟩] ++ x.b.need laneSrc x.ty.regs
      ++ [⟨x.q, [.p], 1, false⟩] }
def IMovi.view (x : IMovi) : View :=
  { c := x.c, legal := x.b.isImm || x.b.isLit, needs := [⟨x.d, [.v], x.ty.regs, false⟩] }
/-- `round`: the instruction rounds (R60). -/
def FBin.view (x : FBin) (round : Bool) : View :=
  { c := x.c, a := some x.a, b := x.b.reg?, legal := !x.b.isImm && (round || x.rnd == .rn)
    needs := [⟨x.d, [.v], x.fmt.regs, false⟩, ⟨x.a, laneSrc, x.fmt.regs, false⟩] ++ x.b.need laneSrc x.fmt.regs }
def FTern.view (x : FTern) : View :=
  { c := x.c, a := some x.a, b := x.b.reg?, x := some x.x, legal := !x.b.isImm
    needs := [⟨x.d, [.v], x.fmt.regs, false⟩, ⟨x.a, laneSrc, x.fmt.regs, false⟩] ++ x.b.need laneSrc x.fmt.regs
      ++ [⟨x.x, laneSrc, x.fmt.regs, false⟩] }
def FUn.view (x : FUn) (round : Bool) : View :=
  { c := x.c, a := some x.a, legal := round || x.rnd == .rn
    needs := [⟨x.d, [.v], x.fmt.regs, false⟩, ⟨x.a, laneSrc, x.fmt.regs, false⟩] }
def FCmp.view (x : FCmp) : View :=
  { c := x.c, a := some x.a, b := x.b.reg?, legal := !x.b.isImm
    needs := [⟨x.d, [.p], 1, false⟩, ⟨x.a, laneSrc, x.fmt.regs, false⟩] ++ x.b.need laneSrc x.fmt.regs }
/-- The SAT and rounding rules of R64's table. DEDUCED: log entry 13. -/
def Cvt.view (x : Cvt) : View :=
  { c := x.c, a := some x.a
    legal := if !x.st.isFloat && !x.dt.isFloat then x.rnd == .rn else !x.sat
    needs := [⟨x.d, [.v], x.dt.regs, false⟩, ⟨x.a, laneSrc, x.st.regs, false⟩] }
def Pack.view (x : Pack) : View :=
  { c := x.c, a := some x.a, b := some x.b
    legal := match x.fmt with
      | .f16 | .bf16 => !x.sat
      | .i16 | .n16 => x.rnd == .rn
    needs := [⟨x.d, [.v], 1, false⟩, ⟨x.a, laneSrc, 1, false⟩, ⟨x.b, laneSrc, 1, false⟩] }
def Unpack.view (x : Unpack) : View :=
  { c := x.c, a := some x.a, needs := [⟨x.d, [.v], 2, false⟩, ⟨x.a, laneSrc, 1, false⟩] }
def Shfl.view (x : Shfl) : View :=
  { c := x.c, a := some x.a, b := x.b.reg?
    needs := [⟨x.d, [.v], if x.wide then 2 else 1, false⟩, ⟨x.a, laneSrc, if x.wide then 2 else 1, false⟩]
      ++ x.b.need laneSrc 1 }
/-- `n`: the registers a BALLOT writes (R66, R134). -/
def Vote.view (x : Vote) (n : Nat) : View :=
  { c := x.c, a := some x.a
    needs := [if x.mode = .ballot then ⟨x.d, [.v], n, false⟩ else ⟨x.d, [.p], 1, false⟩, ⟨x.a, [.p], 1, false⟩] }
def Red.view (x : Red) (dst : List Cls) : View :=
  { c := x.c, a := some x.a, legal := !(x.op.isFloat && x.flag)
    needs := [⟨x.d, dst, x.op.regs x.flag, false⟩, ⟨x.a, laneSrc, x.op.regs x.flag, false⟩] }
/-- SCAN takes the integer operations on 32-bit values; its flag is the exclusive bit (R66). -/
def Red.scanView (x : Red) : View :=
  { c := x.c, a := some x.a, legal := !x.op.isFloat
    needs := [⟨x.d, [.v], 1, false⟩, ⟨x.a, laneSrc, 1, false⟩] }
def UBin.view (x : UBin) : View :=
  { c := x.c, a := some x.a, b := x.b.reg?
    needs := [⟨x.d, [.s], 1, false⟩, ⟨x.a, uniSrc, 1, false⟩] ++ x.b.need uniSrc 1 }
/-- RDLANE (R67). -/
def UBin.rdlaneView (x : UBin) : View :=
  { c := x.c, a := some x.a, b := x.b.reg?
    needs := [⟨x.d, [.s], 1, false⟩, ⟨x.a, [.v], 1, false⟩] ++ x.b.need uniSrc 1 }
/-- ADV (R74). -/
def UBin.advView (x : UBin) : View :=
  { c := x.c, a := some x.a, b := x.b.reg?
    needs := [⟨x.d, [.a], 1, false⟩, ⟨x.a, [.a], 1, false⟩] ++ x.b.need [.s] 1 }
/-- ATOMR (R226). -/
def UBin.atomrView (x : UBin) : View :=
  { c := x.c, a := some x.a, b := x.b.reg?
    needs := [⟨x.d, [.v], 2, false⟩, ⟨x.a, [.s], 1, false⟩] ++ x.b.need offSrc 1 }
def UShr.view (x : UShr) : View :=
  { c := x.c, a := some x.a, b := x.b.reg?
    needs := [⟨x.d, [.s], 1, false⟩, ⟨x.a, uniSrc, 1, false⟩] ++ x.b.need uniSrc 1 }
def UCmp.view (x : UCmp) : View :=
  { c := x.c, a := some x.a, b := x.b.reg?
    needs := [⟨x.d, [.s, .p], 1, false⟩, ⟨x.a, uniSrc, 1, false⟩] ++ x.b.need uniSrc 1 }
def UMov.view (x : UMov) : View :=
  { c := x.c, a := some x.a, needs := [⟨x.d, [.s], 1, false⟩, ⟨x.a, uniSrc, 1, false⟩] }
/-- COLL (R272). -/
def UMov.collView (x : UMov) : View :=
  { c := x.c, a := some x.a, completes := true, needs := [⟨x.d, [.s], 1, false⟩, ⟨x.a, [.a], 1, false⟩] }
def UMovi.view (x : UMovi) : View :=
  { c := x.c, legal := x.b.isImm || x.b.isLit, needs := [⟨x.d, [.s], 1, false⟩] }
/-- MOVW: without I or L its source stands in SRCA (R137). -/
def UMovi.movwView (x : UMovi) : View :=
  { c := x.c, a := x.b.reg?, needs := [⟨x.d, [.w], 1, false⟩] ++ x.b.need laneSrc 1 }
/-- The condition R68 sets for BRA, CALL and RET: no predicate. -/
def Ctl.always (c : Ctl) : Bool := c.pred == 7#3 && !c.pneg
def Bra.view (x : Bra) (always : Bool) : View := { c := x.c, legal := !always || x.c.always }
def Brx.view (x : Brx) : View :=
  { c := x.c, a := some x.a
    needs := (match x.link with | some d => [⟨d, [.s], 1, false⟩] | none => []) ++ [⟨x.a, offSrc, 2, false⟩] }
def Call.view (x : Call) : View := { c := x.c, legal := x.c.always, needs := [⟨x.d, [.s], 1, false⟩] }
def Ret.view (x : Ret) : View :=
  { c := x.c, a := some x.a, legal := x.c.always, needs := [⟨x.a, [.s], 1, false⟩] }
def Pause.view (x : Pause) : View := { c := x.c }
def Trap.view (x : Trap) : View := { c := x.c }
def Rte.view (x : Rte) : View :=
  { c := x.c, a := x.target, needs := match x.target with | some t => [⟨t, [.s], 1, false⟩] | none => [] }
/-- FFLAGS moves through a v register, every other system register through an s register (R72). -/
def srCls (num : BitVec 18) : List Cls := if num = 0 then [.v] else [.s]
def Rdsr.view (x : Rdsr) : View := { c := x.c, sr := some x.num, needs := [⟨x.d, srCls x.num, 1, false⟩] }
def Wrsr.view (x : Wrsr) : View := { c := x.c, sr := some x.num, a := some x.a, needs := [⟨x.a, srCls x.num, 1, false⟩] }
def ASet.view (x : ASet) : View :=
  { c := x.c, a := some x.a, b := some x.b, x := some x.x
    needs := [⟨x.d, [.a], 1, false⟩, ⟨x.a, [.s], 1, false⟩, ⟨x.b, [.s], 1, false⟩, ⟨x.x, [.s], 1, false⟩] }
def ANarrow.view (x : ANarrow) : View :=
  { c := x.c, a := some x.a, b := some x.b, x := some x.x
    needs := [⟨x.d, [.a], 1, false⟩, ⟨x.a, [.a], 1, false⟩, ⟨x.b, [.s], 1, false⟩, ⟨x.x, [.s], 1, false⟩] }
def ARd.view (x : ARd) : View :=
  { c := x.c, a := some x.a, needs := [⟨x.d, [.s], 1, false⟩, ⟨x.a, [.a], 1, false⟩] }
/-- `dst`: classes of the data operand; `base`: class of SRCA; `off`: classes of the offset. An s register that supplies 16
bytes is a pair, which stands on an even number (R75). DESIGN CHOICE: log entry 40. -/
def Mem.view (x : Mem) (dst base off : List Cls) : View :=
  { c := x.c, a := some x.a, b := x.addr.off?, completes := true
    needs := [⟨x.d, dst, x.w.regs, x.w == .n128⟩, ⟨x.a, base, 1, false⟩] ++ x.addr.need off }
/-- LDU: an s destination, no .N128, an s offset (R75). -/
def Mem.lduView (x : Mem) : View :=
  { c := x.c, a := some x.a, b := x.addr.off?, completes := true, legal := x.w ≠ .n128
    needs := [⟨x.d, [.s], 1, false⟩, ⟨x.a, [.a], 1, false⟩] ++ x.addr.need [.s] }
def Pref.view (x : Pref) : View :=
  { c := x.c, a := some x.a, b := x.addr.off?, needs := [⟨x.a, [.a], 1, false⟩] ++ x.addr.need offSrc }
def OMem.view (x : OMem) (dst : List Cls) (ldra : Bool) : View :=
  { c := x.c, a := some x.a, b := x.addr.off?, completes := true
    legal := !ldra || x.scope == .dev || x.scope == .sys
    needs := [⟨x.d, dst, if x.wide then 2 else 1, false⟩, ⟨x.a, [.a], 1, false⟩] ++ x.addr.need offSrc }
def MBcast.view (x : MBcast) : View :=
  { c := x.c, a := some x.a, b := x.b.reg?
    needs := [⟨x.d, [.v], if x.wide then 2 else 1, false⟩, ⟨x.a, laneSrc, if x.wide then 2 else 1, false⟩]
      ++ x.b.need laneSrc 1 }
/-- The carried range of REGRP and REGRET: legal counts are 0 to 16, and no register is named for 0
(R138). DEDUCED: log entry 13. -/
def rangeLegal (vb : Opnd) (n : BitVec 9) : Bool :=
  n.toNat ≤ 16 && (n.toNat ≠ 0 || vb == .v 0)
/-- A range that passes v255 faults on its first register (R138). -/
def rangeNeed (vb : Opnd) (n : BitVec 9) : List Need :=
  match vb with
  | .v i => if i.toNat + n.toNat ≤ 256 then [⟨vb, [.v], 1, false⟩] else [⟨vb, [], 1, false⟩]
  | _ => [⟨vb, [.v], 1, false⟩]
def Regrp.view (x : Regrp) : View :=
  { c := x.c, a := some x.key, legal := rangeLegal x.vb x.n
    needs := [⟨x.key, offSrc, 1, false⟩] ++ rangeNeed x.vb x.n }
def Regret.view (x : Regret) : View :=
  { c := x.c, legal := rangeLegal x.vb x.n, needs := rangeNeed x.vb x.n }
/-- CAS has a compare operand and no immediate; the other operations have none (R144). -/
def AtomL.view (x : AtomL) : View :=
  { c := x.c, a := some x.a, b := x.b.reg?, x := x.cmp, completes := true
    legal := if x.op = .cas then x.cmp.isSome && !x.b.isImm else x.cmp.isNone
    needs := [⟨x.d, [.v], if x.ty.wide then 2 else 1, false⟩, ⟨x.a, offSrc, 1, false⟩]
      ++ x.b.need laneSrc (if x.ty.wide then 2 else 1)
      ++ (match x.cmp with | some o => [⟨o, laneSrc, if x.ty.wide then 2 else 1, false⟩] | none => []) }
def Cpy.view (x : Cpy) : View :=
  { c := x.c, a := some x.a, b := some x.b, completes := true
    needs := [⟨x.d, [.s], 1, false⟩, ⟨x.a, if x.lin then [.s] else [.a], 1, false⟩, ⟨x.b, [.s], 1, false⟩] }
def CpyOut.view (x : CpyOut) : View :=
  { c := x.c, a := some x.a, b := some x.b, completes := true
    needs := [⟨x.d, [.a], 1, false⟩, ⟨x.a, [.s], 1, false⟩, ⟨x.b, [.s], 1, false⟩] }
def CpyH.view (x : CpyH) : View :=
  { c := x.c, a := some x.a, b := some x.b, completes := true
    needs := [⟨x.d, [.s], 1, false⟩, ⟨x.a, [.a], 1, false⟩, ⟨x.b, [.s], 1, true⟩] }
def CpyWp.view (x : CpyWp) : View := { c := x.c, needs := [⟨x.d, [.s], 1, false⟩] }
def CpyWait.view (x : CpyWait) : View := { c := x.c, b := x.b.reg?, needs := x.b.need [.s] 1 }
def BarD.view (x : BarD) (dst : List Cls) : View :=
  { c := x.c, b := x.b.reg?, needs := [⟨x.d, dst, 1, false⟩] ++ x.b.need [.s] 1 }
def BarWait.view (x : BarWait) : View := { c := x.c, a := some x.a, needs := [⟨x.a, [.s], 1, false⟩] }
def BarSync.view (x : BarSync) : View := { c := x.c, b := x.b.reg?, needs := x.b.need [.s] 1 }
/-- BAR.DEFER has no immediate form (R155). -/
def BarDefer.view (x : BarDefer) : View :=
  { c := x.c, b := x.b.reg?, legal := !x.b.isImm, needs := [⟨x.d, [.s], 1, false⟩] ++ x.b.need [.s] 1 }
/-- LAUNCH has no literal form (R160). -/
def LaunchI.view (x : LaunchI) : View :=
  { c := x.c, a := some x.a, b := x.q.reg?, completes := true, legal := !x.q.isLit
    needs := [⟨x.d, [.s], 1, false⟩, ⟨x.a, [.a], 1, false⟩] ++ x.q.need [.s] 1 }
def Atom.view (x : Atom) : View :=
  { c := x.c, a := some x.a, b := some x.b, completes := true
    needs := [⟨x.d, [.v], x.op.regs x.wide, false⟩, ⟨x.a, [.a], 1, false⟩, ⟨x.b, [.v, .s, .special], 1, false⟩] }
/-- RED permits neither EXCH nor CAS, and only no ordering or .REL (R221). -/
def Atom.redView (x : Atom) : View :=
  { c := x.c, a := some x.a, b := some x.b, completes := true
    legal := x.op ≠ .exch && x.op ≠ .cas && (x.ord == .none || x.ord == .rel)
    needs := [⟨x.d, dataSrc, x.op.regs x.wide, false⟩, ⟨x.a, [.a], 1, false⟩, ⟨x.b, [.v, .s, .special], 1, false⟩] }
def Fence.view (x : Fence) : View := { c := x.c }
def QFence.view (x : QFence) : View := { c := x.c, completes := true }
def Waitc.view (x : Waitc) : View :=
  { c := x.c, a := some x.a, b := x.b.reg?, needs := [⟨x.a, [.a], 1, false⟩] ++ x.b.need uniSrc 1 }
/-- An s register that supplies 16 bytes is a pair, as in `Mem.view`. DESIGN CHOICE: log entry 40. -/
def Rmt.view (x : Rmt) (dst : List Cls) : View :=
  { c := x.c, a := some x.a, b := some x.b, completes := true
    needs := [⟨x.d, dst, x.w.regs, x.w == .n128⟩, ⟨x.a, offSrc, 1, false⟩, ⟨x.b, offSrc, 1, false⟩] }
def RAtom.view (x : RAtom) : View :=
  { c := x.c, a := some x.a, b := some x.b, completes := true
    needs := [⟨x.d, [.v], x.op.regs x.wide, false⟩, ⟨x.a, offSrc, 1, false⟩, ⟨x.b, offSrc, 1, false⟩] }
def LaX.view (x : LaX) : View := { c := x.c }
def LaAdd.view (x : LaAdd) : View :=
  { c := x.c, a := some x.a, needs := [⟨x.a, laneSrc, x.fmt.regs, false⟩] }
def LaMad.view (x : LaMad) : View :=
  { c := x.c, a := some x.a, b := some x.b
    needs := [⟨x.a, laneSrc, x.fmt.regs, false⟩, ⟨x.b, laneSrc, x.fmt.regs, false⟩] }
def LaMrg.view (x : LaMrg) : View := { c := x.c }
def LaFl.view (x : LaFl) : View := { c := x.c, legal := x.x ≠ x.xs }
def LaRnd.view (x : LaRnd) : View := { c := x.c, needs := [⟨x.d, [.v], x.fmt.regs, false⟩] }
def LaMem.view (x : LaMem) : View :=
  { c := x.c, a := some x.a, b := x.addr.off?, completes := true
    needs := [⟨x.a, [.a], 1, false⟩] ++ x.addr.need offSrc }
/-- A value in .F64 needs a wide image (R271). -/
def Redla.view (x : Redla) : View :=
  { c := x.c, a := some x.a, b := some x.b, completes := true
    legal := match x.src with
      | .value .f64 _ => x.kw
      | _ => true
    needs := (match x.src with
        | .value f d => [⟨d, laneSrc, f.regs, false⟩]
        | .image _ => [])
      ++ [⟨x.a, [.a], 1, false⟩, ⟨x.b, offSrc, 1, false⟩] }
/-- HOLD is illegal on every source of MMA, MMAD and MDRAIN, and LR on SRCB and SRCC (R313). -/
def Mma.view (x : Mma) (drains : Bool) : View :=
  { c := x.c, a := some x.a, b := some x.b, x := some x.f, completes := true
    legal := (drains || !x.z) && x.c.hold == .none && !x.c.lrB && !x.c.lrC
    needs := [⟨x.a, [.v], 1, false⟩, ⟨x.b, [.w], 1, false⟩, ⟨x.f, [.s], 1, true⟩] }
def MDrain.view (x : MDrain) : View :=
  { c := x.c, x := some x.f, completes := true, legal := x.c.hold == .none && !x.c.lrC, needs := [⟨x.f, [.s], 1, true⟩] }
def MZero.view (x : MZero) : View := { c := x.c, completes := true }
def MTile.view (x : MTile) : View := { c := x.c, a := some x.a, completes := true, needs := [⟨x.a, [.a], 1, false⟩] }
def Dpld.view (x : Dpld) : View := { c := x.c, a := some x.a, completes := true, needs := [⟨x.a, [.a], 1, false⟩] }
def Dpinv.view (x : Dpinv) : View := { c := x.c, completes := true }
def MStat.view (x : MStat) : View := { c := x.c, legal := x.n.toNat ≤ 64, needs := [⟨x.d, [.s], 1, false⟩] }

/-- The view of a core instruction; micro-instructions and events have none. -/
def Instr.view : Instr → Option View
  | .nop x => some (x.view)
  | .iadd x => some (x.view true)
  | .isub x => some (x.view true)
  | .imul x => some (x.view true)
  | .imulh x => some (x.view false)
  | .imad x => some (x.view true)
  | .imin x => some (x.view false)
  | .imax x => some (x.view false)
  | .iabs x => some (x.view true true false)
  | .ineg x => some (x.view true true false)
  | .and x => some (x.view false)
  | .or x => some (x.view false)
  | .xor x => some (x.view false)
  | .not x => some (x.view false false false)
  | .shl x => some (x.view false)
  | .shr x => some (x.view false)
  | .sar x => some (x.view false)
  | .rot x => some (x.view false)
  | .popc x => some (x.view false false true)
  | .clz x => some (x.view false false true)
  | .brev x => some (x.view false false false)
  | .bfx x => some (x.view false)
  | .bfi x => some (x.view false)
  | .icmp x => some (x.view)
  | .sel x => some (x.view)
  | .mov x => some (x.view false false false)
  | .movi x => some (x.view)
  | .fadd x => some (x.view true)
  | .fsub x => some (x.view true)
  | .fmul x => some (x.view true)
  | .ffma x => some (x.view)
  | .fmin x => some (x.view false)
  | .fmax x => some (x.view false)
  | .fabs x => some (x.view false)
  | .fneg x => some (x.view false)
  | .frcp x => some (x.view true)
  | .frsq x => some (x.view true)
  | .fsqrt x => some (x.view true)
  | .fex2 x => some (x.view true)
  | .flg2 x => some (x.view true)
  | .fsin x => some (x.view true)
  | .fcos x => some (x.view true)
  | .fcmp x => some (x.view)
  | .fclass x => some (x.view false)
  | .cvt x => some (x.view)
  | .pack x => some (x.view)
  | .unpack x => some (x.view)
  | .shfl x => some (x.view)
  | .vote x => some (x.view 2)
  | .lred x => some (x.view [.v])
  | .scan x => some (x.scanView)
  | .sadd x => some (x.view)
  | .ssub x => some (x.view)
  | .smul x => some (x.view)
  | .sand x => some (x.view)
  | .sor x => some (x.view)
  | .sxor x => some (x.view)
  | .sshl x => some (x.view)
  | .sshr x => some (x.view)
  | .scmp x => some (x.view)
  | .smov x => some (x.view)
  | .smovi x => some (x.view)
  | .rdlane x => some (x.rdlaneView)
  | .bra x => some (x.view true)
  | .brc x => some (x.view false)
  | .brx x => some (x.view)
  | .call x => some (x.view)
  | .ret x => some (x.view)
  | .exit x => some (x.view)
  | .yield x => some (x.view)
  | .pause x => some (x.view)
  | .trap x => some (x.view)
  | .rte x => some (x.view)
  | .rdsr x => some (x.view)
  | .wrsr x => some (x.view)
  | .bkpt x => some (x.view)
  | .aset x => some (x.view)
  | .adv x => some (x.advView)
  | .ard x => some (x.view)
  | .anarrow x => some (x.view)
  | .ld x => some (x.view [.v] [.a] offSrc)
  | .st x => some (x.view dataSrc [.a] offSrc)
  | .ldu x => some (x.lduView)
  | .pref x => some (x.view)
  | .ldAcq x => some (x.view [.v] false)
  | .stRel x => some (x.view dataSrc false)
  | .mbcast x => some (x.view)
  | .mred x => some (x.view [.v, .w])
  | .mvote x => some (x.view 1)
  | .ldw x => some (x.view [.w] [.a] offSrc)
  | .movw x => some (x.movwView)
  | .regrp x => some (x.view)
  | .regret x => some (x.view)
  | .ldl x => some (x.view [.v] [.s] offSrc)
  | .stl x => some (x.view dataSrc [.s] offSrc)
  | .atoml x => some (x.view)
  | .cpy x => some (x.view)
  | .cpyh x => some (x.view)
  | .cpyout x => some (x.view)
  | .cpywp x => some (x.view)
  | .cpywait x => some (x.view)
  | .barArr x => some (x.view [.s])
  | .barWait x => some (x.view)
  | .barSync x => some (x.view)
  | .barDefer x => some (x.view)
  | .barLast x => some (x.view [.p])
  | .launch x => some (x.view)
  | .tdone x => some (x.view)
  | .atom x => some (x.view)
  | .red x => some (x.redView)
  | .atomr x => some (x.atomrView)
  | .fence x => some (x.view)
  | .ldra x => some (x.view [.v] true)
  | .qfence x => some (x.view)
  | .waitc x => some (x.view)
  | .rget x => some (x.view [.v])
  | .rput x => some (x.view dataSrc)
  | .ratom x => some (x.view)
  | .laclr x => some (x.view)
  | .laadd x => some (x.view)
  | .lamad x => some (x.view)
  | .lamrg x => some (x.view)
  | .larnd x => some (x.view)
  | .lald x => some (x.view)
  | .lasv x => some (x.view)
  | .lafl x => some (x.view)
  | .redla x => some (x.view)
  | .collSum x => some (x.collView)
  | .collMin x => some (x.collView)
  | .collMax x => some (x.collView)
  | .collHist x => some (x.collView)
  | .collRank x => some (x.collView)
  | .collSelect x => some (x.collView)
  | .collStat x => some (x.collView)
  | .collBcast x => some (x.collView)
  | .mma x => some (x.view false)
  | .mmad x => some (x.view true)
  | .mdrain x => some (x.view)
  | .mzero x => some (x.view)
  | .mkld x => some (x.view)
  | .mkst x => some (x.view)
  | .dpld x => some (x.view)
  | .dpinv x => some (x.view)
  | .mstat x => some (x.view)
  | _ => none

/-- HOLD names a source the instruction reads, in a v or w register (R23). -/
def View.holdOk (w : View) : Bool :=
  let ok (o : Option Opnd) : Bool :=
    match o with
    | some (.v _) => true
    | some (.w _) => true
    | _ => false
  match w.c.hold with
  | .none => true
  | .srcA => ok w.a
  | .srcB => ok w.b
  | .srcC => ok w.x

/-- An LR bit stands only on a source in a v register (R21, R24). -/
def View.lrOk (w : View) : Bool :=
  let ok (set : Bool) (o : Option Opnd) : Bool :=
    !set || (match o with
      | some (.v _) => true
      | _ => false)
  ok w.c.lrA w.a && ok w.c.lrB w.b && ok w.c.lrC w.x

/-- FSEL is a legal code, and nonzero only with a completion (R25). -/
def View.fselOk (w : View) : Bool :=
  w.c.fsel == .none || (w.c.fsel != .both && w.completes)

/-- Step 2 of R33 but for unused fields, which the word alone shows. -/
def View.legalEnc (w : View) : Bool := w.legal && w.holdOk && w.lrOk && w.fselOk

/-- Step 3 of R33: the first operand, in the order DST, A, B, C, that breaks R31. DEDUCED: log entry 13. -/
def View.badOperand (w : View) : Option Opnd := (w.needs.find? (fun n => !n.ok)).map Need.o

/-- System-register numbers in use (R53, R72, R123, R186, R215, R349, R353, R387). -/
def srAssigned (num : Nat) : Bool :=
  num ≤ 1 || (0x10 ≤ num && num ≤ 0x16) || (0x18 ≤ num && num ≤ 0x1E) || (0x20 ≤ num && num ≤ 0x23)
    || (0x40 ≤ num && num ≤ 0x4A) || (0x50 ≤ num && num ≤ 0x52) || (0x100 ≤ num && num ≤ 0x108)
    || (0x200 ≤ num && num ≤ 0x204) || num == 0x2F0

/-- An RDSR or WRSR names a register in use (R72). DEDUCED: log entry 13. -/
def View.srOk (w : View) : Bool :=
  match w.sr with
  | some n => srAssigned n.toNat
  | none => true

/-- The rules of R325 for one micro-instruction. -/
def Instr.microLegal : Instr → Bool
  | .dscale x => x.ty ≠ .i32
  | .dbias x => x.ty ≠ .i32
  | .dcvt x => x.dt ≠ x.st && x.st ≠ .bf16 && x.st ≠ .f16
  | .dexp2 x => x.ty ≠ .i32
  | .drcp x => x.ty ≠ .i32
  | .dla x => x.ty ≠ .i32
  | _ => true

/-- An event names a unit that the package has (R3, R5, R32, R360). -/
def Instr.eventInRange : Instr → Bool
  | .variableLatencyResultArrival x => x.octet < 64
  | .regpoolEviction x => x.core < 384
  | .coreUncorrectableError x => x.core < 384
  | .distributorTakeLaunch x => x.ctx < 1024 && x.q < 64
  | .teamDispatch x => x.core < 384
  | .completionRingPost x => x.ctx < 1024
  | .timeSliceExpiry x => x.ctx < 1024 && x.core < 384
  | .priorityPreemption x => x.ctx < 1024 && x.core < 384
  | .groupResume x => x.core < 384
  | .tableWalk x => x.core < 384
  | .matrixPromotion x => x.cluster < 96
  | .matrixGrant x => x.cluster < 96
  | .matrixQueueOperationPerform x => x.cluster < 96
  | .dpldInstall x => x.cluster < 96
  | .dpinvPerform x => x.cluster < 96
  | .drainElement x => x.cluster < 96
  | .remoteOperationPerform x => x.core < 384
  | .windowAccess x => x.win < 64
  | .flitReceive x => x.port < 32
  | .nakReceive x => x.port < 32
  | .portDown x => x.port < 32
  | .portUp x => x.port < 32
  | .lendingPeriod x => x.port < 32
  | .lendingFlitReceive x => x.port < 32
  | .keyChangeMarker x => x.port < 32
  | .markerReceive x => x.port < 32
  | .rekeyThreshold x => x.port < 32
  | .rekeyStallTimeout x => x.port < 32
  | .dieBoot x => x.die < 19
  | .dieFaultReport x => x.die < 19
  | .heartbeatMiss x => x.die < 19
  | .qtailWrite x => x.ctx < 1024 && x.q < 64
  | .crheadWrite x => x.ctx < 1024
  | .flitTransmission x => x.port < 32
  | .linkKeyLoad x => x.port < 32
  | _ => true

/-- A well-formed instruction: a core instruction passes the decoding checks of R33 whatever its
clause, a micro-instruction those of R325, an event names existing units. -/
def Instr.wf (i : Instr) : Bool :=
  match i.view with
  | some w => w.legalEnc && w.srOk && w.badOperand.isNone
  | none => i.microLegal && i.eventInRange

end Sys2Proof
end

