-- ==== Sys2Proof/Decode.lean ====
section
/-! DEFINITION. The decoder and, after it, the encoder, both written from the encoding tables of the
spec (spec/01_instruction_word.md R20 to R34 and each instruction's own table). A word is cut into the
fields of R20 once. The decoder takes each field for what the instruction's table says it is; a word
that does not come back when the instruction is encoded again holds a nonzero unused field, a
reserved code or an undefined modifier bit, and is refused under step 2 of R33. -/

namespace Sys2Proof

/-- Codes of Hold (R20). -/
def Hold.code : Hold → BitVec 2
  | .none => 0#2
  | .srcA => 1#2
  | .srcB => 2#2
  | .srcC => 3#2
def Hold.ofCode (k : BitVec 2) : Hold :=
  match k.toNat with
  | 0 => .none
  | 1 => .srcA
  | 2 => .srcB
  | _ => .srcC
/-- Codes of Fsel (R20). -/
def Fsel.code : Fsel → BitVec 2
  | .none => 0#2
  | .setA => 1#2
  | .setB => 2#2
  | .both => 3#2
def Fsel.ofCode (k : BitVec 2) : Fsel :=
  match k.toNat with
  | 0 => .none
  | 1 => .setA
  | 2 => .setB
  | _ => .both
/-- Codes of IntTy (R29). -/
def IntTy.code : IntTy → BitVec 3
  | .i32 => 0#3
  | .n32 => 1#3
  | .i64 => 2#3
  | .n64 => 3#3
  | .i16 => 4#3
  | .n16 => 5#3
  | .i8 => 6#3
  | .n8 => 7#3
def IntTy.ofCode (k : BitVec 3) : IntTy :=
  match k.toNat with
  | 0 => .i32
  | 1 => .n32
  | 2 => .i64
  | 3 => .n64
  | 4 => .i16
  | 5 => .n16
  | 6 => .i8
  | _ => .n8
/-- Codes of Cond (R59). -/
def Cond.code : Cond → BitVec 3
  | .eq => 0#3
  | .ne => 1#3
  | .lt => 2#3
  | .le => 3#3
  | .gt => 4#3
  | .ge => 5#3
def Cond.ofCode (k : BitVec 3) : Cond :=
  match k.toNat with
  | 0 => .eq
  | 1 => .ne
  | 2 => .lt
  | 3 => .le
  | 4 => .gt
  | _ => .ge
/-- Codes of FCond (R63). -/
def FCond.code : FCond → BitVec 3
  | .eq => 0#3
  | .ne => 1#3
  | .lt => 2#3
  | .le => 3#3
  | .gt => 4#3
  | .ge => 5#3
  | .un => 6#3
  | .or => 7#3
def FCond.ofCode (k : BitVec 3) : FCond :=
  match k.toNat with
  | 0 => .eq
  | 1 => .ne
  | 2 => .lt
  | 3 => .le
  | 4 => .gt
  | 5 => .ge
  | 6 => .un
  | _ => .or
/-- Codes of FFmt (R29). -/
def FFmt.code : FFmt → BitVec 2
  | .f32 => 0#2
  | .f64 => 1#2
  | .f16 => 2#2
  | .bf16 => 3#2
def FFmt.ofCode (k : BitVec 2) : FFmt :=
  match k.toNat with
  | 0 => .f32
  | 1 => .f64
  | 2 => .f16
  | _ => .bf16
/-- Codes of Rnd (R29). -/
def Rnd.code : Rnd → BitVec 2
  | .rn => 0#2
  | .rz => 1#2
  | .ru => 2#2
  | .rd => 3#2
def Rnd.ofCode (k : BitVec 2) : Rnd :=
  match k.toNat with
  | 0 => .rn
  | 1 => .rz
  | 2 => .ru
  | _ => .rd
/-- Codes of CvtTy (R64). -/
def CvtTy.code : CvtTy → BitVec 4
  | .i8 => 0#4
  | .i16 => 1#4
  | .i32 => 2#4
  | .i64 => 3#4
  | .n8 => 4#4
  | .n16 => 5#4
  | .n32 => 6#4
  | .n64 => 7#4
  | .f16 => 8#4
  | .bf16 => 9#4
  | .f32 => 10#4
  | .f64 => 11#4
def CvtTy.ofCode (k : BitVec 4) : CvtTy :=
  match k.toNat with
  | 0 => .i8
  | 1 => .i16
  | 2 => .i32
  | 3 => .i64
  | 4 => .n8
  | 5 => .n16
  | 6 => .n32
  | 7 => .n64
  | 8 => .f16
  | 9 => .bf16
  | 10 => .f32
  | _ => .f64
/-- Codes of PackFmt (R65). -/
def PackFmt.code : PackFmt → BitVec 2
  | .f16 => 0#2
  | .bf16 => 1#2
  | .i16 => 2#2
  | .n16 => 3#2
def PackFmt.ofCode (k : BitVec 2) : PackFmt :=
  match k.toNat with
  | 0 => .f16
  | 1 => .bf16
  | 2 => .i16
  | _ => .n16
/-- Codes of ShflMode (R66). -/
def ShflMode.code : ShflMode → BitVec 2
  | .idx => 0#2
  | .up => 1#2
  | .down => 2#2
  | .xor => 3#2
def ShflMode.ofCode (k : BitVec 2) : ShflMode :=
  match k.toNat with
  | 0 => .idx
  | 1 => .up
  | 2 => .down
  | _ => .xor
/-- Codes of VoteMode (R66). -/
def VoteMode.code : VoteMode → BitVec 2
  | .any => 0#2
  | .all => 1#2
  | .eq => 2#2
  | .ballot => 3#2
def VoteMode.ofCode (k : BitVec 2) : VoteMode :=
  match k.toNat with
  | 0 => .any
  | 1 => .all
  | 2 => .eq
  | _ => .ballot
/-- Codes of RedOp (R66). -/
def RedOp.code : RedOp → BitVec 4
  | .add => 0#4
  | .minI => 1#4
  | .minN => 2#4
  | .maxI => 3#4
  | .maxN => 4#4
  | .and => 5#4
  | .or => 6#4
  | .xor => 7#4
  | .fmin32 => 8#4
  | .fmax32 => 9#4
  | .fmin64 => 10#4
  | .fmax64 => 11#4
def RedOp.ofCode (k : BitVec 4) : RedOp :=
  match k.toNat with
  | 0 => .add
  | 1 => .minI
  | 2 => .minN
  | 3 => .maxI
  | 4 => .maxN
  | 5 => .and
  | 6 => .or
  | 7 => .xor
  | 8 => .fmin32
  | 9 => .fmax32
  | 10 => .fmin64
  | _ => .fmax64
/-- Codes of AField (R74). -/
def AField.code : AField → BitVec 2
  | .ptr => 0#2
  | .base => 1#2
  | .limit => 2#2
  | .perm => 3#2
def AField.ofCode (k : BitVec 2) : AField :=
  match k.toNat with
  | 0 => .ptr
  | 1 => .base
  | 2 => .limit
  | _ => .perm
/-- Codes of Width (R75). -/
def Width.code : Width → BitVec 3
  | .i8 => 0#3
  | .n8 => 1#3
  | .i16 => 2#3
  | .n16 => 3#3
  | .n32 => 4#3
  | .n64 => 5#3
  | .n128 => 6#3
def Width.ofCode (k : BitVec 3) : Width :=
  match k.toNat with
  | 0 => .i8
  | 1 => .n8
  | 2 => .i16
  | 3 => .n16
  | 4 => .n32
  | 5 => .n64
  | _ => .n128
/-- Codes of Scale (R75). -/
def Scale.code : Scale → BitVec 2
  | .x1 => 0#2
  | .x2 => 1#2
  | .x4 => 2#2
  | .x8 => 3#2
def Scale.ofCode (k : BitVec 2) : Scale :=
  match k.toNat with
  | 0 => .x1
  | 1 => .x2
  | 2 => .x4
  | _ => .x8
/-- Codes of PrefLvl (R75). -/
def PrefLvl.code : PrefLvl → BitVec 3
  | .l1 => 0#3
  | .l2 => 1#3
def PrefLvl.ofCode (k : BitVec 3) : PrefLvl :=
  match k.toNat with
  | 0 => .l1
  | _ => .l2
/-- Codes of Scope (R217). -/
def Scope.code : Scope → BitVec 2
  | .grp => 0#2
  | .team => 1#2
  | .dev => 2#2
  | .sys => 3#2
def Scope.ofCode (k : BitVec 2) : Scope :=
  match k.toNat with
  | 0 => .grp
  | 1 => .team
  | 2 => .dev
  | _ => .sys
/-- Codes of AOrd (R221). -/
def AOrd.code : AOrd → BitVec 2
  | .none => 0#2
  | .acq => 1#2
  | .rel => 2#2
  | .ar => 3#2
def AOrd.ofCode (k : BitVec 2) : AOrd :=
  match k.toNat with
  | 0 => .none
  | 1 => .acq
  | 2 => .rel
  | _ => .ar
/-- Codes of AtomOp (R222). -/
def AtomOp.code : AtomOp → BitVec 4
  | .add => 0#4
  | .minI => 1#4
  | .minN => 2#4
  | .maxI => 3#4
  | .maxN => 4#4
  | .and => 5#4
  | .or => 6#4
  | .xor => 7#4
  | .exch => 8#4
  | .cas => 9#4
  | .fadd => 10#4
def AtomOp.ofCode (k : BitVec 4) : AtomOp :=
  match k.toNat with
  | 0 => .add
  | 1 => .minI
  | 2 => .minN
  | 3 => .maxI
  | 4 => .maxN
  | 5 => .and
  | 6 => .or
  | 7 => .xor
  | 8 => .exch
  | 9 => .cas
  | _ => .fadd
/-- Codes of LOp (R144). -/
def LOp.code : LOp → BitVec 3
  | .add => 0#3
  | .min => 1#3
  | .max => 2#3
  | .and => 3#3
  | .or => 4#3
  | .xor => 5#3
  | .exch => 6#3
  | .cas => 7#3
def LOp.ofCode (k : BitVec 3) : LOp :=
  match k.toNat with
  | 0 => .add
  | 1 => .min
  | 2 => .max
  | 3 => .and
  | 4 => .or
  | 5 => .xor
  | 6 => .exch
  | _ => .cas
/-- Codes of LTy (R144). -/
def LTy.code : LTy → BitVec 2
  | .i32 => 0#2
  | .n32 => 1#2
  | .i64 => 2#2
  | .n64 => 3#2
def LTy.ofCode (k : BitVec 2) : LTy :=
  match k.toNat with
  | 0 => .i32
  | 1 => .n32
  | 2 => .i64
  | _ => .n64
/-- Codes of FenceKind (R227). -/
def FenceKind.code : FenceKind → BitVec 2
  | .full => 0#2
  | .acq => 1#2
  | .rel => 2#2
def FenceKind.ofCode (k : BitVec 2) : FenceKind :=
  match k.toNat with
  | 0 => .full
  | 1 => .acq
  | _ => .rel
/-- Codes of FoldMode (R268). -/
def FoldMode.code : FoldMode → BitVec 2
  | .lane => 0#2
  | .memb => 1#2
  | .all => 2#2
def FoldMode.ofCode (k : BitVec 2) : FoldMode :=
  match k.toNat with
  | 0 => .lane
  | 1 => .memb
  | _ => .all
/-- Codes of DTy (R321). -/
def DTy.code : DTy → BitVec 2
  | .f32 => 0#2
  | .f64 => 1#2
  | .i32 => 2#2
def DTy.ofCode (k : BitVec 2) : DTy :=
  match k.toNat with
  | 0 => .f32
  | 1 => .f64
  | _ => .i32
/-- Codes of DCvtTy (R322). -/
def DCvtTy.code : DCvtTy → BitVec 3
  | .f32 => 0#3
  | .f64 => 1#3
  | .i32 => 2#3
  | .bf16 => 3#3
  | .f16 => 4#3
def DCvtTy.ofCode (k : BitVec 3) : DCvtTy :=
  match k.toNat with
  | 0 => .f32
  | 1 => .f64
  | 2 => .i32
  | 3 => .bf16
  | _ => .f16
/-- Codes of the special values, from 0x180 (R32). -/
def Special.code : Special → BitVec 5
  | .lane => 0#5
  | .member => 1#5
  | .memberid => 2#5
  | .thread => 3#5
  | .group => 4#5
  | .width => 5#5
  | .members => 6#5
  | .origin => 7#5
  | .teamX => 8#5
  | .teamY => 9#5
  | .teamZ => 10#5
  | .teamMb => 11#5
  | .nteamX => 12#5
  | .nteamY => 13#5
  | .nteamZ => 14#5
  | .nteamMb => 15#5
  | .cycle => 16#5
  | .core => 17#5
  | .device => 18#5
  | .memberbase => 19#5
def Special.ofCode (k : BitVec 5) : Special :=
  match k.toNat with
  | 0 => .lane
  | 1 => .member
  | 2 => .memberid
  | 3 => .thread
  | 4 => .group
  | 5 => .width
  | 6 => .members
  | 7 => .origin
  | 8 => .teamX
  | 9 => .teamY
  | 10 => .teamZ
  | 11 => .teamMb
  | 12 => .nteamX
  | 13 => .nteamY
  | 14 => .nteamZ
  | 15 => .nteamMb
  | 16 => .cycle
  | 17 => .core
  | 18 => .device
  | _ => .memberbase

/-- The operand space (R30): the code of an operand. -/
def Opnd.code : Opnd → BitVec 9
  | .v n => 0#1 ++ n
  | .s n => 0b100#3 ++ n
  | .w n => 0b1010#4 ++ n
  | .a n => 0b10110#5 ++ n
  | .p n => 0b101110#6 ++ n
  | .h n => BitVec.ofNat 9 (0x178 + n.val)
  | .special x => 0b1100#4 ++ x.code
  | .reserved c => c

/-- The operand a code names (R30); 0x17B to 0x17F, 0x194 to 0x1BF and 0x1C0 to 0x1FF are reserved. -/
def Opnd.ofCode (c : BitVec 9) : Opnd :=
  if c.getLsbD 8 = false then .v (c.setWidth 8)
  else if c.extractLsb' 6 3 = 0b100#3 then .s (c.setWidth 6)
  else if c.extractLsb' 5 4 = 0b1010#4 then .w (c.setWidth 5)
  else if c.extractLsb' 4 5 = 0b10110#5 then .a (c.setWidth 4)
  else if c.extractLsb' 3 6 = 0b101110#6 then .p (c.setWidth 3)
  else if c = 0x178#9 then .h 0
  else if c = 0x179#9 then .h 1
  else if c = 0x17A#9 then .h 2
  else if c.extractLsb' 5 4 = 0b1100#4 ∧ c.toNat < 0x194 then .special (.ofCode (c.setWidth 5))
  else .reserved c

/-- The fields of an instruction word (R20); `m` holds bits 61:57, `i` and `l` bits 63 and 62. -/
structure Fields where
  opc : BitVec 10
  dst : BitVec 9 := 0#9
  a : BitVec 9 := 0#9
  b : BitVec 9 := 0#9
  c : BitVec 9 := 0#9
  pred : BitVec 3 := 0#3
  pneg : Bool := false
  hold : BitVec 2 := 0#2
  lr : BitVec 3 := 0#3
  fsel : BitVec 2 := 0#2
  m : BitVec 5 := 0#5
  l : Bool := false
  i : Bool := false
  deriving DecidableEq, Repr

/-- The word of given fields (R20). -/
def Fields.word (f : Fields) : BitVec 64 :=
  BitVec.ofBool f.i ++ BitVec.ofBool f.l ++ f.m ++ f.fsel ++ f.lr ++ f.hold ++ BitVec.ofBool f.pneg
    ++ f.pred ++ f.c ++ f.b ++ f.a ++ f.dst ++ f.opc

/-- The fields of a word (R20). -/
def Fields.ofWord (w : BitVec 64) : Fields :=
  { opc := w.extractLsb' 0 10, dst := w.extractLsb' 10 9, a := w.extractLsb' 19 9, b := w.extractLsb' 28 9
    c := w.extractLsb' 37 9, pred := w.extractLsb' 46 3, pneg := w.getLsbD 49, hold := w.extractLsb' 50 2
    lr := w.extractLsb' 52 3, fsel := w.extractLsb' 55 2, m := w.extractLsb' 57 5, l := w.getLsbD 62
    i := w.getLsbD 63 }

/-! ## Parts that many instructions share -/

/-- The fields of an opcode with its control fields, every other field zero. -/
def Ctl.put (c : Ctl) (opc : BitVec 10) : Fields :=
  { opc := opc, pred := c.pred, pneg := c.pneg, hold := c.hold.code
    lr := BitVec.ofBool c.lrC ++ BitVec.ofBool c.lrB ++ BitVec.ofBool c.lrA, fsel := c.fsel.code }
def Fields.ctl (f : Fields) : Ctl :=
  ⟨f.pred, f.pneg, .ofCode f.hold, f.lr.getLsbD 0, f.lr.getLsbD 1, f.lr.getLsbD 2, .ofCode f.fsel⟩

/-- The 18-bit immediate of R27 in bits 45:28. -/
def Fields.imm (f : Fields) : BitVec 18 := f.c ++ f.b
def Fields.withImm (f : Fields) (i : BitVec 18) : Fields :=
  { f with i := true, b := i.extractLsb' 0 9, c := i.extractLsb' 9 9 }

/-- Source B in its three forms (R27, R28). -/
def Fields.src (f : Fields) (lit : BitVec 64) : Src :=
  if f.i then .imm f.imm else if f.l then .lit lit else .reg (.ofCode f.b)
def Fields.withSrc (f : Fields) : Src → Fields
  | .reg o => { f with b := o.code }
  | .imm i => f.withImm i
  | .lit _ => { f with l := true }

/-- The literal of a source. -/
def Src.lit? : Src → Option (BitVec 64)
  | .lit l => some l
  | _ => none

/-- The address part of R75, the scale given apart. -/
def Fields.addr (f : Fields) (scale : BitVec 2) : Addr :=
  if f.i then .disp f.imm else .idx (.ofCode f.b) (.ofCode scale) f.c
def Fields.withAddr (f : Fields) : Addr → Fields
  | .disp d => f.withImm d
  | .idx o _ d => { f with b := o.code, c := d }
def Addr.scaleCode : Addr → BitVec 2
  | .disp _ => 0#2
  | .idx _ s _ => s.code

def Fields.dOp (f : Fields) : Opnd := .ofCode f.dst
def Fields.aOp (f : Fields) : Opnd := .ofCode f.a
def Fields.bOp (f : Fields) : Opnd := .ofCode f.b
def Fields.cOp (f : Fields) : Opnd := .ofCode f.c
/-- Bit n of MOD, numbered from bit 57. -/
def Fields.mb (f : Fields) (n : Nat) : Bool := f.m.getLsbD n
/-- Bits of MOD, numbered from bit 57. -/
def Fields.mf (f : Fields) (lo n : Nat) : BitVec n := f.m.extractLsb' lo n
/-- The opcode of an atomic: the width bit above four bits of operation (R222). -/
def atomCode (op : AtomOp) (wide : Bool) : BitVec 5 := BitVec.ofBool wide ++ op.code

/-! ## Each shape's fields: `put` writes them, `get` reads them -/

def INone.put (x : INone) (opc : BitVec 10) : Fields :=
  x.c.put opc
def INone.get (f : Fields) (lit : BitVec 64) : INone :=
  let _ := lit; ⟨f.ctl⟩
def IBin.put (x : IBin) (opc : BitVec 10) : Fields :=
  { (x.c.put opc).withSrc x.b with dst := x.d.code, a := x.a.code, m := 0#1 ++ BitVec.ofBool x.sat ++ x.ty.code }
def IBin.get (f : Fields) (lit : BitVec 64) : IBin :=
  ⟨f.ctl, .ofCode (f.mf 0 3), f.mb 3, f.dOp, f.aOp, f.src lit⟩
def ITern.put (x : ITern) (opc : BitVec 10) : Fields :=
  { (x.c.put opc).withSrc x.b with dst := x.d.code, a := x.a.code, c := x.x.code, m := 0#1 ++ BitVec.ofBool x.sat ++ x.ty.code }
def ITern.get (f : Fields) (lit : BitVec 64) : ITern :=
  ⟨f.ctl, .ofCode (f.mf 0 3), f.mb 3, f.dOp, f.aOp, f.src lit, f.cOp⟩
def IUn.put (x : IUn) (opc : BitVec 10) : Fields :=
  { x.c.put opc with dst := x.d.code, a := x.a.code, m := 0#1 ++ BitVec.ofBool x.sat ++ x.ty.code }
def IUn.get (f : Fields) (lit : BitVec 64) : IUn :=
  let _ := lit; ⟨f.ctl, .ofCode (f.mf 0 3), f.mb 3, f.dOp, f.aOp⟩
def ICmp.put (x : ICmp) (opc : BitVec 10) : Fields :=
  { (x.c.put opc).withSrc x.b with dst := x.d.code, a := x.a.code, c := 0#6 ++ x.cc.code, m := 0#2 ++ x.ty.code }
def ICmp.get (f : Fields) (lit : BitVec 64) : ICmp :=
  ⟨f.ctl, .ofCode (f.mf 0 3), .ofCode (f.c.setWidth 3), f.dOp, f.aOp, f.src lit⟩
def ISel.put (x : ISel) (opc : BitVec 10) : Fields :=
  { (x.c.put opc).withSrc x.b with dst := x.d.code, a := x.a.code, c := x.q.code, m := 0#2 ++ x.ty.code }
def ISel.get (f : Fields) (lit : BitVec 64) : ISel :=
  ⟨f.ctl, .ofCode (f.mf 0 3), f.dOp, f.aOp, f.src lit, f.cOp⟩
def IMovi.put (x : IMovi) (opc : BitVec 10) : Fields :=
  { (x.c.put opc).withSrc x.b with dst := x.d.code, m := 0#2 ++ x.ty.code }
def IMovi.get (f : Fields) (lit : BitVec 64) : IMovi :=
  ⟨f.ctl, .ofCode (f.mf 0 3), f.dOp, f.src lit⟩
def FBin.put (x : FBin) (opc : BitVec 10) : Fields :=
  { (x.c.put opc).withSrc x.b with dst := x.d.code, a := x.a.code, m := 0#1 ++ x.rnd.code ++ x.fmt.code }
def FBin.get (f : Fields) (lit : BitVec 64) : FBin :=
  ⟨f.ctl, .ofCode (f.mf 2 2), .ofCode (f.mf 0 2), f.dOp, f.aOp, f.src lit⟩
def FTern.put (x : FTern) (opc : BitVec 10) : Fields :=
  { (x.c.put opc).withSrc x.b with dst := x.d.code, a := x.a.code, c := x.x.code, m := 0#1 ++ x.rnd.code ++ x.fmt.code }
def FTern.get (f : Fields) (lit : BitVec 64) : FTern :=
  ⟨f.ctl, .ofCode (f.mf 2 2), .ofCode (f.mf 0 2), f.dOp, f.aOp, f.src lit, f.cOp⟩
def FUn.put (x : FUn) (opc : BitVec 10) : Fields :=
  { x.c.put opc with dst := x.d.code, a := x.a.code, m := 0#1 ++ x.rnd.code ++ x.fmt.code }
def FUn.get (f : Fields) (lit : BitVec 64) : FUn :=
  let _ := lit; ⟨f.ctl, .ofCode (f.mf 2 2), .ofCode (f.mf 0 2), f.dOp, f.aOp⟩
def FCmp.put (x : FCmp) (opc : BitVec 10) : Fields :=
  { (x.c.put opc).withSrc x.b with dst := x.d.code, a := x.a.code, c := 0#6 ++ x.cc.code, m := 0#3 ++ x.fmt.code }
def FCmp.get (f : Fields) (lit : BitVec 64) : FCmp :=
  ⟨f.ctl, .ofCode (f.mf 0 2), .ofCode (f.c.setWidth 3), f.dOp, f.aOp, f.src lit⟩
def Cvt.put (x : Cvt) (opc : BitVec 10) : Fields :=
  { x.c.put opc with dst := x.d.code, a := x.a.code, c := 0#1 ++ x.st.code ++ x.dt.code, m := BitVec.ofBool x.sat ++ x.rnd.code ++ 0#2 }
def Cvt.get (f : Fields) (lit : BitVec 64) : Cvt :=
  let _ := lit; ⟨f.ctl, f.mb 4, .ofCode (f.mf 2 2), .ofCode (f.c.setWidth 4), .ofCode (f.c.extractLsb' 4 4), f.dOp, f.aOp⟩
def Pack.put (x : Pack) (opc : BitVec 10) : Fields :=
  { x.c.put opc with dst := x.d.code, a := x.a.code, b := x.b.code, m := BitVec.ofBool x.sat ++ x.rnd.code ++ x.fmt.code }
def Pack.get (f : Fields) (lit : BitVec 64) : Pack :=
  let _ := lit; ⟨f.ctl, f.mb 4, .ofCode (f.mf 2 2), .ofCode (f.mf 0 2), f.dOp, f.aOp, f.bOp⟩
def Unpack.put (x : Unpack) (opc : BitVec 10) : Fields :=
  { x.c.put opc with dst := x.d.code, a := x.a.code, m := 0#3 ++ x.fmt.code }
def Unpack.get (f : Fields) (lit : BitVec 64) : Unpack :=
  let _ := lit; ⟨f.ctl, .ofCode (f.mf 0 2), f.dOp, f.aOp⟩
def Shfl.put (x : Shfl) (opc : BitVec 10) : Fields :=
  { (x.c.put opc).withSrc x.b with dst := x.d.code, a := x.a.code, m := 0#2 ++ BitVec.ofBool x.wide ++ x.mode.code }
def Shfl.get (f : Fields) (lit : BitVec 64) : Shfl :=
  ⟨f.ctl, f.mb 2, .ofCode (f.mf 0 2), f.dOp, f.aOp, f.src lit⟩
def Vote.put (x : Vote) (opc : BitVec 10) : Fields :=
  { x.c.put opc with dst := x.d.code, a := x.a.code, m := 0#3 ++ x.mode.code }
def Vote.get (f : Fields) (lit : BitVec 64) : Vote :=
  let _ := lit; ⟨f.ctl, .ofCode (f.mf 0 2), f.dOp, f.aOp⟩
def Red.put (x : Red) (opc : BitVec 10) : Fields :=
  { x.c.put opc with dst := x.d.code, a := x.a.code, m := BitVec.ofBool x.flag ++ x.op.code }
def Red.get (f : Fields) (lit : BitVec 64) : Red :=
  let _ := lit; ⟨f.ctl, f.mb 4, .ofCode (f.mf 0 4), f.dOp, f.aOp⟩
def UBin.put (x : UBin) (opc : BitVec 10) : Fields :=
  { (x.c.put opc).withSrc x.b with dst := x.d.code, a := x.a.code }
def UBin.get (f : Fields) (lit : BitVec 64) : UBin :=
  ⟨f.ctl, f.dOp, f.aOp, f.src lit⟩
def UShr.put (x : UShr) (opc : BitVec 10) : Fields :=
  { (x.c.put opc).withSrc x.b with dst := x.d.code, a := x.a.code, m := 0#4 ++ BitVec.ofBool x.arith }
def UShr.get (f : Fields) (lit : BitVec 64) : UShr :=
  ⟨f.ctl, f.mb 0, f.dOp, f.aOp, f.src lit⟩
def UCmp.put (x : UCmp) (opc : BitVec 10) : Fields :=
  { (x.c.put opc).withSrc x.b with dst := x.d.code, a := x.a.code, m := 0#1 ++ x.cc.code ++ BitVec.ofBool x.nat }
def UCmp.get (f : Fields) (lit : BitVec 64) : UCmp :=
  ⟨f.ctl, .ofCode (f.mf 1 3), f.mb 0, f.dOp, f.aOp, f.src lit⟩
def UMov.put (x : UMov) (opc : BitVec 10) : Fields :=
  { x.c.put opc with dst := x.d.code, a := x.a.code }
def UMov.get (f : Fields) (lit : BitVec 64) : UMov :=
  let _ := lit; ⟨f.ctl, f.dOp, f.aOp⟩
def UMovi.put (x : UMovi) (opc : BitVec 10) : Fields :=
  { (x.c.put opc).withSrc x.b with dst := x.d.code }
def UMovi.get (f : Fields) (lit : BitVec 64) : UMovi :=
  ⟨f.ctl, f.dOp, f.src lit⟩
/-- MOVW: a register source stands in SRCA (R137). -/
def UMovi.movwPut (x : UMovi) (opc : BitVec 10) : Fields :=
  match x.b with
  | .reg o => { x.c.put opc with dst := x.d.code, a := o.code }
  | b => { (x.c.put opc).withSrc b with dst := x.d.code }
def UMovi.movwGet (f : Fields) (lit : BitVec 64) : UMovi :=
  ⟨f.ctl, f.dOp, if f.i || f.l then f.src lit else .reg f.aOp⟩
def Bra.put (x : Bra) (opc : BitVec 10) : Fields :=
  (x.c.put opc).withImm x.disp
def Bra.get (f : Fields) (lit : BitVec 64) : Bra :=
  let _ := lit; ⟨f.ctl, f.imm⟩
def Brx.put (x : Brx) (opc : BitVec 10) : Fields :=
  { x.c.put opc with dst := (match x.link with | some d => d.code | none => 0#9), a := x.a.code, m := 0#4 ++ BitVec.ofBool x.link.isSome }
def Brx.get (f : Fields) (lit : BitVec 64) : Brx :=
  let _ := lit; ⟨f.ctl, f.aOp, if f.mb 0 then some f.dOp else none⟩
def Call.put (x : Call) (opc : BitVec 10) : Fields :=
  { (x.c.put opc).withImm x.disp with dst := x.d.code }
def Call.get (f : Fields) (lit : BitVec 64) : Call :=
  let _ := lit; ⟨f.ctl, f.imm, f.dOp⟩
def Ret.put (x : Ret) (opc : BitVec 10) : Fields :=
  { x.c.put opc with a := x.a.code }
def Ret.get (f : Fields) (lit : BitVec 64) : Ret :=
  let _ := lit; ⟨f.ctl, f.aOp⟩
def Pause.put (x : Pause) (opc : BitVec 10) : Fields :=
  (x.c.put opc).withImm (0#2 ++ x.n)
def Pause.get (f : Fields) (lit : BitVec 64) : Pause :=
  let _ := lit; ⟨f.ctl, f.imm.setWidth 16⟩
def Trap.put (x : Trap) (opc : BitVec 10) : Fields :=
  (x.c.put opc).withImm (0#10 ++ x.code)
def Trap.get (f : Fields) (lit : BitVec 64) : Trap :=
  let _ := lit; ⟨f.ctl, f.imm.setWidth 8⟩
def Rte.put (x : Rte) (opc : BitVec 10) : Fields :=
  { x.c.put opc with a := (match x.target with | some t => t.code | none => 0#9), m := 0#4 ++ BitVec.ofBool x.target.isSome }
def Rte.get (f : Fields) (lit : BitVec 64) : Rte :=
  let _ := lit; ⟨f.ctl, if f.mb 0 then some f.aOp else none⟩
def Rdsr.put (x : Rdsr) (opc : BitVec 10) : Fields :=
  { (x.c.put opc).withImm x.num with dst := x.d.code }
def Rdsr.get (f : Fields) (lit : BitVec 64) : Rdsr :=
  let _ := lit; ⟨f.ctl, f.imm, f.dOp⟩
def Wrsr.put (x : Wrsr) (opc : BitVec 10) : Fields :=
  { (x.c.put opc).withImm x.num with a := x.a.code }
def Wrsr.get (f : Fields) (lit : BitVec 64) : Wrsr :=
  let _ := lit; ⟨f.ctl, f.imm, f.aOp⟩
def ASet.put (x : ASet) (opc : BitVec 10) : Fields :=
  { x.c.put opc with dst := x.d.code, a := x.a.code, b := x.b.code, c := x.x.code, m := 0#1 ++ BitVec.ofBool x.pv ++ BitVec.ofBool x.atm ++ BitVec.ofBool x.wr ++ BitVec.ofBool x.rd }
def ASet.get (f : Fields) (lit : BitVec 64) : ASet :=
  let _ := lit; ⟨f.ctl, f.mb 0, f.mb 1, f.mb 2, f.mb 3, f.dOp, f.aOp, f.bOp, f.cOp⟩
def ANarrow.put (x : ANarrow) (opc : BitVec 10) : Fields :=
  { x.c.put opc with dst := x.d.code, a := x.a.code, b := x.b.code, c := x.x.code, m := 0#2 ++ BitVec.ofBool x.atm ++ BitVec.ofBool x.wr ++ BitVec.ofBool x.rd }
def ANarrow.get (f : Fields) (lit : BitVec 64) : ANarrow :=
  let _ := lit; ⟨f.ctl, f.mb 0, f.mb 1, f.mb 2, f.dOp, f.aOp, f.bOp, f.cOp⟩
def ARd.put (x : ARd) (opc : BitVec 10) : Fields :=
  { x.c.put opc with dst := x.d.code, a := x.a.code, m := 0#3 ++ x.fld.code }
def ARd.get (f : Fields) (lit : BitVec 64) : ARd :=
  let _ := lit; ⟨f.ctl, .ofCode (f.mf 0 2), f.dOp, f.aOp⟩
def Mem.put (x : Mem) (opc : BitVec 10) : Fields :=
  { (x.c.put opc).withAddr x.addr with dst := x.d.code, a := x.a.code, m := x.w.code ++ x.addr.scaleCode }
def Mem.get (f : Fields) (lit : BitVec 64) : Mem :=
  let _ := lit; ⟨f.ctl, .ofCode (f.mf 2 3), f.dOp, f.aOp, f.addr (f.mf 0 2)⟩
def Pref.put (x : Pref) (opc : BitVec 10) : Fields :=
  { (x.c.put opc).withAddr x.addr with a := x.a.code, m := x.lvl.code ++ x.addr.scaleCode }
def Pref.get (f : Fields) (lit : BitVec 64) : Pref :=
  let _ := lit; ⟨f.ctl, .ofCode (f.mf 2 3), f.aOp, f.addr (f.mf 0 2)⟩
def OMem.put (x : OMem) (opc : BitVec 10) : Fields :=
  { (x.c.put opc).withAddr x.addr with dst := x.d.code, a := x.a.code, m := BitVec.ofBool x.wide ++ x.scope.code ++ x.addr.scaleCode }
def OMem.get (f : Fields) (lit : BitVec 64) : OMem :=
  let _ := lit; ⟨f.ctl, f.mb 4, .ofCode (f.mf 2 2), f.dOp, f.aOp, f.addr (f.mf 0 2)⟩
def MBcast.put (x : MBcast) (opc : BitVec 10) : Fields :=
  { (x.c.put opc).withSrc x.b with dst := x.d.code, a := x.a.code, m := 0#4 ++ BitVec.ofBool x.wide }
def MBcast.get (f : Fields) (lit : BitVec 64) : MBcast :=
  ⟨f.ctl, f.mb 0, f.dOp, f.aOp, f.src lit⟩
def Regrp.put (x : Regrp) (opc : BitVec 10) : Fields :=
  { x.c.put opc with a := x.key.code, b := x.vb.code, c := x.n }
def Regrp.get (f : Fields) (lit : BitVec 64) : Regrp :=
  let _ := lit; ⟨f.ctl, f.aOp, f.bOp, f.c⟩
def Regret.put (x : Regret) (opc : BitVec 10) : Fields :=
  { x.c.put opc with b := x.vb.code, c := x.n }
def Regret.get (f : Fields) (lit : BitVec 64) : Regret :=
  let _ := lit; ⟨f.ctl, f.bOp, f.c⟩
def AtomL.put (x : AtomL) (opc : BitVec 10) : Fields :=
  let f : Fields := { (x.c.put opc).withSrc x.b with dst := x.d.code, a := x.a.code, m := x.op.code ++ x.ty.code }
  match x.cmp with
  | some o => { f with c := o.code }
  | none => f
def AtomL.get (f : Fields) (lit : BitVec 64) : AtomL :=
  ⟨f.ctl, .ofCode (f.mf 2 3), .ofCode (f.mf 0 2), f.dOp, f.aOp, f.src lit, if f.mf 2 3 = 7#3 then some f.cOp else none⟩
def Cpy.put (x : Cpy) (opc : BitVec 10) : Fields :=
  { x.c.put opc with dst := x.d.code, a := x.a.code, b := x.b.code, m := BitVec.ofBool x.lin ++ BitVec.ofBool x.pm ++ x.ch }
def Cpy.get (f : Fields) (lit : BitVec 64) : Cpy :=
  let _ := lit; ⟨f.ctl, f.mf 0 3, f.mb 3, f.mb 4, f.dOp, f.aOp, f.bOp⟩
def CpyOut.put (x : CpyOut) (opc : BitVec 10) : Fields :=
  { x.c.put opc with dst := x.d.code, a := x.a.code, b := x.b.code, m := 0#1 ++ BitVec.ofBool x.pm ++ x.ch }
def CpyOut.get (f : Fields) (lit : BitVec 64) : CpyOut :=
  let _ := lit; ⟨f.ctl, f.mf 0 3, f.mb 3, f.dOp, f.aOp, f.bOp⟩
def CpyH.put (x : CpyH) (opc : BitVec 10) : Fields :=
  { x.c.put opc with dst := x.d.code, a := x.a.code, b := x.b.code, m := 0#2 ++ x.ch }
def CpyH.get (f : Fields) (lit : BitVec 64) : CpyH :=
  let _ := lit; ⟨f.ctl, f.mf 0 3, f.dOp, f.aOp, f.bOp⟩
def CpyWp.put (x : CpyWp) (opc : BitVec 10) : Fields :=
  { x.c.put opc with dst := x.d.code, m := 0#1 ++ BitVec.ofBool x.rst ++ x.ch }
def CpyWp.get (f : Fields) (lit : BitVec 64) : CpyWp :=
  let _ := lit; ⟨f.ctl, f.mf 0 3, f.mb 3, f.dOp⟩
def CpyWait.put (x : CpyWait) (opc : BitVec 10) : Fields :=
  { (x.c.put opc).withSrc x.b with m := 0#2 ++ x.ch }
def CpyWait.get (f : Fields) (lit : BitVec 64) : CpyWait :=
  ⟨f.ctl, f.mf 0 3, f.src lit⟩
def BarD.put (x : BarD) (opc : BitVec 10) : Fields :=
  { (x.c.put opc).withSrc x.b with dst := x.d.code, m := 0#1 ++ x.bar }
def BarD.get (f : Fields) (lit : BitVec 64) : BarD :=
  ⟨f.ctl, f.mf 0 4, f.dOp, f.src lit⟩
def BarWait.put (x : BarWait) (opc : BitVec 10) : Fields :=
  { x.c.put opc with a := x.a.code, m := 0#1 ++ x.bar }
def BarWait.get (f : Fields) (lit : BitVec 64) : BarWait :=
  let _ := lit; ⟨f.ctl, f.mf 0 4, f.aOp⟩
def BarSync.put (x : BarSync) (opc : BitVec 10) : Fields :=
  { (x.c.put opc).withSrc x.b with m := 0#1 ++ x.bar }
def BarSync.get (f : Fields) (lit : BitVec 64) : BarSync :=
  ⟨f.ctl, f.mf 0 4, f.src lit⟩
def BarDefer.put (x : BarDefer) (opc : BitVec 10) : Fields :=
  { (x.c.put opc).withSrc x.b with dst := x.d.code, c := 0#1 ++ x.chans, m := 0#1 ++ x.bar }
def BarDefer.get (f : Fields) (lit : BitVec 64) : BarDefer :=
  ⟨f.ctl, f.mf 0 4, f.dOp, f.src lit, f.c.setWidth 8⟩
def LaunchI.put (x : LaunchI) (opc : BitVec 10) : Fields :=
  { (x.c.put opc).withSrc x.q with dst := x.d.code, a := x.a.code }
def LaunchI.get (f : Fields) (lit : BitVec 64) : LaunchI :=
  ⟨f.ctl, f.dOp, f.aOp, f.src lit⟩
def Atom.put (x : Atom) (opc : BitVec 10) : Fields :=
  { x.c.put opc with dst := x.d.code, a := x.a.code, b := x.b.code, c := 0#3 ++ x.scale.code ++ x.ord.code ++ x.scope.code, m := atomCode x.op x.wide }
def Atom.get (f : Fields) (lit : BitVec 64) : Atom :=
  let _ := lit; ⟨f.ctl, .ofCode (f.mf 0 4), f.mb 4, .ofCode (f.c.setWidth 2), .ofCode (f.c.extractLsb' 2 2), .ofCode (f.c.extractLsb' 4 2), f.dOp, f.aOp, f.bOp⟩
def Fence.put (x : Fence) (opc : BitVec 10) : Fields :=
  { x.c.put opc with m := 0#1 ++ x.kind.code ++ x.scope.code }
def Fence.get (f : Fields) (lit : BitVec 64) : Fence :=
  let _ := lit; ⟨f.ctl, .ofCode (f.mf 2 2), .ofCode (f.mf 0 2)⟩
def QFence.put (x : QFence) (opc : BitVec 10) : Fields :=
  (x.c.put opc).withImm (0#7 ++ x.queues)
def QFence.get (f : Fields) (lit : BitVec 64) : QFence :=
  let _ := lit; ⟨f.ctl, f.imm.setWidth 11⟩
def Waitc.put (x : Waitc) (opc : BitVec 10) : Fields :=
  { (x.c.put opc).withSrc x.b with dst := 0#5 ++ BitVec.ofBool x.nat ++ x.cc.code, a := x.a.code, m := BitVec.ofBool x.wide ++ x.scope.code ++ 0#2 }
def Waitc.get (f : Fields) (lit : BitVec 64) : Waitc :=
  ⟨f.ctl, .ofCode (f.dst.setWidth 3), f.dst.getLsbD 3, f.mb 4, .ofCode (f.mf 2 2), f.aOp, f.src lit⟩
def Rmt.put (x : Rmt) (opc : BitVec 10) : Fields :=
  { x.c.put opc with dst := x.d.code, a := x.a.code, b := x.b.code, c := 0#3 ++ x.win, m := x.w.code ++ x.scale.code }
def Rmt.get (f : Fields) (lit : BitVec 64) : Rmt :=
  let _ := lit; ⟨f.ctl, .ofCode (f.mf 2 3), .ofCode (f.mf 0 2), f.c.setWidth 6, f.dOp, f.aOp, f.bOp⟩
def RAtom.put (x : RAtom) (opc : BitVec 10) : Fields :=
  { x.c.put opc with dst := x.d.code, a := x.a.code, b := x.b.code, c := 0#3 ++ x.win, m := atomCode x.op x.wide }
def RAtom.get (f : Fields) (lit : BitVec 64) : RAtom :=
  let _ := lit; ⟨f.ctl, .ofCode (f.mf 0 4), f.mb 4, f.c.setWidth 6, f.dOp, f.aOp, f.bOp⟩
def LaX.put (x : LaX) (opc : BitVec 10) : Fields :=
  { x.c.put opc with m := 0#3 ++ x.x }
def LaX.get (f : Fields) (lit : BitVec 64) : LaX :=
  let _ := lit; ⟨f.ctl, f.mf 0 2⟩
def LaAdd.put (x : LaAdd) (opc : BitVec 10) : Fields :=
  { x.c.put opc with a := x.a.code, c := 0#7 ++ x.fmt.code, m := 0#3 ++ x.x }
def LaAdd.get (f : Fields) (lit : BitVec 64) : LaAdd :=
  let _ := lit; ⟨f.ctl, f.mf 0 2, .ofCode (f.c.setWidth 2), f.aOp⟩
def LaMad.put (x : LaMad) (opc : BitVec 10) : Fields :=
  { x.c.put opc with a := x.a.code, b := x.b.code, c := 0#7 ++ x.fmt.code, m := 0#3 ++ x.x }
def LaMad.get (f : Fields) (lit : BitVec 64) : LaMad :=
  let _ := lit; ⟨f.ctl, f.mf 0 2, .ofCode (f.c.setWidth 2), f.aOp, f.bOp⟩
def LaMrg.put (x : LaMrg) (opc : BitVec 10) : Fields :=
  { x.c.put opc with m := 0#1 ++ x.xs ++ x.x }
def LaMrg.get (f : Fields) (lit : BitVec 64) : LaMrg :=
  let _ := lit; ⟨f.ctl, f.mf 0 2, f.mf 2 2⟩
def LaFl.put (x : LaFl) (opc : BitVec 10) : Fields :=
  { x.c.put opc with c := 0#7 ++ x.mode.code, m := 0#1 ++ x.xs ++ x.x }
def LaFl.get (f : Fields) (lit : BitVec 64) : LaFl :=
  let _ := lit; ⟨f.ctl, f.mf 0 2, f.mf 2 2, .ofCode (f.c.setWidth 2)⟩
def LaRnd.put (x : LaRnd) (opc : BitVec 10) : Fields :=
  { x.c.put opc with dst := x.d.code, c := 0#5 ++ x.rnd.code ++ x.fmt.code, m := 0#3 ++ x.x }
def LaRnd.get (f : Fields) (lit : BitVec 64) : LaRnd :=
  let _ := lit; ⟨f.ctl, f.mf 0 2, .ofCode (f.c.setWidth 2), .ofCode (f.c.extractLsb' 2 2), f.dOp⟩
def LaMem.put (x : LaMem) (opc : BitVec 10) : Fields :=
  { (x.c.put opc).withAddr x.addr with a := x.a.code, m := 0#1 ++ x.addr.scaleCode ++ x.x }
def LaMem.get (f : Fields) (lit : BitVec 64) : LaMem :=
  let _ := lit; ⟨f.ctl, f.mf 0 2, f.aOp, f.addr (f.mf 2 2)⟩
/-- REDLA (R271): MOD bit 59 chooses the value form. -/
def Redla.put (x : Redla) (opc : BitVec 10) : Fields :=
  let low : BitVec 6 := x.scale.code ++ (if x.rel then 0b10#2 else 0b00#2) ++ x.scope.code
  match x.src with
  | .image xs => { x.c.put opc with a := x.a.code, b := x.b.code, c := 0#3 ++ low, m := 0#1 ++ BitVec.ofBool x.kw ++ 0#1 ++ xs }
  | .value fmt d => { x.c.put opc with dst := d.code, a := x.a.code, b := x.b.code, c := 0#1 ++ fmt.code ++ low
                                       m := 0#1 ++ BitVec.ofBool x.kw ++ 1#1 ++ 0#2 }
def Redla.get (f : Fields) (lit : BitVec 64) : Redla :=
  let _ := lit
  ⟨f.ctl, f.mb 3, .ofCode (f.c.setWidth 2), f.c.extractLsb' 2 2 = 0b10#2, .ofCode (f.c.extractLsb' 4 2), f.aOp, f.bOp,
    if f.mb 2 then .value (.ofCode (f.c.extractLsb' 6 2)) f.dOp else .image (f.mf 0 2)⟩
def Mma.put (x : Mma) (opc : BitVec 10) : Fields :=
  { x.c.put opc with a := x.a.code, b := x.b.code, c := x.f.code, m := BitVec.ofBool x.z ++ x.tile }
def Mma.get (f : Fields) (lit : BitVec 64) : Mma :=
  let _ := lit; ⟨f.ctl, f.mf 0 4, f.mb 4, f.aOp, f.bOp, f.cOp⟩
def MDrain.put (x : MDrain) (opc : BitVec 10) : Fields :=
  { x.c.put opc with c := x.f.code, m := BitVec.ofBool x.z ++ x.tile }
def MDrain.get (f : Fields) (lit : BitVec 64) : MDrain :=
  let _ := lit; ⟨f.ctl, f.mf 0 4, f.mb 4, f.cOp⟩
def MZero.put (x : MZero) (opc : BitVec 10) : Fields :=
  { x.c.put opc with m := 0#1 ++ x.tile }
def MZero.get (f : Fields) (lit : BitVec 64) : MZero :=
  let _ := lit; ⟨f.ctl, f.mf 0 4⟩
def MTile.put (x : MTile) (opc : BitVec 10) : Fields :=
  { (x.c.put opc).withImm x.disp with a := x.a.code, m := 0#1 ++ x.tile }
def MTile.get (f : Fields) (lit : BitVec 64) : MTile :=
  let _ := lit; ⟨f.ctl, f.mf 0 4, f.aOp, f.imm⟩
def Dpld.put (x : Dpld) (opc : BitVec 10) : Fields :=
  { x.c.put opc with a := x.a.code, c := 0#3 ++ x.n }
def Dpld.get (f : Fields) (lit : BitVec 64) : Dpld :=
  let _ := lit; ⟨f.ctl, f.c.setWidth 6, f.aOp⟩
def Dpinv.put (x : Dpinv) (opc : BitVec 10) : Fields :=
  { x.c.put opc with c := 0#3 ++ x.n }
def Dpinv.get (f : Fields) (lit : BitVec 64) : Dpinv :=
  let _ := lit; ⟨f.ctl, f.c.setWidth 6⟩
def MStat.put (x : MStat) (opc : BitVec 10) : Fields :=
  { x.c.put opc with dst := x.d.code, c := x.n }
def MStat.get (f : Fields) (lit : BitVec 64) : MStat :=
  let _ := lit; ⟨f.ctl, f.c, f.dOp⟩

/-! ## The opcode map (R34) -/

/-- The fields of a core instruction; micro-instructions and events have none. -/
def Instr.fields : Instr → Option Fields
  | .nop x => some (x.put 0x001#10)
  | .iadd x => some (x.put 0x002#10)
  | .isub x => some (x.put 0x003#10)
  | .imul x => some (x.put 0x004#10)
  | .imulh x => some (x.put 0x005#10)
  | .imad x => some (x.put 0x006#10)
  | .imin x => some (x.put 0x007#10)
  | .imax x => some (x.put 0x008#10)
  | .iabs x => some (x.put 0x009#10)
  | .ineg x => some (x.put 0x00A#10)
  | .and x => some (x.put 0x010#10)
  | .or x => some (x.put 0x011#10)
  | .xor x => some (x.put 0x012#10)
  | .not x => some (x.put 0x013#10)
  | .shl x => some (x.put 0x014#10)
  | .shr x => some (x.put 0x015#10)
  | .sar x => some (x.put 0x016#10)
  | .rot x => some (x.put 0x017#10)
  | .popc x => some (x.put 0x018#10)
  | .clz x => some (x.put 0x019#10)
  | .brev x => some (x.put 0x01A#10)
  | .bfx x => some (x.put 0x01B#10)
  | .bfi x => some (x.put 0x01C#10)
  | .icmp x => some (x.put 0x020#10)
  | .sel x => some (x.put 0x021#10)
  | .mov x => some (x.put 0x028#10)
  | .movi x => some (x.put 0x029#10)
  | .fadd x => some (x.put 0x080#10)
  | .fsub x => some (x.put 0x081#10)
  | .fmul x => some (x.put 0x082#10)
  | .ffma x => some (x.put 0x083#10)
  | .fmin x => some (x.put 0x084#10)
  | .fmax x => some (x.put 0x085#10)
  | .fabs x => some (x.put 0x086#10)
  | .fneg x => some (x.put 0x087#10)
  | .frcp x => some (x.put 0x088#10)
  | .frsq x => some (x.put 0x089#10)
  | .fsqrt x => some (x.put 0x08A#10)
  | .fex2 x => some (x.put 0x08B#10)
  | .flg2 x => some (x.put 0x08C#10)
  | .fsin x => some (x.put 0x08D#10)
  | .fcos x => some (x.put 0x08E#10)
  | .fcmp x => some (x.put 0x090#10)
  | .fclass x => some (x.put 0x091#10)
  | .cvt x => some (x.put 0x100#10)
  | .pack x => some (x.put 0x101#10)
  | .unpack x => some (x.put 0x102#10)
  | .shfl x => some (x.put 0x110#10)
  | .vote x => some (x.put 0x111#10)
  | .lred x => some (x.put 0x112#10)
  | .scan x => some (x.put 0x113#10)
  | .sadd x => some (x.put 0x140#10)
  | .ssub x => some (x.put 0x141#10)
  | .smul x => some (x.put 0x142#10)
  | .sand x => some (x.put 0x143#10)
  | .sor x => some (x.put 0x144#10)
  | .sxor x => some (x.put 0x145#10)
  | .sshl x => some (x.put 0x146#10)
  | .sshr x => some (x.put 0x147#10)
  | .scmp x => some (x.put 0x148#10)
  | .smov x => some (x.put 0x149#10)
  | .smovi x => some (x.put 0x14A#10)
  | .rdlane x => some (x.put 0x14B#10)
  | .bra x => some (x.put 0x180#10)
  | .brc x => some (x.put 0x181#10)
  | .brx x => some (x.put 0x182#10)
  | .call x => some (x.put 0x183#10)
  | .ret x => some (x.put 0x184#10)
  | .exit x => some (x.put 0x185#10)
  | .yield x => some (x.put 0x186#10)
  | .pause x => some (x.put 0x187#10)
  | .trap x => some (x.put 0x190#10)
  | .rte x => some (x.put 0x191#10)
  | .rdsr x => some (x.put 0x192#10)
  | .wrsr x => some (x.put 0x193#10)
  | .bkpt x => some (x.put 0x194#10)
  | .aset x => some (x.put 0x1C0#10)
  | .adv x => some (x.put 0x1C1#10)
  | .ard x => some (x.put 0x1C2#10)
  | .anarrow x => some (x.put 0x1C3#10)
  | .ld x => some (x.put 0x1D0#10)
  | .st x => some (x.put 0x1D1#10)
  | .ldu x => some (x.put 0x1D2#10)
  | .pref x => some (x.put 0x1D3#10)
  | .ldAcq x => some (x.put 0x1D4#10)
  | .stRel x => some (x.put 0x1D5#10)
  | .mbcast x => some (x.put 0x200#10)
  | .mred x => some (x.put 0x201#10)
  | .mvote x => some (x.put 0x202#10)
  | .ldw x => some (x.put 0x203#10)
  | .movw x => some (x.movwPut 0x204#10)
  | .regrp x => some (x.put 0x210#10)
  | .regret x => some (x.put 0x211#10)
  | .ldl x => some (x.put 0x240#10)
  | .stl x => some (x.put 0x241#10)
  | .atoml x => some (x.put 0x242#10)
  | .cpy x => some (x.put 0x250#10)
  | .cpyh x => some (x.put 0x251#10)
  | .cpyout x => some (x.put 0x252#10)
  | .cpywp x => some (x.put 0x253#10)
  | .cpywait x => some (x.put 0x254#10)
  | .barArr x => some (x.put 0x280#10)
  | .barWait x => some (x.put 0x281#10)
  | .barSync x => some (x.put 0x282#10)
  | .barDefer x => some (x.put 0x283#10)
  | .barLast x => some (x.put 0x284#10)
  | .launch x => some (x.put 0x290#10)
  | .tdone x => some (x.put 0x291#10)
  | .atom x => some (x.put 0x2C0#10)
  | .red x => some (x.put 0x2C1#10)
  | .atomr x => some (x.put 0x2C2#10)
  | .fence x => some (x.put 0x2D0#10)
  | .ldra x => some (x.put 0x2D1#10)
  | .qfence x => some (x.put 0x2D2#10)
  | .waitc x => some (x.put 0x2D3#10)
  | .rget x => some (x.put 0x2E0#10)
  | .rput x => some (x.put 0x2E1#10)
  | .ratom x => some (x.put 0x2E2#10)
  | .laclr x => some (x.put 0x300#10)
  | .laadd x => some (x.put 0x301#10)
  | .lamad x => some (x.put 0x302#10)
  | .lamrg x => some (x.put 0x303#10)
  | .larnd x => some (x.put 0x304#10)
  | .lald x => some (x.put 0x305#10)
  | .lasv x => some (x.put 0x306#10)
  | .lafl x => some (x.put 0x307#10)
  | .redla x => some (x.put 0x310#10)
  | .collSum x => some (x.put 0x340#10)
  | .collMin x => some (x.put 0x341#10)
  | .collMax x => some (x.put 0x342#10)
  | .collHist x => some (x.put 0x343#10)
  | .collRank x => some (x.put 0x344#10)
  | .collSelect x => some (x.put 0x345#10)
  | .collStat x => some (x.put 0x346#10)
  | .collBcast x => some (x.put 0x347#10)
  | .mma x => some (x.put 0x380#10)
  | .mmad x => some (x.put 0x381#10)
  | .mdrain x => some (x.put 0x382#10)
  | .mzero x => some (x.put 0x383#10)
  | .mkld x => some (x.put 0x384#10)
  | .mkst x => some (x.put 0x385#10)
  | .dpld x => some (x.put 0x386#10)
  | .dpinv x => some (x.put 0x387#10)
  | .mstat x => some (x.put 0x388#10)
  | _ => none

/-- The instruction that the fields of a word name, each field taken for what the instruction's table
makes of it; none where the opcode is not in the map (R34). -/
def Fields.instr (f : Fields) (lit : BitVec 64) : Option Instr :=
  match f.opc.toNat with
  | 0x001 => some (.nop (INone.get f lit))
  | 0x002 => some (.iadd (IBin.get f lit))
  | 0x003 => some (.isub (IBin.get f lit))
  | 0x004 => some (.imul (IBin.get f lit))
  | 0x005 => some (.imulh (IBin.get f lit))
  | 0x006 => some (.imad (ITern.get f lit))
  | 0x007 => some (.imin (IBin.get f lit))
  | 0x008 => some (.imax (IBin.get f lit))
  | 0x009 => some (.iabs (IUn.get f lit))
  | 0x00A => some (.ineg (IUn.get f lit))
  | 0x010 => some (.and (IBin.get f lit))
  | 0x011 => some (.or (IBin.get f lit))
  | 0x012 => some (.xor (IBin.get f lit))
  | 0x013 => some (.not (IUn.get f lit))
  | 0x014 => some (.shl (IBin.get f lit))
  | 0x015 => some (.shr (IBin.get f lit))
  | 0x016 => some (.sar (IBin.get f lit))
  | 0x017 => some (.rot (IBin.get f lit))
  | 0x018 => some (.popc (IUn.get f lit))
  | 0x019 => some (.clz (IUn.get f lit))
  | 0x01A => some (.brev (IUn.get f lit))
  | 0x01B => some (.bfx (IBin.get f lit))
  | 0x01C => some (.bfi (ITern.get f lit))
  | 0x020 => some (.icmp (ICmp.get f lit))
  | 0x021 => some (.sel (ISel.get f lit))
  | 0x028 => some (.mov (IUn.get f lit))
  | 0x029 => some (.movi (IMovi.get f lit))
  | 0x080 => some (.fadd (FBin.get f lit))
  | 0x081 => some (.fsub (FBin.get f lit))
  | 0x082 => some (.fmul (FBin.get f lit))
  | 0x083 => some (.ffma (FTern.get f lit))
  | 0x084 => some (.fmin (FBin.get f lit))
  | 0x085 => some (.fmax (FBin.get f lit))
  | 0x086 => some (.fabs (FUn.get f lit))
  | 0x087 => some (.fneg (FUn.get f lit))
  | 0x088 => some (.frcp (FUn.get f lit))
  | 0x089 => some (.frsq (FUn.get f lit))
  | 0x08A => some (.fsqrt (FUn.get f lit))
  | 0x08B => some (.fex2 (FUn.get f lit))
  | 0x08C => some (.flg2 (FUn.get f lit))
  | 0x08D => some (.fsin (FUn.get f lit))
  | 0x08E => some (.fcos (FUn.get f lit))
  | 0x090 => some (.fcmp (FCmp.get f lit))
  | 0x091 => some (.fclass (FUn.get f lit))
  | 0x100 => some (.cvt (Cvt.get f lit))
  | 0x101 => some (.pack (Pack.get f lit))
  | 0x102 => some (.unpack (Unpack.get f lit))
  | 0x110 => some (.shfl (Shfl.get f lit))
  | 0x111 => some (.vote (Vote.get f lit))
  | 0x112 => some (.lred (Red.get f lit))
  | 0x113 => some (.scan (Red.get f lit))
  | 0x140 => some (.sadd (UBin.get f lit))
  | 0x141 => some (.ssub (UBin.get f lit))
  | 0x142 => some (.smul (UBin.get f lit))
  | 0x143 => some (.sand (UBin.get f lit))
  | 0x144 => some (.sor (UBin.get f lit))
  | 0x145 => some (.sxor (UBin.get f lit))
  | 0x146 => some (.sshl (UBin.get f lit))
  | 0x147 => some (.sshr (UShr.get f lit))
  | 0x148 => some (.scmp (UCmp.get f lit))
  | 0x149 => some (.smov (UMov.get f lit))
  | 0x14A => some (.smovi (UMovi.get f lit))
  | 0x14B => some (.rdlane (UBin.get f lit))
  | 0x180 => some (.bra (Bra.get f lit))
  | 0x181 => some (.brc (Bra.get f lit))
  | 0x182 => some (.brx (Brx.get f lit))
  | 0x183 => some (.call (Call.get f lit))
  | 0x184 => some (.ret (Ret.get f lit))
  | 0x185 => some (.exit (INone.get f lit))
  | 0x186 => some (.yield (INone.get f lit))
  | 0x187 => some (.pause (Pause.get f lit))
  | 0x190 => some (.trap (Trap.get f lit))
  | 0x191 => some (.rte (Rte.get f lit))
  | 0x192 => some (.rdsr (Rdsr.get f lit))
  | 0x193 => some (.wrsr (Wrsr.get f lit))
  | 0x194 => some (.bkpt (INone.get f lit))
  | 0x1C0 => some (.aset (ASet.get f lit))
  | 0x1C1 => some (.adv (UBin.get f lit))
  | 0x1C2 => some (.ard (ARd.get f lit))
  | 0x1C3 => some (.anarrow (ANarrow.get f lit))
  | 0x1D0 => some (.ld (Mem.get f lit))
  | 0x1D1 => some (.st (Mem.get f lit))
  | 0x1D2 => some (.ldu (Mem.get f lit))
  | 0x1D3 => some (.pref (Pref.get f lit))
  | 0x1D4 => some (.ldAcq (OMem.get f lit))
  | 0x1D5 => some (.stRel (OMem.get f lit))
  | 0x200 => some (.mbcast (MBcast.get f lit))
  | 0x201 => some (.mred (Red.get f lit))
  | 0x202 => some (.mvote (Vote.get f lit))
  | 0x203 => some (.ldw (Mem.get f lit))
  | 0x204 => some (.movw (UMovi.movwGet f lit))
  | 0x210 => some (.regrp (Regrp.get f lit))
  | 0x211 => some (.regret (Regret.get f lit))
  | 0x240 => some (.ldl (Mem.get f lit))
  | 0x241 => some (.stl (Mem.get f lit))
  | 0x242 => some (.atoml (AtomL.get f lit))
  | 0x250 => some (.cpy (Cpy.get f lit))
  | 0x251 => some (.cpyh (CpyH.get f lit))
  | 0x252 => some (.cpyout (CpyOut.get f lit))
  | 0x253 => some (.cpywp (CpyWp.get f lit))
  | 0x254 => some (.cpywait (CpyWait.get f lit))
  | 0x280 => some (.barArr (BarD.get f lit))
  | 0x281 => some (.barWait (BarWait.get f lit))
  | 0x282 => some (.barSync (BarSync.get f lit))
  | 0x283 => some (.barDefer (BarDefer.get f lit))
  | 0x284 => some (.barLast (BarD.get f lit))
  | 0x290 => some (.launch (LaunchI.get f lit))
  | 0x291 => some (.tdone (INone.get f lit))
  | 0x2C0 => some (.atom (Atom.get f lit))
  | 0x2C1 => some (.red (Atom.get f lit))
  | 0x2C2 => some (.atomr (UBin.get f lit))
  | 0x2D0 => some (.fence (Fence.get f lit))
  | 0x2D1 => some (.ldra (OMem.get f lit))
  | 0x2D2 => some (.qfence (QFence.get f lit))
  | 0x2D3 => some (.waitc (Waitc.get f lit))
  | 0x2E0 => some (.rget (Rmt.get f lit))
  | 0x2E1 => some (.rput (Rmt.get f lit))
  | 0x2E2 => some (.ratom (RAtom.get f lit))
  | 0x300 => some (.laclr (LaX.get f lit))
  | 0x301 => some (.laadd (LaAdd.get f lit))
  | 0x302 => some (.lamad (LaMad.get f lit))
  | 0x303 => some (.lamrg (LaMrg.get f lit))
  | 0x304 => some (.larnd (LaRnd.get f lit))
  | 0x305 => some (.lald (LaMem.get f lit))
  | 0x306 => some (.lasv (LaMem.get f lit))
  | 0x307 => some (.lafl (LaFl.get f lit))
  | 0x310 => some (.redla (Redla.get f lit))
  | 0x340 => some (.collSum (UMov.get f lit))
  | 0x341 => some (.collMin (UMov.get f lit))
  | 0x342 => some (.collMax (UMov.get f lit))
  | 0x343 => some (.collHist (UMov.get f lit))
  | 0x344 => some (.collRank (UMov.get f lit))
  | 0x345 => some (.collSelect (UMov.get f lit))
  | 0x346 => some (.collStat (UMov.get f lit))
  | 0x347 => some (.collBcast (UMov.get f lit))
  | 0x380 => some (.mma (Mma.get f lit))
  | 0x381 => some (.mmad (Mma.get f lit))
  | 0x382 => some (.mdrain (MDrain.get f lit))
  | 0x383 => some (.mzero (MZero.get f lit))
  | 0x384 => some (.mkld (MTile.get f lit))
  | 0x385 => some (.mkst (MTile.get f lit))
  | 0x386 => some (.dpld (Dpld.get f lit))
  | 0x387 => some (.dpinv (Dpinv.get f lit))
  | 0x388 => some (.mstat (MStat.get f lit))
  | _ => none

/-- The literal slot of an instruction that has one (R28). -/
def Instr.literal? : Instr → Option (BitVec 64)
  | .iadd x => x.b.lit?
  | .isub x => x.b.lit?
  | .imul x => x.b.lit?
  | .imulh x => x.b.lit?
  | .imad x => x.b.lit?
  | .imin x => x.b.lit?
  | .imax x => x.b.lit?
  | .and x => x.b.lit?
  | .or x => x.b.lit?
  | .xor x => x.b.lit?
  | .shl x => x.b.lit?
  | .shr x => x.b.lit?
  | .sar x => x.b.lit?
  | .rot x => x.b.lit?
  | .bfx x => x.b.lit?
  | .bfi x => x.b.lit?
  | .icmp x => x.b.lit?
  | .sel x => x.b.lit?
  | .movi x => x.b.lit?
  | .fadd x => x.b.lit?
  | .fsub x => x.b.lit?
  | .fmul x => x.b.lit?
  | .ffma x => x.b.lit?
  | .fmin x => x.b.lit?
  | .fmax x => x.b.lit?
  | .fcmp x => x.b.lit?
  | .shfl x => x.b.lit?
  | .sadd x => x.b.lit?
  | .ssub x => x.b.lit?
  | .smul x => x.b.lit?
  | .sand x => x.b.lit?
  | .sor x => x.b.lit?
  | .sxor x => x.b.lit?
  | .sshl x => x.b.lit?
  | .sshr x => x.b.lit?
  | .scmp x => x.b.lit?
  | .smovi x => x.b.lit?
  | .rdlane x => x.b.lit?
  | .adv x => x.b.lit?
  | .mbcast x => x.b.lit?
  | .movw x => x.b.lit?
  | .atoml x => x.b.lit?
  | .cpywait x => x.b.lit?
  | .barArr x => x.b.lit?
  | .barSync x => x.b.lit?
  | .barDefer x => x.b.lit?
  | .barLast x => x.b.lit?
  | .launch x => x.q.lit?
  | .atomr x => x.b.lit?
  | .waitc x => x.b.lit?
  | _ => none

/-! ## Decoding a core instruction -/

/-- What decoding one slot knows beside its word: the clause header's set-flags (15 means none) and
whether the slot is slot 1 (R15, R25, R138). -/
structure DecodeEnv where
  setA : BitVec 4
  setB : BitVec 4
  slot1 : Bool
  deriving DecidableEq, Repr

/-- The two decoding faults of R33, with what TADDR receives (R122). -/
inductive DecodeFault
  | illegalInstruction
  | illegalOperand (taddr : BitVec 64)
  deriving DecidableEq, Repr

/-- FSEL names a set-flag of the header that is not 15 (R25). -/
def DecodeEnv.flagOk (e : DecodeEnv) (k : Fsel) : Bool :=
  match k with
  | .setA => e.setA != 15#4
  | .setB => e.setB != 15#4
  | _ => true

/-- REGRP and REGRET stand in slot 1 (R138). -/
def DecodeEnv.slotOk (e : DecodeEnv) : Instr → Bool
  | .regrp _ => e.slot1
  | .regret _ => e.slot1
  | _ => true

/-- Steps 2 and 3 of R33 for an instruction read from a word. -/
def DecodeEnv.check (e : DecodeEnv) (w : BitVec 64) (i : Instr) : Except DecodeFault Instr :=
  match i.view with
  | none => .error .illegalInstruction
  | some k =>
    if i.fields.map Fields.word ≠ some w then .error .illegalInstruction
    else if !(k.legalEnc && e.flagOk k.c.fsel && e.slotOk i) then .error .illegalInstruction
    else if !k.srOk then
      .error (.illegalOperand (match k.sr with | some n => n.signExtend 64 | none => 0#64))
    else match k.badOperand with
      | some o => .error (.illegalOperand (o.code.setWidth 64))
      | none => .ok i

/-- Decodes one slot: its word, and the word of the slot after it in case it is a literal (R28, R33).
An opcode outside the map is the row UNASSIGNED_OPCODE, whose meaning takes ILLEGAL_INSTRUCTION. -/
def decode (e : DecodeEnv) (w lit : BitVec 64) : Except DecodeFault Instr :=
  match (Fields.ofWord w).instr lit with
  | none => .ok (.unassignedOpcode ⟨w⟩)
  | some i => e.check w i

/-- The slots an instruction of the core takes: its word, and its literal (R28). -/
def encode (i : Instr) : List (BitVec 64) :=
  match i.fields with
  | none => []
  | some f => f.word :: i.literal?.toList

/-! ## Drain micro-instructions (R320, R321) -/

/-- The fields of a micro-word (R320); `m` holds bits 31:18. -/
structure MFields where
  op : BitVec 6
  d : BitVec 3 := 0#3
  a : BitVec 3 := 0#3
  b : BitVec 3 := 0#3
  c : BitVec 3 := 0#3
  m : BitVec 14 := 0#14
  deriving DecidableEq, Repr

def MFields.word (f : MFields) : BitVec 32 := f.m ++ f.c ++ f.b ++ f.a ++ f.d ++ f.op
def MFields.ofWord (w : BitVec 32) : MFields :=
  { op := w.extractLsb' 0 6, d := w.extractLsb' 6 3, a := w.extractLsb' 9 3, b := w.extractLsb' 12 3
    c := w.extractLsb' 15 3, m := w.extractLsb' 18 14 }

/-- The fields of a micro-instruction (R321). -/
def Instr.mfields : Instr → Option MFields
  | .dnop => some { op := 0x01#6 }
  | .dend => some { op := 0x02#6 }
  | .dmov x => some { op := 0x03#6, d := x.d, a := x.a }
  | .dmovI x => some { op := 0x03#6, d := x.d, m := 1#1 ++ x.imm }
  | .drow x => some { op := 0x04#6, d := x.d, m := 0#13 ++ BitVec.ofBool x.g }
  | .dcol x => some { op := 0x05#6, d := x.d, m := 0#13 ++ BitVec.ofBool x.g }
  | .dlds x => some { op := 0x06#6, d := x.d, m := 0#9 ++ x.k ++ BitVec.ofBool x.col ++ 0#2 }
  | .dadd x => some { op := 0x08#6, d := x.d, a := x.a, b := x.b, m := 0#12 ++ x.ty.code }
  | .dmul x => some { op := 0x09#6, d := x.d, a := x.a, b := x.b, m := 0#12 ++ x.ty.code }
  | .dfma x => some { op := 0x0A#6, d := x.d, a := x.a, b := x.b, c := x.x, m := 0#12 ++ x.ty.code }
  | .dmin x => some { op := 0x0B#6, d := x.d, a := x.a, b := x.b, m := 0#12 ++ x.ty.code }
  | .dmax x => some { op := 0x0C#6, d := x.d, a := x.a, b := x.b, m := 0#12 ++ x.ty.code }
  | .dclamp x => some { op := 0x0D#6, d := x.d, a := x.a, b := x.b, c := x.x, m := 0#12 ++ x.ty.code }
  | .dsel x => some { op := 0x0E#6, d := x.d, a := x.a, b := x.b, c := x.x }
  | .dcmp x => some { op := 0x0F#6, d := x.d, a := x.a, b := x.b, m := 0#9 ++ x.cc.code ++ x.ty.code }
  | .dscale x => some { op := 0x10#6, d := x.d, a := x.a, m := 0#9 ++ x.k ++ BitVec.ofBool x.col ++ x.ty.code }
  | .dbias x => some { op := 0x11#6, d := x.d, a := x.a, m := 0#9 ++ x.k ++ BitVec.ofBool x.col ++ x.ty.code }
  | .dcvt x => some { op := 0x12#6, d := x.d, a := x.a, m := 0#7 ++ x.rnd.code ++ x.dt.code ++ x.st.code.setWidth 2 }
  | .dexp2 x => some { op := 0x13#6, d := x.d, a := x.a, m := 0#12 ++ x.ty.code }
  | .drcp x => some { op := 0x14#6, d := x.d, a := x.a, m := 0#12 ++ x.ty.code }
  | .dst x => some { op := 0x18#6, a := x.a, b := x.b, m := 0#11 ++ x.z ++ BitVec.ofBool x.glob }
  | .dstv x => some { op := 0x19#6, a := x.a }
  | .dla x => some { op := 0x1A#6, a := x.a, m := 0#10 ++ x.x ++ x.ty.code }
  | _ => none

/-- The micro-instruction the fields of a word name (R321). -/
def MFields.instr (f : MFields) : Option Instr :=
  let ty : DTy := .ofCode (f.m.setWidth 2)
  let k : BitVec 2 := f.m.extractLsb' 3 2
  let col : Bool := f.m.getLsbD 2
  match f.op.toNat with
  | 0x01 => some .dnop
  | 0x02 => some .dend
  | 0x03 => some (if f.m.getLsbD 13 then .dmovI ⟨f.d, f.m.setWidth 13⟩ else .dmov ⟨f.d, f.a⟩)
  | 0x04 => some (.drow ⟨f.d, f.m.getLsbD 0⟩)
  | 0x05 => some (.dcol ⟨f.d, f.m.getLsbD 0⟩)
  | 0x06 => some (.dlds ⟨f.d, col, k⟩)
  | 0x08 => some (.dadd ⟨ty, f.d, f.a, f.b⟩)
  | 0x09 => some (.dmul ⟨ty, f.d, f.a, f.b⟩)
  | 0x0A => some (.dfma ⟨ty, f.d, f.a, f.b, f.c⟩)
  | 0x0B => some (.dmin ⟨ty, f.d, f.a, f.b⟩)
  | 0x0C => some (.dmax ⟨ty, f.d, f.a, f.b⟩)
  | 0x0D => some (.dclamp ⟨ty, f.d, f.a, f.b, f.c⟩)
  | 0x0E => some (.dsel ⟨f.d, f.a, f.b, f.c⟩)
  | 0x0F => some (.dcmp ⟨ty, .ofCode (f.m.extractLsb' 2 3), f.d, f.a, f.b⟩)
  | 0x10 => some (.dscale ⟨ty, f.d, f.a, col, k⟩)
  | 0x11 => some (.dbias ⟨ty, f.d, f.a, col, k⟩)
  | 0x12 => some (.dcvt ⟨.ofCode ((f.m.setWidth 2).setWidth 3), .ofCode (f.m.extractLsb' 2 3), .ofCode (f.m.extractLsb' 5 2), f.d, f.a⟩)
  | 0x13 => some (.dexp2 ⟨ty, f.d, f.a⟩)
  | 0x14 => some (.drcp ⟨ty, f.d, f.a⟩)
  | 0x18 => some (.dst ⟨f.m.getLsbD 0, f.m.extractLsb' 1 2, f.a, f.b⟩)
  | 0x19 => some (.dstv ⟨f.a⟩)
  | 0x1A => some (.dla ⟨ty, f.m.extractLsb' 2 2, f.a⟩)
  | _ => none

/-- Decodes one micro-word; none where R325 rejects it by itself. -/
def decodeMicro (w : BitVec 32) : Option Instr :=
  match (MFields.ofWord w).instr with
  | none => none
  | some i => if i.mfields.map MFields.word = some w && i.microLegal then some i else none

/-- The word of a micro-instruction (R321). -/
def encodeMicro (i : Instr) : Option (BitVec 32) := i.mfields.map MFields.word

/-! ## The host's question: a table row's word -/

/-- The set-flags f0 and f1 and slot 1: a clause in which a row of the opcode table can stand. -/
def DecodeEnv.table : DecodeEnv := ⟨0#4, 1#4, true⟩

/-- The instruction the decoder reads from an opcode-table word: 32 bits are a drain micro-word,
else a slot with a literal of zero after it. -/
def decodeTableWord (nbits w : Nat) : Option Instr :=
  if nbits ≤ 32 then decodeMicro (BitVec.ofNat 32 w)
  else match decode .table (BitVec.ofNat 64 w) 0#64 with
    | .ok i => some i
    | .error _ => none

end Sys2Proof
end

