-- ==== Sys2Proof/Machine/Ops.lean ====
section
/-! DEFINITION. Named operations over the state: lookups and updates by key, threads and masks, v and
w registers with their physical entries (spec/05_registers_private_memory_traps.md R111 to R119),
barriers and exits, taking a trap (R128) and returning from one (R129). -/

namespace Sys2Proof.Machine

/-! ## Lists as tables -/

/-- The value listed for a key, or a default. -/
def lookupD {α β : Type} [DecidableEq α] (l : List (α × β)) (k : α) (d : β) : β :=
  match l.find? (fun e => e.1 = k) with
  | some e => e.2
  | none => d

/-- The table with one key's value replaced or added. -/
def insertKey {α β : Type} [DecidableEq α] (l : List (α × β)) (k : α) (v : β) : List (α × β) :=
  (k, v) :: l.filter (fun e => e.1 ≠ k)

/-- A list with no repeats, one element added. -/
def addOnce {α : Type} [DecidableEq α] (l : List α) (x : α) : List α := if x ∈ l then l else l ++ [x]

/-- Insertion into a list sorted by a key. -/
def insertBy {α : Type} (key : α → Nat) (x : α) : List α → List α
  | [] => [x]
  | y :: ys => if key x < key y then x :: y :: ys else y :: insertBy key x ys

/-- Sorting by a key, equal keys in the order given. -/
def sortBy {α : Type} (key : α → Nat) (l : List α) : List α := l.foldl (fun acc x => insertBy key x acc) []

/-- Little-endian bytes of a number (R8). -/
def leBytes : Nat → Nat → List Byte
  | 0, _ => []
  | n + 1, x => BitVec.ofNat 8 x :: leBytes n (x / 256)

/-- The number little-endian bytes hold (R8). -/
def leNat : List Byte → Nat
  | [] => 0
  | b :: bs => b.toNat + 256 * leNat bs

/-! ## Lookups and updates by key -/

def State.group? (s : State) (k : GroupKey) : Option Group := s.groups.find? (fun g => g.key = k)
def State.putGroup (s : State) (g : Group) : State :=
  { s with groups := s.groups.map (fun h => if h.key = g.key then g else h) }
def State.dropGroup (s : State) (k : GroupKey) : State :=
  { s with groups := s.groups.filter (fun h => h.key ≠ k) }
def State.team? (s : State) (k : TeamKey) : Option Team := s.teams.find? (fun t => t.key = k)
def State.putTeam (s : State) (t : Team) : State :=
  { s with teams := s.teams.map (fun h => if h.key = t.key then t else h) }
def State.launch? (s : State) (h : Nat) : Option Launch := s.launches.find? (fun l => l.handle = h)
def State.putLaunch (s : State) (l : Launch) : State :=
  { s with launches := s.launches.map (fun h => if h.handle = l.handle then l else h) }
def State.ctx? (s : State) (c : Nat) : Option Context := s.ctxs.find? (fun x => x.id = c)
def State.putCtx (s : State) (c : Context) : State :=
  { s with ctxs := s.ctxs.map (fun h => if h.id = c.id then c else h) }
def Group.split? (g : Group) (sid : Nat) : Option Split := g.splits.find? (fun p => p.sid = sid)
def Group.putSplit (g : Group) (p : Split) : Group :=
  { g with splits := g.splits.map (fun q => if q.sid = p.sid then p else q) }
def State.modGroup (s : State) (k : GroupKey) (f : Group → Group) : State :=
  { s with groups := s.groups.map (fun h => if h.key = k then f h else h) }
def State.modTeam (s : State) (k : TeamKey) (f : Team → Team) : State :=
  { s with teams := s.teams.map (fun h => if h.key = k then f h else h) }
def State.modCtx (s : State) (c : Nat) (f : Context → Context) : State :=
  { s with ctxs := s.ctxs.map (fun h => if h.id = c then f h else h) }
def State.modLaunch (s : State) (h : Nat) (f : Launch → Launch) : State :=
  { s with launches := s.launches.map (fun l => if l.handle = h then f l else l) }
def State.setMem (s : State) (m : Mem) : State := { s with mem := m }
def State.setOps (s : State) (o : Ops) : State := { s with ops := o }
def State.setMtx (s : State) (m : Matrix) : State := { s with mtx := m }
def State.setIsl (s : State) (i : Island) : State := { s with isl := i }
def State.setPkg (s : State) (p : Package) : State := { s with pkg := p }
/-- The hottest junction's temperature at a cycle, and since when it has stayed below 95 degrees (R386, R399). -/
def Package.heat (p : Package) (t : BitVec 8) (now : Nat) : Package :=
  { p with tmax := t, cool := if t.toNat < 95 then p.cool.orElse (fun _ => some now) else none }
def State.setSched (s : State) (c : Sched) : State := { s with sched := c }

/-- The next operation number, and the state after it is taken. DESIGN CHOICE: log entry 10. -/
def State.freshId (s : State) : Nat × State := (s.sched.nextId, { s with sched := { s.sched with nextId := s.sched.nextId + 1 } })
/-- The counter of free values, and the state after it is advanced. DESIGN CHOICE: log entry 3. -/
def State.freshFree (s : State) : Nat × State := (s.sched.free, { s with sched := { s.sched with free := s.sched.free + 1 } })

/-- The C-die, cluster and cluster core number of a core: 12 clusters of 4 cores on each C-die (R3, R4). -/
def coreDie (core : Nat) : Nat := core / 48
def coreCluster (core : Nat) : Nat := core / 4
/-- The base die of a core (R4). -/
def coreBase (core : Nat) : Nat := if coreDie core < 4 then 8 else 9

/-! ## Threads and masks -/

/-- The footprint F (R86). -/
def Group.f (g : Group) : Nat := g.w * g.m
def Group.thread (g : Group) (t : Nat) : Option Thread := g.threads[t]?
def Group.laneOf (g : Group) (t : Nat) : Nat := t % g.w
def Group.memberOf (g : Group) (t : Nat) : Nat := t / g.w

/-- The mask whose bits satisfy a test on thread numbers below n. -/
def maskOf : Nat → (Nat → Bool) → Mask
  | 0, _ => 0
  | n + 1, p => maskOf n p ||| (if p n then BitVec.twoPow 512 n else 0)

/-- The threads of a mask below n, ascending. -/
def maskThreads (n : Nat) (m : Mask) : List Nat := (List.range n).filter (fun t => m.getLsbD t)

/-- A predicate register of a thread; p7 reads true (R22, R30). -/
def Thread.pred (th : Thread) (p : BitVec 3) : Bool := p == 7#3 || th.p.getLsbD p.toNat

/-- A predicate write; a write to p7 is discarded (R30). -/
def Thread.setPred (th : Thread) (p : BitVec 3) (b : Bool) : Thread :=
  if p = 7#3 then th
  else { th with p := (th.p &&& ~~~(BitVec.twoPow 7 p.toNat)) ||| (if b then BitVec.twoPow 7 p.toNat else 0) }

/-- Threads of a group that have exited, and that are neither exited nor parked. -/
def Group.exitedMask (g : Group) : Mask := maskOf g.f (fun t => (g.threads[t]?.map Thread.exited).getD true)
def Group.liveMask (g : Group) : Mask :=
  maskOf g.f (fun t => (g.threads[t]?.map (fun th => !th.exited && !th.parked)).getD false)

/-- The threads that execute an instruction of a split (R11, R22). -/
def Group.activeMask (g : Group) (p : Split) (c : Ctl) : Mask :=
  maskOf g.f (fun t => p.mask.getLsbD t &&
    (match g.threads[t]? with
     | some th => !th.exited && (th.pred c.pred != c.pneg)
     | none => false))

/-- The lowest-numbered thread of a mask. -/
def lowestThread (n : Nat) (m : Mask) : Option Nat := (List.range n).find? (fun t => m.getLsbD t)

/-- Every thread changed by a function of its number. -/
def Group.mapThreads (g : Group) (f : Nat → Thread → Thread) : Group :=
  { g with threads := g.threads.mapIdx f }

/-- Sticky IEEE flags ORed into a thread's FFLAGS (R53). -/
def Thread.raise (th : Thread) (fl : BitVec 5) : Thread := { th with fflags := th.fflags ||| fl }

/-! ## v registers (R111 to R114) -/

/-- The mapped entry of a name for an octet. -/
def Group.vEnt? (g : Group) (name octet : Nat) : Option VEnt :=
  g.v.find? (fun e => e.name = name && e.octet = octet && e.pend.isEmpty)

/-- A thread's word of a v register; an unmapped name reads 0 (R111). -/
def Group.vWord (g : Group) (name t : Nat) : Word32 :=
  match g.vEnt? name (t / 8) with
  | some e => e.vals.getD (t % 8) 0
  | none => 0

/-- A thread's 32-bit or 64-bit value of a v register or pair (R47). -/
def Group.vVal (g : Group) (name regs t : Nat) : Word64 :=
  if regs = 1 then (g.vWord name t).setWidth 64 else g.vWord (name + 1) t ++ g.vWord name t

/-- Octets of a mask with an active thread. -/
def Group.octets (g : Group) (m : Mask) : List Nat :=
  (List.range ((g.f + 7) / 8)).filter (fun o => (List.range 8).any (fun i => m.getLsbD (8 * o + i)))

/-- Entries of a source a group holds (R112); pending entries count. -/
def Group.held (g : Group) (src : EntSrc) : Nat := (g.v.filter (fun e => e.src = src)).length

/-- What a group takes of the pool's 16,384 entries: its pool entries, w registers included, its floor and its reserve
(R112, R115). -/
def Group.need (g : Group) : Nat := g.held .pool + g.wr.length * (g.w / 8) + g.floor * (g.f / 8) + 4 * (g.f / 8)

/-- Accumulator units of a resident group (R261). -/
def Group.units (g : Group) : Nat :=
  g.f * (((g.threads.head?).map (fun th => (th.acc.map (fun a => if a.wide then 9 else 2)).sum)).getD 0)

/-- Entries that a core's resident groups have taken. -/
def State.poolUsed (s : State) (core : Nat) : Nat := ((s.groups.filter (fun g => g.core = core)).map Group.need).sum

/-- A core holds what is resident on it: group contexts, threads, entries and accumulator units (R5, R87, R112, R261). -/
def State.coreHolds (s : State) (core : Nat) : Bool :=
  let here := s.groups.filter (fun g => g.core = core)
  decide (here.length ≤ 32) && decide ((here.map Group.f).sum ≤ 16384) && decide (s.poolUsed core ≤ 16384)
    && decide ((here.map Group.units).sum ≤ 5184)

/-- Free entries of a core's shared pool (R112), with one group's own record taken as given. -/
def State.poolFree (s : State) (g : Group) : Nat := 16384 - (s.putGroup g).poolUsed g.core

/-- A group evicted under R116 that now fits returns before any other allocation from the pool succeeds; the allocations that
waited when it was evicted go before it. DEDUCED: log entry 26. -/
def State.poolOwed (s : State) (g : Group) : Bool :=
  s.saved.any (fun x => x.regpool && x.g.core = g.core && decide (x.g.need ≤ s.poolFree g) && !x.first.contains (g.key, g.lastIssue))

/-- Where the next entry of a group comes from, or none when the source is empty (R112, R116): the reserve
while a handler runs, then the floor while fewer than the floor are held, else the pool. -/
def State.allocSrc (s : State) (g : Group) : Option EntSrc :=
  if g.priv && g.held .reserve < 4 * (g.f / 8) then some .reserve
  else if g.v.length < g.floor * (g.f / 8) && g.held .floor < g.floor * (g.f / 8) then some .floor
  else if s.poolOwed g then none
  else if 0 < s.poolFree g then some .pool
  else none

/-- Maps a name for an octet where it is unmapped, from the source R112 gives; none when that source is
empty (R111, R116). DEDUCED: log entry 14. -/
def State.mapV (s : State) (g : Group) (name octet : Nat) : Option Group :=
  match g.vEnt? name octet with
  | some _ => some g
  | none =>
    match s.allocSrc g with
    | none => none
    | some src =>
      some { g with seq := g.seq + 1
                    v := ⟨name, octet, List.replicate 8 0, src, g.seq, [], none⟩ :: g.v }

/-- Maps several names for several octets. -/
def State.mapVs (s : State) (g : Group) (names octs : List Nat) : Option Group :=
  (names.flatMap (fun n => octs.map (fun o => (n, o)))).foldlM (fun g (p : Nat × Nat) => s.mapV g p.1 p.2) g

/-- One thread's word of a mapped name. -/
def Group.setVWord (g : Group) (name t : Nat) (x : Word32) : Group :=
  { g with v := g.v.map (fun e =>
      if e.name = name && e.octet = t / 8 && e.pend.isEmpty then { e with vals := e.vals.set (t % 8) x } else e) }

/-- A 32-bit or 64-bit value into a mapped register or pair (R47). -/
def Group.setVVal (g : Group) (name regs t : Nat) (x : Word64) : Group :=
  if regs = 1 then g.setVWord name t (x.setWidth 32)
  else (g.setVWord name t (x.setWidth 32)).setVWord (name + 1) t ((x >>> 32).setWidth 32)

/-- Every non-exited thread of an octet belongs to the split, so that a last-read bit takes effect (R96). -/
def Group.ownsOctet (g : Group) (p : Split) (o : Nat) : Bool :=
  (List.range 8).all (fun i =>
    match g.threads[8 * o + i]? with
    | some th => th.exited || p.mask.getLsbD (8 * o + i)
    | none => true)

/-- A last read of a name by a split for one octet (R96, R113): its entry is freed, or becomes pending
when it was allocated before the split's region entry. An entry of an exited octet that awaits a result stays until it comes
(R114). DEDUCED: log entry 14. -/
def Group.lastRead (g : Group) (p : Split) (name o : Nat) : Group :=
  if g.ownsOctet p o then
    match g.vEnt? name o with
    | none => g
    | some e =>
      if e.busy.isSome then g
      else if p.region.isSome && p.regionAt ≤ e.seq then
        { g with v := g.v.filter (fun x => !(x.name = name && x.octet = o && x.pend.isEmpty)) }
      else
        { g with v := g.v.map (fun x =>
            if x.name = name && x.octet = o && x.pend.isEmpty then { x with pend := [p.sid] } else x) }
  else g

/-- Last reads of a range of names for every octet of the group. -/
def Group.lastReads (g : Group) (p : Split) (names : List Nat) : Group :=
  (names.flatMap (fun n => (List.range (g.f / 8)).map (fun o => (n, o)))).foldl
    (fun g (q : Nat × Nat) => g.lastRead p q.1 q.2) g

/-- Pending entries that a split no longer holds; one that no split holds is freed (R113, R124). -/
def letGo (gone : Nat → Bool) (v : List VEnt) : List VEnt :=
  v.filterMap (fun e =>
    let left := e.pend.filter (fun x => !gone x)
    if left.isEmpty && !e.pend.isEmpty then none else some { e with pend := left })

/-- The pending entries of a split are freed when it starts a region entry (R113). -/
def Group.freePending (g : Group) (sid : Nat) : Group :=
  { g with v := letGo (fun x => x == sid) g.v }

/-- The pending entries of a split are restored, and what their names were given since is freed
(R128, step 2). -/
def Group.restorePending (g : Group) (sid : Nat) : Group :=
  let back := g.v.filter (fun e => e.pend.contains sid)
  let rest := g.v.filter (fun e => !e.pend.contains sid &&
    !(e.pend.isEmpty && back.any (fun b => b.name = e.name && b.octet = e.octet)))
  { g with v := back.map (fun e => { e with pend := [] }) ++ rest }

/-- Entries of fully exited octets return to where they came from; one that awaits a result stays until
it arrives (R114). When every thread has exited the w entries return too (R115). -/
def Group.returnEntries (g : Group) : Group :=
  let goneOct (o : Nat) : Bool :=
    (List.range 8).all (fun i => (g.threads[8 * o + i]?.map Thread.exited).getD true)
  let allGone := g.threads.all Thread.exited
  { g with v := g.v.filter (fun e => !(goneOct e.octet && e.busy.isNone))
           wr := if allGone then g.wr.filter (fun e => e.busy.isSome) else g.wr }

/-! ## w registers (R115, R135) -/

def Group.wEnt? (g : Group) (name : Nat) : Option WEnt := g.wr.find? (fun e => e.name = name)
def Group.wWord (g : Group) (name lane : Nat) : Word32 :=
  match g.wEnt? name with
  | some e => e.lanes.getD lane 0
  | none => 0
def Group.wVal (g : Group) (name regs lane : Nat) : Word64 :=
  if regs = 1 then (g.wWord name lane).setWidth 64 else g.wWord (name + 1) lane ++ g.wWord name lane

/-- Maps a w name, taking W/8 entries from the pool; none when it cannot supply them (R115). A write makes an
invalidated register valid (R101). -/
def State.mapW (s : State) (g : Group) (name : Nat) : Option Group :=
  let g' : Group := { g with stale := g.stale &&& ~~~(BitVec.twoPow 32 name) }
  match g.wEnt? name with
  | some _ => some g'
  | none =>
    if g.w / 8 ≤ s.poolFree g && !s.poolOwed g then some { g' with wr := ⟨name, List.replicate g.w 0, none⟩ :: g.wr }
    else none
def State.mapWs (s : State) (g : Group) (names : List Nat) : Option Group := names.foldlM (fun g n => s.mapW g n) g
def Group.setWWord (g : Group) (name lane : Nat) (x : Word32) : Group :=
  { g with wr := g.wr.map (fun e => if e.name = name then { e with lanes := e.lanes.set lane x } else e) }
def Group.setWVal (g : Group) (name regs lane : Nat) (x : Word64) : Group :=
  if regs = 1 then g.setWWord name lane (x.setWidth 32)
  else (g.setWWord name lane (x.setWidth 32)).setWWord (name + 1) lane ((x >>> 32).setWidth 32)

/-! ## Completion flags (R18) -/

def Group.flag (g : Group) (n : Nat) : Nat := g.flags.getD n 0
def Group.incFlag (g : Group) (n : Nat) : Group := { g with flags := g.flags.set n (g.flag n + 1) }
def Group.decFlag (g : Group) (n : Nat) : Group := { g with flags := g.flags.set n (g.flag n - 1) }
def Group.flagsClear (g : Group) : Bool := g.flags.all (fun n => n == 0)
def Group.decFlag? (g : Group) (f : Option Nat) : Group :=
  match f with
  | some n => g.decFlag n
  | none => g
/-- A completion flag of a group counts down; a check pair's copies count alike (R107). -/
def State.flagDown (s : State) (k : GroupKey) (f : Option Nat) : State :=
  (s.modGroup { k with shadow := false } (fun g => g.decFlag? f)).modGroup { k with shadow := true } (fun g => g.decFlag? f)

/-- All pending IEEE flags of a completion flag are taken into FFLAGS by the threads of a mask (R54). -/
def Thread.takePending (th : Thread) (n : Nat) : Thread :=
  { th with fflags := th.fflags ||| (th.pend >>> (5 * n)).setWidth 5
            pend := th.pend &&& ~~~(((31#60) <<< (5 * n))) }
def Group.takePending (g : Group) (m : Mask) (ns : List Nat) : Group :=
  g.mapThreads (fun t th => if m.getLsbD t then ns.foldl Thread.takePending th else th)
/-- Pending flags added for a completion flag (R54). -/
def Thread.addPending (th : Thread) (n : Nat) (fl : BitVec 5) : Thread :=
  { th with pend := th.pend ||| ((fl.setWidth 60) <<< (5 * n)) }

/-! ## Teams: groups, threads, barriers -/

/-- The resident and the saved groups of a team, primary copies. -/
def State.teamGroups (s : State) (k : TeamKey) : List Group :=
  (s.groups.filter (fun g => g.key.team = k && !g.key.shadow))
    ++ ((s.saved.map Saved.g).filter (fun g => g.key.team = k && !g.key.shadow))

/-- Non-exited, non-parked threads of a team: the default count of a barrier (R156). -/
def State.teamLive (s : State) (k : TeamKey) : Nat :=
  ((s.teamGroups k).map (fun g => (g.threads.filter (fun th => !th.exited && !th.parked)).length)).sum
    + ((s.team? k).map Team.lostLive).getD 0

def Barrier.zero : Barrier := ⟨0, .unset, 0, [], []⟩
def Team.bar (t : Team) (n : Nat) : Barrier := t.bars.getD n .zero
def Team.putBar (t : Team) (n : Nat) (b : Barrier) : Team := { t with bars := t.bars.set n b }

/-- The count a generation waits for: none while it is not set (R156, step 1). -/
def Barrier.need (b : Barrier) (live : Nat) : Option Nat :=
  match b.exp with
  | .unset => none
  | .default => some live
  | .count n => some n

/-- The BAR.LAST arrival elected in a generation (R159): the last counted, or in deterministic mode the
one whose split holds the highest thread of the highest group. -/
def electLast (det : Bool) (l : List LastArr) : Option LastArr :=
  if det then l.foldl (fun (acc : Option LastArr) x =>
      match acc with
      | none => some x
      | some y => if y.group < x.group || (y.group == x.group && y.hi < x.hi) then some x else some y) none
  else l.getLast?

/-- Completes a generation when its arrivals reach its count and no deferred arrival is pending in it
(R156, step 4; R162). -/
def Team.tryComplete (t : Team) (live : Nat) (det : Bool) (n : Nat) : Team :=
  let b := t.bar n
  match b.need live with
  | none => t
  | some e =>
    if e ≤ b.arr && !(t.defers.any (fun d => d.bar = n && d.gen = b.gen + 1)) then
      let here := b.lasts.filter (fun l => l.gen = b.gen + 1)
      t.putBar n ⟨b.gen + 1, .unset, b.arr - e, b.lasts.filter (fun l => l.gen ≠ b.gen + 1),
        b.elected ++ (electLast det here).toList⟩
    else t

/-- Counts arrivals toward the current generation, the first of them setting its expected count (R156). -/
def Team.arrive (t : Team) (n : Nat) (count : Nat) (explicit : Nat) : Team :=
  let b := t.bar n
  t.putBar n { b with arr := b.arr + count
                      exp := if b.exp = .unset then (if explicit = 0 then .default else .count explicit) else b.exp }

def State.teamDet (s : State) (k : TeamKey) : Bool :=
  match s.launch? k.launch with
  | some l => l.lrec.det
  | none => false

/-- The barriers of a team that a changed thread set or a withdrawn arrival may complete (R156, R162). -/
def State.settleBarriers (s : State) (k : TeamKey) : State :=
  let live := s.teamLive k
  let det := s.teamDet k
  s.modTeam k (fun t => (List.range 16).foldl (fun t n => t.tryComplete live det n) t)

/-- Tiles of octets that have exited and on which no request is left are released, with what the save pool holds of them (R341,
R342). -/
def State.releaseExited (s : State) : State :=
  let done (t : Tile) : Bool :=
    (match s.group? t.g with
     | some g => (List.range 8).all (fun r => (g.threads[8 * t.octet + r]?.map Thread.exited).getD true)
     | none => false) && !s.mtx.ops.any (fun o => o.g = t.g && o.tile = t.k && o.reqs.any (fun r => !r.drained && r.octet = t.octet))
  let s1 := (s.mtx.tiles.filter done).foldl (fun (s : State) t =>
    match t.spilled, s.group? t.g with
    | some a, some g => s.modCtx g.ctx (fun c => { c with saves := c.saves.filter (fun e => e.1 ≠ a) })
    | _, _ => s) s
  s1.setMtx { s1.mtx with tiles := s1.mtx.tiles.filter (fun t => !done t) }

/-- Threads of a group exit (R70): their accumulators and registers stay with the position, entries of fully
exited octets return (R114), deferred arrivals are withdrawn (R162), default counts fall (R156), and
parked threads of the team exit when no other thread is left (R103). -/
def State.exitThreads (s : State) (k : GroupKey) (m : Mask) : State :=
  let s1 := s.modGroup k (fun g =>
    (g.mapThreads (fun t th => if m.getLsbD t then { th with exited := true, pend := 0 } else th)).returnEntries)
  let s2 := s1.modTeam k.team (fun t =>
    { t with defers := t.defers.filter (fun d => !(d.g = k && m.getLsbD d.thread)) })
  let s3 :=
    if s2.teamLive k.team = 0 then
      let leave (g : Group) : Group :=
        if g.key.team = k.team then
          (g.mapThreads (fun _ th => if th.parked then { th with exited := true } else th)).returnEntries
        else g
      { s2 with
        groups := s2.groups.map leave
        saved := s2.saved.map (fun x => { x with g := leave x.g }) }
    else s2
  (s3.settleBarriers k.team).releaseExited

/-- Splits whose threads have all exited or parked and that defer nothing end (R94, R97), and let their pending entries go. -/
def Group.dropEnded (g : Group) : Group :=
  let live := g.liveMask
  let stays (p : Split) : Bool := (p.mask &&& live) != 0 || !p.defer.isEmpty
  let ended := (g.splits.filter (fun p => !stays p)).map Split.sid
  { g with splits := g.splits.filter stays, v := letGo (fun x => ended.contains x) g.v }

/-! ## Traps (R122 to R132) -/

/-- What a fault reports (R122, R123): cause, TADDR, TMASK, PARTIAL, DETAIL, the address and word of the
instruction. -/
structure TrapInfo where
  code : BitVec 8
  addr : Word64
  mask : Mask
  part : Bool := false
  detail : BitVec 16 := 0
  iaddr : Word64
  inst : Word64
  async : Bool := false
  nores : Bool := false
  /-- going on at the recorded entry repeats the region's instructions; not where a class A trap is taken at a clause
  boundary (R130) -/
  again : Bool := true

/-- The TCAUSE word (R123). -/
def causeWord (code : BitVec 8) (part nores async : Bool) (detail : BitVec 16) : Word64 :=
  0#32 ++ detail ++ 0#5 ++ BitVec.ofBool async ++ BitVec.ofBool nores ++ BitVec.ofBool part ++ code

/-- The record a fault leaves (R128, step 3; R130): TENTRY is the region entry, or 0 with NORES; of a class A trap taken at a clause
boundary it is that clause's address, with NORES too. -/
def TrapRec.write (r : TrapRec) (i : TrapInfo) (entry : Option Word64) : TrapRec :=
  let nores := i.nores || entry.isNone
  { r with cause := causeWord i.code i.part nores i.async i.detail, addr := i.addr, mask := i.mask
           entry := if nores && i.again then 0 else entry.getD 0, iaddr := i.iaddr, inst := i.inst }

/-- A launch records the first fault reported (R200). DEDUCED: log entry 38. -/
def Launch.report (l : Launch) (team : Nat) (code : BitVec 8) : Launch :=
  match l.fault with
  | some _ => l
  | none => { l with fault := some (team, code) }

/-- A group's stopped drain is abandoned, in both copies of a check pair (R348): its request ends with the next turn of the queue.
DEDUCED: log entry 29. -/
def Matrix.abandon (m : Matrix) (k : GroupKey) : Matrix :=
  { m with ops := m.ops.map (fun o => if o.g.team = k.team && o.g.group = k.group && o.stopped then { o with stopped := false, cut := true } else o) }

/-- The WAITC of a split that stops is given up, with its monitor entry (R130, R231). -/
def State.dropMonitor (s : State) (k : GroupKey) (mine : Nat → Bool) : State :=
  let gone (o : MemOp) : Bool := o.g = k && mine o.sid && (match o.kind with
    | .monitor _ _ _ => true
    | _ => false)
  let ids := (s.ops.mem.filter gone).map MemOp.id
  if ids = [] then s
  else
    { s with ops := { s.ops with mem := s.ops.mem.filter (fun o => !gone o) }
             mem := { s.mem with monitors := s.mem.monitors.filter (fun m => !ids.contains m.op) } }

/-- The operations a split has under way that the replay of its region repeats report no fault of their own (R125); the
others report theirs when the handler is over (R400). DEDUCED: log entry 36. -/
def State.quietOps (s : State) (k : GroupKey) (sid : Nat) (entry : Option Word64) : State :=
  let mine (g : GroupKey) (i : Nat) (r : Option Word64) : Bool := entry.isSome && g = k && i = sid && r = entry
  { s with
    ops := { s.ops with mem := s.ops.mem.map (fun o => if mine o.g o.sid o.region then { o with quiet := true } else o) }
    mtx := { s.mtx with ops := s.mtx.ops.map (fun o => if mine o.g o.sid o.region then { o with quiet := true } else o) } }

/-- A group ends under step 4 of R128: every thread exits, and the record is reported with the launch. -/
def State.endGroup (s : State) (k : GroupKey) (code : BitVec 8) : State :=
  match s.group? k with
  | none => s
  | some g =>
    let s1 := s.exitThreads k (g.exitedMask ||| ~~~0#512)
    let s2 := s1.modGroup k (fun g => { g with splits := [], asyncs := [], handler := none })
    let s3 := (s2.modLaunch k.team.launch (fun l => l.report k.team.team code)).dropMonitor k (fun _ => true)
    s3.setMtx (s3.mtx.abandon k)

/-- Takes a synchronous fault or a class A trap in a split (R128, steps 2 to 5): pending entries are
restored, the record is written, and the split continues at TVEC with PRIV set, or the group ends. -/
def State.takeTrap (s : State) (k : GroupKey) (sid : Nat) (i : TrapInfo) (entry : Option Word64) : State :=
  match s.group? k with
  | none => s
  | some g =>
    match g.split? sid with
    | none => s
    | some p =>
      let g1 := g.restorePending sid
      let g2 := { g1 with trap := g1.trap.write i entry }
      if g2.trap.tvec = 0 || g.priv then (s.putGroup g2).endGroup k i.code
      else
        let p' := { p with latch := [], pc := g2.trap.tvec, st := .boundary, slot := 1, defer := [], bound := none, passed := 0 }
        ((s.dropMonitor k (fun x => x == sid)).quietOps k sid (if i.again && !i.nores then entry else none)).putGroup
          ({ g2 with
            priv := true
            handler := some ⟨p.defer, i.code, (g.splits.map Split.sid).filter (fun x => x ≠ sid), s.sched.nextId⟩ }.putSplit p')

/-- The slot address of a split's current instruction (R14). -/
def Split.iaddr (p : Split) : Word64 := p.pc + BitVec.ofNat 64 (8 * p.slot)
/-- The word of a split's current instruction. -/
def Split.word (p : Split) : Word64 := p.code.getD (p.slot - 1) 0

/-- A fault of the instruction a split is issuing. -/
def Split.trapInfo (p : Split) (code : BitVec 8) (addr : Word64) (m : Mask) : TrapInfo :=
  { code := code, addr := addr, mask := m, iaddr := p.iaddr, inst := p.word }

/-- Threads of a split that have not exited. -/
def Group.splitLive (g : Group) (p : Split) : Mask := p.mask &&& ~~~g.exitedMask

/-- A class A trap is raised for a group and held until its boundary (R130); a shadow copy gets the
same (R109). DEDUCED: log entry 16. -/
def State.raiseAsync (s : State) (k : GroupKey) (code : BitVec 8) (addr : Word64) (nores : Bool) : State :=
  s.modGroup k (fun g => { g with asyncs := g.asyncs ++ [⟨code, addr, nores⟩] })

/-! ## Trap causes by name (R122) -/

def cILLEGAL_CLAUSE : BitVec 8 := 0x01
def cILLEGAL_INSTRUCTION : BitVec 8 := 0x02
def cILLEGAL_OPERAND : BitVec 8 := 0x03
def cLATCH_EXPIRED : BitVec 8 := 0x04
def cSOFTWARE_TRAP : BitVec 8 := 0x05
def cBREAKPOINT : BitVec 8 := 0x06
def cSPLIT_DEPTH : BitVec 8 := 0x07
def cSTALE_SHARED : BitVec 8 := 0x08
def cREGROUP_MISMATCH : BitVec 8 := 0x09
def cREG_EXHAUSTED : BitVec 8 := 0x0A
def cADDR_BOUNDS : BitVec 8 := 0x10
def cADDR_PERM : BitVec 8 := 0x11
def cALIGN : BitVec 8 := 0x12
def cPAGE_ABSENT : BitVec 8 := 0x13
def cPAGE_PROT : BitVec 8 := 0x14
def cMEMBER_RANGE : BitVec 8 := 0x15
def cKEY_INVALID : BitVec 8 := 0x16
def cMEM_UNCORRECTABLE : BitVec 8 := 0x17
def cSPAD_BOUNDS : BitVec 8 := 0x18
def cDET_VIOLATION : BitVec 8 := 0x20
def cWATCHDOG : BitVec 8 := 0x21
def cDIE_LOST : BitVec 8 := 0x22
def cPAIR_MISMATCH : BitVec 8 := 0x23
def cPAIR_LOST : BitVec 8 := 0x24
def cDRAIN_FAULT : BitVec 8 := 0x28
def cDRAIN_INVALID : BitVec 8 := 0x29
def cSPARSE_META : BitVec 8 := 0x2A
def cFORMAT_INVALID : BitVec 8 := 0x2B
def cACCUM_UNBOUND : BitVec 8 := 0x2C
def cENDPOINT_DOWN : BitVec 8 := 0x30
def cREMOTE_WINDOW : BitVec 8 := 0x31
def cCOLL_INVALID : BitVec 8 := 0x32
def cLAUNCH_INVALID : BitVec 8 := 0x33

/-! ## Wait-reason codes (R212) -/

def wFLAG : BitVec 8 := 0x01
def wBARRIER : BitVec 8 := 0x02
def wMONITOR : BitVec 8 := 0x03
def wWRITEPTR : BitVec 8 := 0x04
def wREGPOOL : BitVec 8 := 0x05
def wMATRIX : BitVec 8 := 0x06
def wREMOTE : BitVec 8 := 0x07
def wCOLLECTIVE : BitVec 8 := 0x08
def wLAUNCHDEP : BitVec 8 := 0x09
def wPAUSE : BitVec 8 := 0x0A
def wCURB : BitVec 8 := 0x0B

/-- The wait-reason code of a split (R212). -/
def Split.waitCode (p : Split) : BitVec 8 :=
  match p.st with
  | .waiting => wFLAG
  | .blocked (.retry c _) => c
  | .blocked (.barrier _ _ _) => wBARRIER
  | .blocked (.barLast _ _ _ _) => wBARRIER
  | .blocked (.corral _ _ _ _ _) => wBARRIER
  | .blocked (.monitor _) => wMONITOR
  | _ => 0

end Sys2Proof.Machine
end

