-- ==== Sys2Proof/Machine/Mem.lean ====
section
/-! DEFINITION. Memory by physical address: bytes in canonical form, the inline encryption and poison of
R176, the homes of R174, and translation (spec/08_memory_hierarchy.md R179 to R182, R193). -/

namespace Sys2Proof.Machine

/-! ## Bytes in canonical form

A list of (address, byte) pairs, addresses strictly rising, no byte equal to what an unlisted address
reads as, which is 0 (log entry 5). -/

/-- The byte at an address. DESIGN CHOICE: log entry 5. -/
def cellGet : List Host.Cell → Nat → Byte
  | [], _ => 0
  | c :: cs, a => if a < c.1 then 0 else if a = c.1 then c.2 else cellGet cs a

/-- The list with one byte written. -/
def cellSet : List Host.Cell → Nat → Byte → List Host.Cell
  | [], a, b => if b = 0 then [] else [(a, b)]
  | c :: cs, a, b =>
    if a < c.1 then (if b = 0 then c :: cs else (a, b) :: c :: cs)
    else if a = c.1 then (if b = 0 then cs else (a, b) :: cs)
    else c :: cellSet cs a b

/-- The canonical form. -/
def cellsWf : List Host.Cell → Bool
  | [] => true
  | [c] => c.2 != 0
  | c :: d :: cs => c.2 != 0 && decide (c.1 < d.1) && cellsWf (d :: cs)

/-- `n` bytes from an address. -/
def cellRead (cs : List Host.Cell) (a : Nat) : Nat → List Byte
  | 0 => []
  | n + 1 => cellGet cs a :: cellRead cs (a + 1) n

/-- Bytes written from an address. -/
def cellWrite (cs : List Host.Cell) (a : Nat) : List Byte → List Host.Cell
  | [] => cs
  | b :: bs => cellWrite (cellSet cs a b) (a + 1) bs

/-- The memory's canonical form. -/
def Mem.wf (m : Mem) : Bool := cellsWf m.cells

/-! ## Where a physical address lives (R173, R174, R384) -/

/-- Local HBM: PA[51:39] = 0. -/
def isHbm (pa : Nat) : Bool := pa < 2 ^ 39
/-- A remote frame: PA[51] = 1. -/
def isRemote (pa : Nat) : Bool := 2 ^ 51 ≤ pa
/-- Host die memory (R384). -/
def isHostMem (pa : Nat) : Bool := 2 ^ 50 ≤ pa && pa < 2 ^ 51
/-- The register blocks and context pages of R384. -/
def isDevReg (pa : Nat) : Bool :=
  (0x8000000000 ≤ pa && pa < 0x8000300000) || (0x8000400000 ≤ pa && pa < 0x8000400000 + 1024 * 4096)
/-- Some place of the map of R173 and R384. -/
def isMapped (pa : Nat) : Bool := isHbm pa || isRemote pa || isHostMem pa || isDevReg pa

/-- The M-die that homes a local address (R174): the exclusive or of nine 3-bit groups. -/
def homeDie (pa : Nat) : Nat :=
  10 + ((List.range 9).foldl (fun (acc : BitVec 3) i => acc ^^^ BitVec.ofNat 3 (pa / 2 ^ (12 + 3 * i))) 0#3).toNat
/-- The stack address of a local address (R174). -/
def stackAddr (pa : Nat) : Nat := pa / 2 ^ 15 * 2 ^ 12 + pa % 2 ^ 12

/-- A die is lost, or its base die is (R383). -/
def State.dieLost (s : State) (d : Nat) : Bool := s.pkg.dies.any (fun x => x.id = d && x.lost)

/-- Touched-dies bits are set for a context (R382): the die's, and its base die's. -/
def State.touch (s : State) (ctx die : Nat) : State :=
  let base := if die < 4 || (10 ≤ die && die < 14) then 8 else if die < 8 || (14 ≤ die && die < 18) then 9 else die
  s.modCtx ctx (fun c => { c with touched := c.touched ||| BitVec.twoPow 19 die ||| BitVec.twoPow 19 base })

/-- The home of a local address counts as touched (R382). -/
def State.touchPa (s : State) (ctx pa : Nat) : State := if isHbm pa then s.touch ctx (homeDie pa) else s

/-! ## Encryption and poison (R176) -/

/-- A byte as read under a key: as stored where the granule was last written under that key or under none,
else a free byte. DESIGN CHOICE: log entry 5. -/
def Mem.byteUnder (m : Mem) (key : Option (BitVec 512)) (pa : Nat) : Byte :=
  let b := cellGet m.cells pa
  match key, (m.gkeys.find? (fun e => e.1 = pa / 64)).map Prod.snd with
  | some k, some k' => if k = k' then b else Config.foreignByte k' k pa b
  | _, _ => b

/-- `n` bytes as read under a key. -/
def Mem.readUnder (m : Mem) (key : Option (BitVec 512)) (pa n : Nat) : List Byte :=
  (List.range n).map (fun i => m.byteUnder key (pa + i))

/-- The granule of an address brought under a key before a partial write: its bytes are what that key
reads. -/
def Mem.rekey (m : Mem) (key : Option (BitVec 512)) (gran : Nat) : Mem :=
  match key with
  | none => m
  | some k =>
    match (m.gkeys.find? (fun e => e.1 = gran)).map Prod.snd with
    | some k' =>
      if k = k' then m
      else { m with cells := cellWrite m.cells (64 * gran) (m.readUnder (some k) (64 * gran) 64)
                    gkeys := insertKey m.gkeys gran k }
    | none => { m with gkeys := insertKey m.gkeys gran k }

/-- Bytes written under a key (R176). -/
def Mem.writeUnder (m : Mem) (key : Option (BitVec 512)) (pa : Nat) (bs : List Byte) : Mem :=
  let grans := (List.range ((pa % 64 + bs.length + 63) / 64)).map (fun i => pa / 64 + i)
  let m1 := grans.foldl (fun m g => m.rekey key g) m
  { m1 with cells := cellWrite m1.cells pa bs }

/-- A granule of a range is poisoned. -/
def Mem.poisoned (m : Mem) (pa n : Nat) : Bool := m.poison.any (fun g => g * 64 < pa + n && pa < g * 64 + 64)

/-- A write that covers whole granules clears their poison (R176). -/
def Mem.unpoison (m : Mem) (pa n : Nat) : Mem :=
  { m with poison := m.poison.filter (fun g => !(pa ≤ g * 64 && g * 64 + 64 ≤ pa + n)) }

/-- The key a slot holds. -/
def State.keyOf (s : State) (slot : Nat) : Option (BitVec 512) :=
  (s.pkg.keys.find? (fun e => e.1 = slot)).map Prod.snd

/-- The key an access to a local frame uses; host memory and register space are not keyed (R181). -/
def State.accKey (s : State) (pa : Nat) (slot : BitVec 10) : Option (BitVec 512) :=
  if isHbm pa then s.keyOf slot.toNat else none

/-- The doubleword at a physical address, as the device's own reads of tables take it. DESIGN CHOICE: log entry 5. -/
def Mem.dword (m : Mem) (pa : Nat) : Word64 := BitVec.ofNat 64 (leNat (cellRead m.cells pa 8))

/-! ## Table entries (R180) -/

def bitAt (w : Word64) (n : Nat) : Bool := w.getLsbD n
def field (w : Word64) (lo n : Nat) : Nat := (w.toNat / 2 ^ lo) % 2 ^ n

/-- Bytes of a leaf's page by its SIZE code (R180). -/
def pageBytes (size : Nat) : Nat :=
  match size with
  | 0 => 4096
  | 1 => 65536
  | 2 => 2 ^ 21
  | _ => 2 ^ 30
/-- The level a leaf of a size stands at (R179). -/
def sizeLevel (size : Nat) : Nat :=
  match size with
  | 0 => 0
  | 1 => 0
  | 2 => 1
  | _ => 2

/-- The frame's physical address, PA[51:12]. -/
def leafFrame (w0 : Word64) : Nat := field w0 12 40 * 4096
def leafPm (w0 : Word64) : Bool := bitAt w0 7

/-- An entry with V = 1 is malformed at a level (R181, step 2). -/
def malformed (lvl : Nat) (w0 w1 : Word64) : Bool :=
  let t := bitAt w0 1
  let size := field w0 10 2
  let frame := leafFrame w0
  let mstride := field w1 0 28
  field w0 52 12 != 0 || bitAt w0 2 || field w1 54 10 != 0 || bitAt w1 43 ||
  (if t then lvl == 0 || field w0 2 11 != 0 || w1 != 0
   else
    3 ≤ lvl || sizeLevel size != lvl || frame % pageBytes size != 0 || field w0 8 2 == 3 ||
    (isRemote frame && (leafPm w0 || field w1 44 10 != 0)) ||
    (leafPm w0 && (mstride * 4096) % pageBytes size != 0) ||
    (!leafPm w0 && (mstride != 0 || field w1 28 15 != 0)))

/-- The attributes of a leaf (R180). -/
def leafAttr (w0 w1 : Word64) : Attr :=
  { key := BitVec.ofNat 10 (field w1 44 10), cls := BitVec.ofNat 2 (field w0 8 2), sc := bitAt w0 6, pm := leafPm w0
    mcount := field w1 28 15 + 1, mstride := field w1 0 28 }

/-- What a walk gives: the leaf's words, or the cause of its fault. -/
abbrev WalkRes := Except (BitVec 8) (Word64 × Word64)

/-- One level of the walk and those below it (R179, R181 steps 1 and 2); `pick` chooses among sixteen
differing entries of a 64 KiB page. DEDUCED: log entry 17. A table whose FRAME lies outside local HBM is read from the memory
of this device at that address. DESIGN CHOICE: log entry 41. -/
def walkFrom (s : State) (pick : BitVec 4) (bad : Bool) (va : Nat) : Nat → Nat → WalkRes
  | lvl, table =>
    let idx := (va / 2 ^ (12 + 9 * lvl)) % 512
    let pa := table + 16 * idx
    let rd (a : Nat) : Option (Word64 × Word64) :=
      if bad || s.mem.poisoned a 16 || s.dieLost (homeDie a) then none else some (s.mem.dword a, s.mem.dword (a + 8))
    match rd pa with
    | none => .error cMEM_UNCORRECTABLE
    | some (w0, w1) =>
      if !bitAt w0 0 then .error cPAGE_ABSENT
      else if malformed lvl w0 w1 then .error cPAGE_PROT
      else if bitAt w0 1 then
        match lvl with
        | 0 => .error cPAGE_PROT
        | l + 1 => walkFrom s pick bad va l (field w0 13 39 * 8192)
      else if lvl = 0 && field w0 10 2 = 1 then
        let base := table + 16 * (idx / 16 * 16)
        let all := (List.range 16).map (fun i => (s.mem.dword (base + 16 * i), s.mem.dword (base + 16 * i + 8)))
        if all.all (fun e => e = (w0, w1)) then .ok (w0, w1)
        else
          match all.getD pick.toNat (w0, w1) with
          | (x0, x1) =>
            if !bitAt x0 0 then .error cPAGE_ABSENT else if malformed 0 x0 x1 then .error cPAGE_PROT else .ok (x0, x1)
      else .ok (w0, w1)

/-- The table entries a walk reads, at every level it reaches (R179). -/
def walkReads (s : State) (va : Nat) : Nat → Nat → List Nat
  | lvl, table =>
    let pa := table + 16 * ((va / 2 ^ (12 + 9 * lvl)) % 512)
    let w0 := s.mem.dword pa
    match lvl with
    | 0 => [pa]
    | l + 1 => if bitAt w0 0 && bitAt w0 1 then pa :: walkReads s va l (field w0 13 39 * 8192) else [pa]

/-- What an access needs of its page (R181, step 3). -/
inductive Perm | load | store | atomic | fetch
  deriving DecidableEq, Repr

def permOk (p : Perm) (w0 : Word64) : Bool :=
  match p with
  | .load => bitAt w0 3
  | .store => bitAt w0 4
  | .atomic => bitAt w0 3 && bitAt w0 4
  | .fetch => bitAt w0 5

/-- The physical address of a virtual address on a leaf, for a member (R181, R182). -/
def leafPa (va member : Nat) (w0 w1 : Word64) : Nat :=
  let pa0 := leafFrame w0 + va % pageBytes (field w0 10 2)
  if leafPm w0 then pa0 + member * (leafAttr w0 w1).mstride * 4096 else pa0

/-- Steps 3 to 5 of R181 on a leaf: the physical address of a virtual address for a member. -/
def State.leafAccess (s : State) (ctx va : Nat) (p : Perm) (member : Nat) (w0 w1 : Word64) : Except (BitVec 8) (Nat × Attr) :=
  let at1 := leafAttr w0 w1
  let pa0 := leafFrame w0 + va % pageBytes (field w0 10 2)
  let pa := if at1.pm then pa0 + member * at1.mstride * 4096 else pa0
  if !permOk p w0 then .error cPAGE_PROT
  else if at1.pm && at1.mcount ≤ member then .error cMEMBER_RANGE
  else if at1.pm && !isHbm pa then .error cPAGE_PROT
  else if !isMapped pa then .error cPAGE_PROT
  else if isHbm pa && ((s.keyOf at1.key.toNat).isNone ||
      !((s.ctx? ctx).map (fun c => c.keys.getLsbD at1.key.toNat)).getD false) then .error cKEY_INVALID
  else if isHbm pa && s.dieLost (homeDie pa) then .error cMEM_UNCORRECTABLE
  else .ok (pa, at1)

/-- The part of a virtual address that selects an entry at a level and above. -/
def walkPage (lvl va : Nat) : Nat := va / 2 ^ (12 + 9 * lvl)

/-- Where a walk begins: below the lowest pointer that the walk cache of the unit's base die holds and the walk uses, else at the
root (R179, R193). The device itself uses none. -/
def State.walkStart (s : State) (unit ctx va root : Nat) : Nat × Nat :=
  match (sortBy WalkEnt.lvl (s.mem.walks.filter (fun e => decide (unit < 384) && e.bdie = coreBase unit && e.ctx = ctx
      && e.page = walkPage e.lvl va && Config.cacheUsed s.sched.free (512 + e.bdie) e.page))).head? with
  | some e => (e.lvl - 1, e.table)
  | none => (4, root)

/-- The table pointers that a walk follows: level and table. -/
def walkPtrs (s : State) (va : Nat) : Nat → Nat → List (Nat × Nat)
  | lvl, table =>
    let w0 := s.mem.dword (table + 16 * ((va / 2 ^ (12 + 9 * lvl)) % 512))
    match lvl with
    | 0 => []
    | l + 1 => if bitAt w0 0 && bitAt w0 1 then (l + 1, field w0 13 39 * 8192) :: walkPtrs s va l (field w0 13 39 * 8192) else []

/-- The cached leaf of a virtual address in a core's L1 TLB or its C-die's TLB (R193). -/
def State.tlbFind (s : State) (core ctx va : Nat) : Option TlbEnt :=
  s.mem.tlb.find? (fun e => (e.unit = core || e.unit = 384 + coreDie core) && e.ctx = ctx && e.page ≤ va && va < e.page + e.size)

/-- The leaf a walk of the tables finds. -/
def State.walkLeaf (s : State) (core ctx va : Nat) : WalkRes :=
  match s.ctx? ctx with
  | none => .error cPAGE_ABSENT
  | some c =>
    let (lvl, table) := s.walkStart core ctx va c.root
    if va < 2 ^ 57 then walkFrom s (Config.pageEntry s.sched.free) false va lvl table else .error cPAGE_ABSENT

/-- The leaf an access of a core uses: a walk's, or the cached one, which may differ from its table's while no TLB_INV has come
(R193). -/
def State.leafFor (s : State) (core ctx va : Nat) : WalkRes :=
  match s.tlbFind core ctx va with
  | some e => if Config.cacheUsed s.sched.free e.unit e.page then .ok (e.w0, e.w1) else s.walkLeaf core ctx va
  | none => s.walkLeaf core ctx va

/-- Translation of one address of a context for a core (R179 to R182, R186); MSEL has been applied to the
member already. -/
def State.translate (s : State) (core ctx va : Nat) (p : Perm) (member : Nat) : Except (BitVec 8) (Nat × Attr) :=
  match s.leafFor core ctx va with
  | .error e => .error e
  | .ok (w0, w1) => s.leafAccess ctx va p member w0 w1

/-- Entries that a C-die's TLB holds for a page size (R5, R193): none for the pages it does not keep. -/
def dieTlbRoom (size : Nat) : Nat := if size = 2 ^ 30 then 2048 else if size = 2 ^ 21 then 8192 else 0

/-- A leaf joins the TLB of a C-die; where it is full, which entry leaves is a free choice. -/
def State.dieTlb (s : State) (e : TlbEnt) : State :=
  let mine := s.mem.tlb.filter (fun x => x.unit = e.unit && x.size = e.size)
  if mine.contains e || dieTlbRoom e.size = 0 then s
  else if mine.length < dieTlbRoom e.size then s.setMem { s.mem with tlb := e :: s.mem.tlb }
  else
    let (n, s1) := s.freshFree
    match mine[Config.choice n mine.length % mine.length]? with
    | some v => s1.setMem { s1.mem with tlb := e :: s1.mem.tlb.erase v }
    | none => s1

/-- The homes of the table entries that a walk reads count as touched, whether or not it ends in a fault (R382). -/
def State.touchWalk (s : State) (core ctx va : Nat) : State :=
  match s.tlbFind core ctx va, s.ctx? ctx with
  | none, some c =>
    let (lvl, table) := s.walkStart core ctx va c.root
    if va < 2 ^ 57 then (walkReads s va lvl table).foldl (fun (s : State) pa => s.touchPa ctx pa) s else s
  | _, _ => s

/-- A core keeps the leaf a walk found, its C-die a large page's, and the walk cache of its base die the pointers the walk
followed (R193); a walk that fails leaves nothing. -/
def State.tlbFill (s : State) (core ctx va : Nat) : State :=
  match s.tlbFind core ctx va with
  | some _ => s
  | none =>
    let s0 := s.touchWalk core ctx va
    match s.leafFor core ctx va, s.ctx? ctx with
    | .ok (w0, w1), some c =>
      let size := pageBytes (field w0 10 2)
      let page := va / size * size
      let (lvl, table) := s.walkStart core ctx va c.root
      let ptrs := if core < 384 then (walkPtrs s va lvl table).map (fun e => (⟨coreBase core, ctx, e.1, walkPage e.1 va, e.2⟩ : WalkEnt)) else []
      (s0.setMem { s0.mem with tlb := ⟨core, ctx, page, size, w0, w1⟩ :: s0.mem.tlb, walks := ptrs ++ s0.mem.walks }).dieTlb
        ⟨384 + coreDie core, ctx, page, size, w0, w1⟩
    | _, _ => s0

/-- Bytes of a context's virtual addresses as the device itself reads them, on member 0 (R401): none when a
byte fails translation or is poisoned. -/
def State.readVirt (s : State) (core ctx : Nat) (p : Perm) (member va : Nat) : Nat → Option (List Byte)
  | 0 => some []
  | n + 1 =>
    match s.translate core ctx va p member with
    | .error _ => none
    | .ok (pa, at1) =>
      if isHbm pa && s.mem.poisoned pa 1 then none
      else
        match s.readVirt core ctx p member (va + 1) n with
        | none => none
        | some bs => some (s.mem.byteUnder (s.accKey pa at1.key) pa :: bs)

/-- The member whose copy a group's instruction fetch reads on a PM page: MSEL's while it applies (R186), else member 0.
DESIGN CHOICE: log entry 41. -/
def Group.fetchMember (g : Group) : Nat := if g.priv && bitAt g.msel 63 then field g.msel 0 15 else 0

/-- The 8-byte word at an address of a clause, or the fault of one that cannot be read (R181). -/
def State.fetchWord (s : State) (core ctx member va : Nat) : Except (BitVec 8) Word64 :=
  match s.translate core ctx va .fetch member with
  | .error e => .error e
  | .ok (pa, at1) =>
    if isHbm pa && s.mem.poisoned pa 8 then .error cMEM_UNCORRECTABLE
    else .ok (BitVec.ofNat 64 (leNat (s.mem.readUnder (s.accKey pa at1.key) pa 8)))

/-- The clause at an address begins with REGRP or REGRET (R92). -/
def State.startsRegroup (s : State) (core ctx member : Nat) (pc : Word64) : Bool :=
  match s.fetchWord core ctx member (pc.toNat + 8) with
  | .ok w => w.extractLsb' 0 10 == 0x210#10 || w.extractLsb' 0 10 == 0x211#10
  | .error _ => false

end Sys2Proof.Machine
end

