-- ==== Sys2Proof/Machine/Holds.lean ====
section
/-! DEFINITION. What an access still waits for: the conditions of releases and acquires on the operations under way
(spec/10_atomic_fence_remote_instructions.md R218, R229), the order of loads across an acquire
(spec/12_consistency_model.md R247), and the request entries of a core (spec/08_memory_hierarchy.md R194). Operations are
numbered in issue order. -/

namespace Sys2Proof.Machine

/-- A piece still to be performed. -/
def Piece.open' (p : Piece) : Bool := p.st = .todo || p.st = .lost

/-- Two ranges share a byte. -/
def meetsRange (a n b m : Nat) : Bool := decide (a < b + m) && decide (b < a + n)

/-! ## Conditions of earlier accesses (R171, R218) -/

/-- The team's team scope spans two cores (R171). -/
def Team.spans (t : Team) : Bool := t.pair && !t.pairchk

def State.teamSpans (s : State) (k : TeamKey) : Bool := ((s.team? k).map Team.spans).getD false

/-- The pieces of some threads are all performed, or, where the scope ends at the island, on a remote frame. -/
def MemOp.performed (o : MemOp) (m : Mask) (island : Bool) : Bool :=
  o.pieces.all (fun p => !m.getLsbD p.thread || !p.open' || (island && isRemote p.pa && !o.late))

/-- An operation under way meets the condition of R218 for a release at a scope, for some threads. -/
def MemOp.meets (o : MemOp) (scope : Scope) (spans : Bool) (m : Mask) : Bool :=
  match o.kind with
  | .pref _ => true
  | .store =>
    match scope with
    | .grp => true
    | .team => if spans then o.performed m true else !o.late || o.performed m false
    | .dev => o.performed m true
    | .sys => o.performed m false
  | .atomic _ _ _ =>
    match scope with
    | .grp => true
    | .team => o.performed m spans
    | .dev => o.performed m true
    | .sys => o.performed m false
  | .redla _ _ =>
    match scope with
    | .grp => true
    | .team => o.performed m spans
    | .dev => o.performed m true
    | .sys => o.performed m false
  | _ => scope == .grp

/-- The same of a remote operation: RGET is a load; RPUT and RATOM count at system scope. -/
def RemoteOp.meets (o : RemoteOp) (scope : Scope) : Bool :=
  match o.kind with
  | .get => scope == .grp
  | _ => scope != .sys

/-- The threads of a remote pass. -/
def RemoteOp.mask (o : RemoteOp) : Mask := o.args.foldl (fun m a => m ||| BitVec.twoPow 512 a.thread) 0#512

/-- Every load, store and atomic of some threads numbered below a bound meets a scope's condition. -/
def State.accessesMet (s : State) (k : GroupKey) (m : Mask) (before : Nat) (scope : Scope) : Bool :=
  s.ops.mem.all (fun o => !(o.g = k && decide (o.id < before) && (o.active &&& m) != 0#512) || o.meets scope (s.teamSpans k.team) (o.active &&& m))

/-- Every access of some threads numbered below a bound meets a scope's condition, remote operations included (R218). -/
def State.earlierMet (s : State) (k : GroupKey) (m : Mask) (before : Nat) (scope : Scope) : Bool :=
  s.accessesMet k m before scope
    && s.ops.remote.all (fun o => !(o.g = k && decide (o.id < before) && (o.mask &&& m) != 0#512) || o.meets scope)

/-! ## What holds an access back (R218, R247) -/

/-- A release numbered at or before an operation has not got its condition, for one thread of it. DEDUCED: log entry 19. -/
def State.releaseHolds (s : State) (k : GroupKey) (t id : Nat) : Bool :=
  let m := BitVec.twoPow 512 t
  s.ops.mem.any (fun r => r.g = k && r.rel && decide (r.id ≤ id) && r.active.getLsbD t && !s.earlierMet k m r.id r.scope)
    || s.ops.pts.any (fun r => r.g = k && r.rel && decide (r.id < id) && r.threads.getLsbD t && !s.earlierMet k m r.id r.scope)

/-- An acquire numbered before an operation has not finished, for one thread of it. -/
def State.acquireHolds (s : State) (k : GroupKey) (t id : Nat) : Bool :=
  s.ops.mem.any (fun a => a.g = k && a.acq && decide (a.id < id) && a.active.getLsbD t)
    || s.ops.pts.any (fun a => a.g = k && a.acq && decide (a.id < id) && a.threads.getLsbD t)

/-- An operation reads memory for its threads. -/
def MemOp.reads (o : MemOp) : Bool :=
  match o.kind with
  | .pref _ => false
  | .store => false
  | .redla _ _ => false
  | _ => true

/-- An acquire at device or system scope, with its number: the earlier loads of its threads that are still open remember it
(R247). -/
def State.fenceLoads (s : State) (k : GroupKey) (m : Mask) (scope : Scope) (id : Nat) : State :=
  if scope == .dev || scope == .sys then
    s.setOps { s.ops with mem := s.ops.mem.map (fun o =>
      if o.g = k && decide (o.id < id) && o.reads && (o.active &&& m) != 0#512 && o.pieces.any Piece.open' then
        { o with fences := o.fences ++ [(id, scope, m)] }
      else o) }
  else s

/-- A load of a thread numbered before an operation is still open, and the thread has issued between them an acquire at system
scope, or one at device scope where both reach local frames (R247). -/
def State.fenceHolds (s : State) (k : GroupKey) (t id : Nat) (near : Bool) : Bool :=
  s.ops.mem.any (fun o => o.g = k && decide (o.id < id) && o.pieces.any (fun r => r.open' && r.thread == t &&
    o.fences.any (fun f => decide (f.1 < id) && f.2.2.getLsbD t && (f.2.1 == .sys || (near && !isRemote r.pa)))))

/-- The stores and atomics a core has under way are acknowledged at device scope, those aside that an ordering still holds
back (R218, R229). DEDUCED: log entry 19. -/
def State.flushReady (s : State) (core : Nat) : Bool :=
  s.ops.mem.all (fun q => q.core != core || (q.args.isEmpty && q.kind != .store) || q.pieces.all (fun p =>
    !p.open' || (isRemote p.pa && !q.late) || s.acquireHolds q.g p.thread q.id || s.releaseHolds q.g p.thread q.id))

/-! ## Request entries (R194)

A core has 768, one for each line that a pass of 128 threads touches. A pass holds its entries until its pieces on the line are
performed; where a later pass finds none free, the passes take them in the order of their operations. DEDUCED: log entry 17. -/

/-- The pass of a thread. -/
def passOf (t : Nat) : Nat := t / 128

/-- The entries of one pass: the lines its open pieces touch, at most 256. -/
def passEntries (ps : List Piece) (n : Nat) : Nat :=
  min 256 (((ps.filter (fun p => p.open' && passOf p.thread = n)).map (fun p => p.pa / 128)).foldl addOnce []).length

/-- The entries of the passes below a bound. -/
def entriesBelow (ps : List Piece) (n : Nat) : Nat := ((List.range n).map (passEntries ps)).sum

/-- A WAITC whose slice holds it has had its answer. -/
def State.registered (s : State) (o : MemOp) : Bool := s.mem.monitors.any (fun m => m.op = o.id)

/-- The entries that operations of a core numbered below a bound take. -/
def State.entriesHeld (s : State) (core before : Nat) : Nat :=
  ((s.ops.mem.filter (fun o => o.core = core && decide (o.id < before) && !s.registered o)).map (fun o => entriesBelow o.pieces 4)).sum

/-- A pass of an operation has its entries. -/
def State.passIssued (s : State) (o : MemOp) (n : Nat) : Bool :=
  decide (s.entriesHeld o.core o.id + entriesBelow o.pieces n + passEntries o.pieces n ≤ 768)

/-- A group whose instruction has a pass still to issue issues nothing. -/
def State.passWaits (s : State) (k : GroupKey) : Bool :=
  s.ops.mem.any (fun o => o.g = k && o.pieces.any (fun p => p.open' && !s.passIssued o (passOf p.thread)))

/-- Whether the first pass of an instruction's pieces finds its entries, and whether all of them do. -/
def State.entriesFit (s : State) (core : Nat) (ps : List Piece) : Bool × Bool :=
  let held := s.entriesHeld core s.sched.nextId
  (decide (held + (((List.range 4).map (passEntries ps)).find? (fun n => n ≠ 0)).getD 0 ≤ 768), decide (held + entriesBelow ps 4 ≤ 768))

end Sys2Proof.Machine
end

