-- ==== Sys2Proof/Machine/Splits.lean ====
section
/-! DEFINITION. Splits at clause boundaries (spec/04_groups_and_members.md R90 to R97): division, serialised
parts, merging, and the return from a trap (spec/05_registers_private_memory_traps.md R129). -/

namespace Sys2Proof.Machine

/-- A part of a dividing split: its threads and the clause they continue at. -/
abbrev Part := Mask × Word64

/-- A part added to the parts made so far: threads that go to one clause form one part (R91). -/
def addPart (ps : List Part) (x : Part) : List Part :=
  if ps.any (fun p => p.2 = x.2) then ps.map (fun p => if p.2 = x.2 then (p.1 ||| x.1, p.2) else p)
  else insertBy (fun (p : Part) => p.2.toNat) x ps

/-- One part for each distinct next clause, by ascending address; parts without threads drop out. -/
def mkParts (l : List Part) : List Part := (l.filter (fun p => p.1 ≠ 0#512)).foldl addPart []

/-- Deferral entries of a group, those set aside while a handler runs included (R90, R92). DEDUCED: log entry 16. -/
def Group.deferCount (g : Group) : Nat :=
  (g.splits.map (fun p => p.defer.length)).sum + (match g.handler with | some h => h.defer.length | none => 0)

/-- Splits that issue nothing while a handler runs (R128, step 1). -/
def Group.stopped (g : Group) (sid : Nat) : Bool :=
  match g.handler with
  | some h => g.priv && h.others.contains sid
  | none => false

/-- The deferral entry with the lowest address, the first made among equals. -/
def lowestDeferred : List Deferred → Option Deferred
  | [] => none
  | d :: ds =>
    match lowestDeferred ds with
    | none => some d
    | some e => if e.pc.toNat < d.pc.toNat then some e else some d

/-- A deferral list without one entry. -/
def dropDeferred (l : List Deferred) (d : Deferred) : List Deferred := l.erase d

/-- The steps of R92 for a running part at a clause boundary; `exited` is the group's exited threads, `late`
says that the next clause begins with REGRP or REGRET. -/
def Split.boundarySteps (p : Split) (exited : Mask) (late : Bool) : Split :=
  let joined := p.defer.filter (fun d => d.pc = p.pc)
  let p1 : Split := { p with mask := joined.foldl (fun m d => m ||| d.mask) p.mask
                             defer := p.defer.filter (fun d => d.pc ≠ p.pc) }
  let p2 : Split :=
    match lowestDeferred p1.defer with
    | none => p1
    | some d =>
      if late || d.pc.toNat < p1.pc.toNat then
        { p1 with mask := d.mask, pc := d.pc, defer := dropDeferred p1.defer d ++ [⟨p1.mask, p1.pc⟩] }
      else p1
  let live := p2.mask &&& ~~~exited
  let dead := p2.defer.filter (fun d => (d.mask &&& ~~~exited) ≠ 0#512)
  if live = 0#512 then
    match lowestDeferred dead with
    | none => { p2 with defer := [] }
    | some d => { p2 with mask := d.mask, pc := d.pc, defer := dropDeferred dead d }
  else { p2 with defer := dead }

/-- The division of a split among parts (R91, R92); each new split takes its parent's region and pending entries (R124). None where a deferral entry too many raises SPLIT_DEPTH. The
parts are in ascending address order. -/
def Group.divide (g : Group) (p : Split) (parts : List Part) : Option Group :=
  match parts with
  | [] => some (g.putSplit { p with mask := 0, pc := p.pc + 64 })
  | [q] => some (g.putSplit { p with mask := q.1, pc := q.2 })
  | q :: qs =>
    if g.splits.length + qs.length ≤ 4 then
      let keep := match parts.find? (fun x => x.2 = p.pc + 64) with
        | some x => x
        | none => q
      let others := parts.filter (fun x => x.2 ≠ keep.2)
      let news := others.mapIdx (fun i (x : Part) =>
        ({ p with sid := g.nextSid + i, age := g.nextAge + i, mask := x.1, pc := x.2, defer := [] } : Split))
      let ids := news.map Split.sid
      let g1 := g.putSplit { p with mask := keep.1, pc := keep.2 }
      some { g1 with v := g1.v.map (fun e => if e.pend.contains p.sid then { e with pend := e.pend ++ ids } else e)
                     splits := g1.splits ++ news, nextSid := g.nextSid + news.length, nextAge := g.nextAge + news.length }
    else if g.deferCount + qs.length ≤ 32 then
      some (g.putSplit { p with mask := q.1, pc := q.2, defer := p.defer ++ qs.map (fun x => ⟨x.1, x.2⟩) })
    else none

/-- Whether two splits stand at the same clause boundary and may merge (R94): both run, or both stand stopped
while a handler runs. -/
def Group.mergeable (g : Group) (p q : Split) : Bool :=
  let atB (x : Split) : Bool := match x.st with
    | .boundary => true
    | .waiting => true
    | _ => false
  p.sid != q.sid && atB p && atB q && p.pc == q.pc && g.stopped p.sid == g.stopped q.sid

/-- Two splits become one (R94, R124). DEDUCED: log entry 12; DESIGN CHOICE (log entries 12, 42): s registers that await different
results count as differing, and the results awaited are those of the copies kept; the split that contains the lowest-numbered
non-exited thread is told by the running parts, threads held in deferral lists left out; of two starts of one region the later
counts. -/
def Group.merge (g : Group) (p q : Split) : Group :=
  let old := if p.age < q.age then p else q
  let low (x : Split) : Nat := (lowestThread g.f (g.splitLive x)).getD 512
  let win := if low p < low q then p else if low q < low p then q else old
  let same := p.region == q.region
  let m : Split := { old with
    mask := p.mask ||| q.mask
    st := .boundary
    defer := p.defer ++ q.defer
    s := win.s
    a := win.a
    sBusy := win.sBusy
    latch := []
    region := if same then p.region else none
    regionAt := max p.regionAt q.regionAt
    passed := max p.passed q.passed }
  let gone := if old.sid = p.sid then q.sid else p.sid
  { g with
    splits := (g.splits.filter (fun x => x.sid ≠ gone)).map (fun x => if x.sid = old.sid then m else x)
    v := g.v.map (fun e => { e with pend := e.pend.foldl (fun l x => addOnce l (if x = gone then old.sid else x)) [] })
    udiv := g.udiv || p.s != q.s || p.a != q.a || p.sBusy != q.sBusy }

/-- Merging repeated while two splits stand at the same boundary; a group has at most four splits. -/
def Group.mergeAll : Nat → Group → Group
  | 0, g => g
  | n + 1, g =>
    match (g.splits.flatMap (fun p => g.splits.map (fun q => (p, q)))).find? (fun x => g.mergeable x.1 x.2) with
    | none => g
    | some (p, q) => Group.mergeAll n (g.merge p q)

/-- A split with its new clause address reaches the boundary: the steps of R92, the end of splits with no
thread left, and merging (R94). -/
def State.reachBoundary (s : State) (k : GroupKey) (sid : Nat) : State :=
  s.modGroup k (fun g =>
    match g.split? sid with
    | none => g
    | some p =>
      let late := s.startsRegroup g.core g.ctx g.fetchMember p.pc
      let p1 := { p with st := .boundary, slot := 1 }.boundarySteps g.exitedMask late
      (g.putSplit p1).dropEnded.mergeAll 4)

/-- RTE's effect on a group (R129): PRIV clears, the split's view expires, and the split goes on at the
target with the deferral list it had before the trap; other splits go on in their own states. -/
def State.returnFrom (s : State) (k : GroupKey) (sid : Nat) (target : Word64) : State :=
  (s.modGroup k (fun g =>
    match g.split? sid with
    | none => g
    | some p =>
      let list := match g.handler with
        | some h => h.defer
        | none => []
      { g.putSplit { p with latch := [], pc := target, defer := p.defer ++ list, st := .boundary, slot := 1 } with
        priv := false
        handler := none })).reachBoundary k sid

/-- RTE where no resumption is permitted (R129): the threads of the split exit, and parts the split held
back before the trap go on (R92, R97). -/
def State.returnNowhere (s : State) (k : GroupKey) (sid : Nat) : State :=
  match s.group? k with
  | none => s
  | some g =>
    match g.split? sid with
    | none => s
    | some p => (s.exitThreads k p.mask).returnFrom k sid p.pc

end Sys2Proof.Machine
end

