-- ==== Sys2Proof/Machine/Operands.lean ====
section
/-! DEFINITION. An instruction being issued, its operand values (spec/01_instruction_word.md R27 to R32,
spec/02_core_instructions.md R47) and the writes of its results (R111). -/

namespace Sys2Proof

/-- The number of the register an operand names. -/
def Opnd.num : Opnd → Nat
  | .v n => n.toNat
  | .s n => n.toNat
  | .w n => n.toNat
  | .a n => n.toNat
  | .p n => n.toNat
  | .h n => n.val
  | _ => 0

end Sys2Proof

namespace Sys2Proof.Machine

/-- What happens to the split after the instruction (R19, R69, R97). -/
inductive Flow
  /-- the next slot, or the next clause -/
  | seq
  /-- the parts of the split and where each goes -/
  | jump (parts : List Part)
  /-- the split blocks at this slot and goes on after it when the wait is over -/
  | block (w : Wait)
  /-- the instruction's own change of the splits -/
  | own (f : State → State)

/-- An instruction being issued: the state, group and split as read (`s0`, `g0`, `p0`) and as changed so
far, the active threads, and whether a completion flag counts up with it. -/
structure Iss where
  s0 : State
  g0 : Group
  p0 : Split
  s : State
  g : Group
  p : Split
  act : Mask
  c : Ctl
  flow : Flow := .seq
  flagUp : Bool := false
  /-- operations the primary copy of a check pair has made, for its shadow (R107, R108) -/
  shared : List Nat := []

/-- How an issue ends: it issues, it waits without effect (R97), or it faults. -/
inductive Act
  | ok (x : Iss)
  | stall (code : BitVec 8) (op : Option Nat)
  /-- a wait that leaves a record of itself (R352) -/
  | hold (s : State) (code : BitVec 8)
  | trap (x : Iss) (i : TrapInfo)

/-- One action after another. -/
def Act.andThen (a : Act) (f : Iss → Act) : Act :=
  match a with
  | .ok x => f x
  | .stall c b => .stall c b
  | .hold s c => .hold s c
  | .trap x i => .trap x i

def Iss.k (x : Iss) : GroupKey := x.g0.key
def Iss.sid (x : Iss) : Nat := x.p0.sid
/-- The state with what was changed so far put into it. -/
def Iss.commit (x : Iss) : State := x.s.putGroup (x.g.putSplit x.p)
/-- The issue goes on from a changed state. -/
def Iss.reload (x : Iss) (s : State) : Iss :=
  match s.group? x.k with
  | none => { x with s := s }
  | some g =>
    match g.split? x.sid with
    | none => { x with s := s, g := g }
    | some p => { x with s := s, g := g, p := p }

/-- A fault that takes no effect but the trap. -/
def Iss.fault (x : Iss) (code : BitVec 8) (addr : Word64) (m : Mask) : Act :=
  .trap { x with s := x.s0, g := x.g0, p := x.p0 } (x.p0.trapInfo code addr m)

/-- The completion flag FSEL selects (R25). -/
def Iss.flag? (x : Iss) : Option Nat :=
  match x.c.fsel with
  | .setA => some ((x.p0.header.extractLsb' 12 4).toNat)
  | .setB => some ((x.p0.header.extractLsb' 16 4).toNat)
  | _ => none

/-- Active threads, ascending. -/
def Iss.threads (x : Iss) : List Nat := maskThreads x.g0.f x.act
/-- Some thread is active. -/
def Iss.any (x : Iss) : Bool := x.act != 0#512
/-- Octets with an active thread. -/
def Iss.octs (x : Iss) : List Nat := x.g0.octets x.act
/-- The lowest-numbered active thread (R67). -/
def Iss.low (x : Iss) : Nat := (lowestThread x.g0.f x.act).getD 0
/-- Threads of the split that have not exited. -/
def Iss.splitLive (x : Iss) : Mask := x.g0.splitLive x.p0
/-- The core whose memory path serves the group: the primary's in a check pair (R107). -/
def Iss.core (x : Iss) : Nat :=
  match x.s0.group? { x.g0.key with shadow := false } with
  | some h => h.core
  | none => x.g0.core

/-! ## Values -/

/-- A special value of a thread (R32). -/
def specialVal (s : State) (g : Group) (v : Special) (t : Nat) : Word64 :=
  let n (x : Nat) : Word64 := BitVec.ofNat 64 x
  let team (f : Team → Nat) : Word64 := n ((s.team? g.key.team).map f |>.getD 0)
  let lrec (f : LRec → Nat) : Word64 := n ((s.launch? g.key.team.launch).map (fun l => f l.lrec) |>.getD 0)
  match v with
  | .lane => n (g.laneOf t)
  | .member => n (g.memberOf t)
  | .memberid => n ((g.threads[t]?.map Thread.memberid).getD 0)
  | .thread => n t
  | .group => n g.key.group
  | .width => n g.w
  | .members => n g.m
  | .origin => n ((g.threads[t]?.map Thread.origin).getD 0)
  | .teamX => team Team.x
  | .teamY => team Team.y
  | .teamZ => team Team.z
  | .teamMb => team Team.mb
  | .nteamX => lrec LRec.nx
  | .nteamY => lrec LRec.ny
  | .nteamZ => lrec LRec.nz
  | .nteamMb => lrec LRec.nmb
  | .cycle => n (s.cycle - s.born)
  | .core =>
    match s.group? { g.key with shadow := false } with
    | some h => n h.core
    | none => n g.core
  | .device => s.pkg.device.setWidth 64
  | .memberbase => n ((s.team? g.key.team).map (fun t => t.mb * g.m) |>.getD 0)

/-- A source operand of a thread as 64 bits; `n` is how many v or w registers it takes (R47). -/
def Iss.val (x : Iss) (o : Opnd) (n t : Nat) : Word64 :=
  match o with
  | .v i => x.g0.vVal i.toNat n t
  | .w i => x.g0.wVal i.toNat n (x.g0.laneOf t)
  | .s i => x.p0.s.getD i.toNat 0
  | .h i => ((x.p0.latch[i.val]?).map (fun h => h.vals.getD t 0)).getD 0
  | .special v => specialVal x.s0 x.g0 v t
  | .p i => BitVec.ofNat 64 (((x.g0.threads[t]?).map (fun th => th.pred i)).getD false).toNat
  | .a i => ((x.p0.a[i.toNat]?).map AReg.ptr).getD 0
  | .reserved _ => 0

/-- Source B: the register, the immediate of R27 or the literal of R28. -/
def Iss.src (x : Iss) (b : Src) (n t : Nat) : Word64 :=
  match b with
  | .reg o => x.val o n t
  | .imm i => i.signExtend 64
  | .lit l => l

/-- A uniform source: special values that differ between threads read as the lowest active thread's (R67). -/
def Iss.uni (x : Iss) (o : Opnd) : Word64 := x.val o 1 x.low
def Iss.uniSrc (x : Iss) (b : Src) : Word64 := x.src b 1 x.low

/-- The predicate operand of a thread. -/
def Iss.predOf (x : Iss) (o : Opnd) (t : Nat) : Bool :=
  match o with
  | .p i => ((x.g0.threads[t]?).map (fun th => th.pred i)).getD false
  | _ => false

/-- The a register an operand names. -/
def Iss.areg (x : Iss) (o : Opnd) : AReg := (x.p0.a[o.num]?).getD .zero

/-! ## Writes -/

/-- A value into the mapped entries of a name or pair, for the threads of a mask: one pass over the entries. -/
def Group.writeLanes (g : Group) (name regs : Nat) (act : Mask) (f : Nat → Word64) : Group :=
  { g with v := g.v.map (fun e =>
      if e.pend.isEmpty && name ≤ e.name && e.name < name + regs then
        { e with vals := (List.range 8).map (fun i =>
            if act.getLsbD (8 * e.octet + i) then (f (8 * e.octet + i) >>> (32 * (e.name - name))).setWidth 32
            else e.vals.getD i 0) }
      else e) }

/-- How an issue that finds its source of entries empty ends (R116): it waits with REGPOOL, or faults when its group is the
only resident one of its core; an evicted group that now fits is to return first, and is waited for. -/
def Iss.noEntry (x : Iss) : Act :=
  if decide ((x.s.groups.filter (fun g => g.core = x.g0.core)).length ≤ 1) && !x.s.poolOwed x.g then x.fault cREG_EXHAUSTED 0 x.act
  else .stall wREGPOOL none

/-- The names of a register and its pair or quadruple. -/
def namesFrom (n regs : Nat) : List Nat := (List.range regs).map (fun i => n + i)

/-- The destination entries of the octets with an active thread are mapped (R111, R116). -/
def Iss.allocV (x : Iss) (o : Opnd) (regs : Nat) (k : Iss → Act) : Act :=
  match x.s.mapVs x.g (namesFrom o.num regs) x.octs with
  | none => x.noEntry
  | some g => k { x with g := g }

/-- A result for each active thread into a v register or pair. -/
def Iss.writeV (x : Iss) (o : Opnd) (regs : Nat) (f : Nat → Word64) : Act :=
  x.allocV o regs (fun y => .ok { y with g := y.g.writeLanes o.num regs y.act f })

/-- A predicate result for each thread of a mask (R59). -/
def Iss.writeP (x : Iss) (o : Opnd) (m : Mask) (f : Nat → Bool) : Iss :=
  match o with
  | .p i => { x with g := x.g.mapThreads (fun t th => if m.getLsbD t then th.setPred i (f t) else th) }
  | _ => x

/-- A result into an s register of the split (R67). -/
def Iss.writeS (x : Iss) (o : Opnd) (v : Word64) : Iss := { x with p := { x.p with s := x.p.s.set o.num v } }

/-- A result into an a register of the split (R73). -/
def Iss.writeA (x : Iss) (o : Opnd) (v : AReg) : Iss := { x with p := { x.p with a := x.p.a.set o.num v } }

/-- IEEE flags of each active thread into FFLAGS (R53). -/
def Iss.raise (x : Iss) (f : Nat → BitVec 5) : Iss :=
  { x with g := x.g.mapThreads (fun t th => if x.act.getLsbD t then th.raise (f t) else th) }

end Sys2Proof.Machine
end

