-- ==== Sys2Proof/Machine/Issue.lean ====
section
/-! DEFINITION. The issue of one core instruction: the waits and checks that come before its effect, and the
bookkeeping after it (spec/01_instruction_word.md R18 to R25, spec/05_registers_private_memory_traps.md
R113 to R131), for one copy or for both copies of a check pair (spec/04_groups_and_members.md R106 to R109). -/

namespace Sys2Proof

/-- Sources A, B and C that are registers: position, operand and how many registers the value takes. -/
def View.sources (w : View) : List (Nat × Opnd × Nat) :=
  let os := [(1, w.a), (2, w.b), (3, w.x)].filterMap (fun e => e.2.map (fun o => (e.1, o)))
  let ns := (w.needs.drop (w.needs.length - os.length)).map Need.n
  (os.zip ns).map (fun e => (e.1.1, e.1.2, e.2))

end Sys2Proof

namespace Sys2Proof.Machine

/-- What an instruction's description says of its issue. -/
structure Meaning where
  view : View
  /-- a long literal stands in the next slot (R28) -/
  lit : Bool := false
  /-- a source that stands in the DST field -/
  data : Option Opnd := none
  /-- its own effect checks w registers (R313) -/
  ownStale : Bool := false
  /-- raises DET_VIOLATION in deterministic mode (R295) -/
  det : Iss → Bool := fun _ => false
  /-- non-idempotent (R126) -/
  nonIdem : Iss → Bool := fun _ => false
  /-- what R108 compares between the copies of a check pair beside the active mask: items by thread; none where it compares
  nothing -/
  cmp : Option (Iss → List (Nat × List Word64)) := none
  /-- a difference names every active thread (R109) -/
  whole : Bool := false
  body : Iss → Act

/-- The operation whose result an operand awaits in some of the octets (R119). -/
def Iss.awaited (x : Iss) (octs : List Nat) (n : Need) : Option Nat :=
  match n.o with
  | .v i => (x.g0.v.find? (fun e => e.busy.isSome && e.pend.isEmpty && i.toNat ≤ e.name && e.name < i.toNat + n.n
      && octs.contains e.octet)).bind VEnt.busy
  | .w i => (x.g0.wr.find? (fun e => e.busy.isSome && i.toNat ≤ e.name && e.name < i.toNat + n.n)).bind WEnt.busy
  | .s i => (x.p0.sBusy.find? (fun e => i.toNat ≤ e.1 && e.1 < i.toNat + (if n.sEven then 2 else 1))).map Prod.snd
  | _ => none

/-- The wait-reason code of a stall on an operation's result (R119, R212). DEDUCED: log entry 22. -/
def State.resultCode (s : State) (op : Nat) : BitVec 8 :=
  if s.ops.remote.any (fun o => o.inst = op) then wREMOTE
  else if s.ops.colls.any (fun o => o.id = op) then wCOLLECTIVE
  else if s.ops.mem.any (fun o => o.id = op && o.kind = .ldra) then wREMOTE
  else 0

/-- A memory or remote instruction of a split, or of its region, has not passed its class T checks (R125). DEDUCED: log entry 16. -/
def State.unchecked (s : State) (k : GroupKey) (sid : Nat) (region : Option Word64) : Bool :=
  let k' : GroupKey := { k with shadow := false }
  let mine (g : GroupKey) (i : Nat) (r : Option Word64) : Bool := g = k' && (i = sid || (region.isSome && r = region))
  s.ops.mem.any (fun o => !o.checked && mine o.g o.sid o.region) || s.ops.remote.any (fun o => !o.checked && mine o.g o.sid o.region)
    || s.mtx.ops.any (fun o => o.kind == .mkld && mine o.g o.sid o.region)

/-- The v and w sources that HOLD or a last-read bit names: they are read for every thread of the split (R22 to R24, R96). -/
def keptNeeds (w : View) : List Need :=
  let pos := match w.c.hold with
    | .none => 0
    | .srcA => 1
    | .srcB => 2
    | .srcC => 3
  let lr (n : Nat) : Bool := if n = 1 then w.c.lrA else if n = 2 then w.c.lrB else w.c.lrC
  w.needs.filter (fun n => w.sources.any (fun e => e.2.1 = n.o && (e.1 = pos || lr e.1)) && (match n.o with
    | .v _ => true
    | .w _ => true
    | _ => false))

/-- The operation whose result the instruction stalls on: of an operand of an active thread, or of a source that is held or
read for the last time, whatever threads are active (R22, R119). -/
def Iss.stalledOn (x : Iss) (w : View) : Option Nat :=
  match (if x.any then w.needs.findSome? (x.awaited x.octs) else none) with
  | some op => some op
  | none => (keptNeeds w).findSome? (x.awaited (x.g0.octets x.splitLive))

/-- A held value may be read by the two instructions after the hold (R23). -/
def Split.latchFresh (p : Split) (i : Nat) : Bool :=
  match p.latch[i]? with
  | some h => decide (h.age < 2)
  | none => false

/-- The sources of an instruction, one in the DST field included with position 0. -/
def allSources (w : View) (data : Option Opnd) : List (Nat × Opnd × Nat) :=
  w.sources ++ (data.map (fun o => (0, o, ((w.needs.find? (fun n => n.o = o)).map Need.n).getD 1))).toList

/-- The first expired h source: its index and its position (R118, R123). DEDUCED: log entry 14. -/
def Iss.expired (x : Iss) (w : View) (data : Option Opnd) : Option (Nat × Nat) :=
  (allSources w data).findSome? (fun (e : Nat × Opnd × Nat) =>
    match e.2.1 with
    | .h i => if x.p0.latchFresh i.val then none else some (i.val, e.1)
    | _ => none)

/-- The first w source that a regrouping invalidated (R101). -/
def Iss.staleW (x : Iss) (w : View) (data : Option Opnd) : Option Nat :=
  (allSources w data).findSome? (fun (e : Nat × Opnd × Nat) =>
    match e.2.1 with
    | .w i => (namesFrom i.toNat e.2.2).find? (fun n => x.g0.stale.getLsbD n)
    | _ => none)

/-- Last reads of the sources whose LR bit is set (R24, R113); R96 asks for the octet's threads, active or not (R22).
DEDUCED: log entry 14. -/
def Iss.lastReads (x : Iss) (w : View) : Iss :=
  let lr (n : Nat) : Bool := if n = 1 then w.c.lrA else if n = 2 then w.c.lrB else w.c.lrC
  { x with g := w.sources.foldl (fun g e =>
      match e.2.1 with
      | .v i => if lr e.1 then g.lastReads x.p0 (namesFrom i.toNat e.2.2) else g
      | _ => g) x.g }

/-- The value HOLD copies, for every thread of the group (R23). DEDUCED: log entry 14. -/
def Iss.held (x : Iss) (w : View) : Option (List Word64) :=
  let pos := match w.c.hold with
    | .none => 0
    | .srcA => 1
    | .srcB => 2
    | .srcC => 3
  (w.sources.find? (fun e => e.1 = pos)).map (fun e => (List.range x.g0.f).map (fun t => x.val e.2.1 e.2.2 t))

/-- The issue of a split's instruction begins: the state as read and the active threads. -/
def Iss.start (s : State) (g : Group) (p : Split) (c : Ctl) (shared : List Nat) : Iss :=
  { s0 := s, g0 := g, p0 := p, s := s, g := g, p := p, act := g.activeMask p c, c := c, shared := shared }

/-- The flag an issue selects stands at 63 (R18). -/
def Iss.flagFull (x : Iss) : Bool := match x.flag? with
  | some n => decide (63 ≤ x.g0.flag n)
  | none => false

/-- Everything that comes before the instruction's own effect: waits, then faults of issue, then last reads. The waits and the
last reads do not depend on active threads (R22); the faults name some. -/
def Meaning.prepare (m : Meaning) (x : Iss) : Act :=
  if m.nonIdem x && x.s0.unchecked x.k x.sid x.p0.region then .stall 0 none
  else if x.s0.passWaits { x.k with shadow := false } then .stall 0 none
  else if x.any && x.g0.det && m.det x then x.fault cDET_VIOLATION 0 x.act
  else
    match x.stalledOn m.view with
    | some op => .stall (x.s0.resultCode op) (some op)
    | none =>
      if x.flagFull then .stall wFLAG none
      else if !x.any then .ok (x.lastReads m.view)
      else
        match x.expired m.view m.data with
        | some (i, pos) =>
          .trap x { x.p0.trapInfo cLATCH_EXPIRED (BitVec.ofNat 64 i) x.act with detail := BitVec.ofNat 16 pos }
        | none =>
          match (if m.ownStale then none else x.staleW m.view m.data) with
          | some n => x.fault cSTALE_SHARED (BitVec.ofNat 64 n) x.act
          | none => .ok (x.lastReads m.view)

/-- The issue up to its effect. -/
def Meaning.issue (m : Meaning) (x : Iss) : Act := (m.prepare x).andThen m.body

/-- A split after an issue: its view of the operand latch (R23, R95), and no wait that a save record named (R211). -/
def Split.pushLatch (p : Split) (held : Option (List Word64)) : Split :=
  { p with latch := ((held.map (fun v => (⟨v, 0⟩ : Held))).toList ++ p.latch.map (fun (h : Held) => { h with age := h.age + 1 })).take 3, bound := none }

/-- The counters of the group at an issue (R93, R208, R213). -/
def Group.issued (g : Group) (cycle sid : Nat) : Group := { g with lastIssue := cycle, lastSplit := sid, readyFor := 0, wd := 0 }

/-- A clause with YIELD set has ended (R17, R208). -/
def Group.yields (g : Group) (header : Word64) : Group := { g with yieldHint := g.yieldHint || header.getLsbD 24 }

/-- How many slots the header counts (R15). -/
def Split.count (p : Split) : Nat := (p.header.extractLsb' 20 3).toNat

/-- The parts of a dividing split go to the boundary, the kept one first. -/
def State.divideTo (s : State) (k : GroupKey) (sid : Nat) (parts : List Part) : State :=
  match s.group? k with
  | none => s
  | some g =>
    match g.split? sid with
    | none => s
    | some p =>
      match g.divide { p with st := .boundary, slot := 1 } parts with
      | none => s
      | some g' =>
        let news := (g'.splits.map Split.sid).filter (fun x => g.nextSid ≤ x)
        (sid :: news).foldl (fun s x => s.reachBoundary k x) (s.putGroup g')

/-- The instruction blocks its split at this slot: it counts as issued when the wait is over (R97). -/
def Flow.blocks : Flow → Bool
  | .block _ => true
  | _ => false

/-- The effect of an issue put into the state, and the split moved on (R19, R97). A non-idempotent instruction ends the region
(R126), with the end of its wait where it blocks (R130). A flag whose operation is performed at the issue counts up and down
in it (R18). DEDUCED: log entry 16. -/
def Meaning.finish (m : Meaning) (x : Iss) : State :=
  let region := if m.nonIdem x && !x.flow.blocks then none else x.p.region
  let p := { x.p.pushLatch (x.held m.view) with region := region }
  let g := (x.g.issued x.s0.cycle x.sid).putSplit p
  let g := if x.flagUp then (match x.flag? with | some n => g.incFlag n | none => g) else g
  let adv := if m.lit then 2 else 1
  let past := x.p0.count < x.p0.slot + adv
  let s := x.s
  match x.flow with
  | .seq =>
    if past then (s.putGroup ((g.yields x.p0.header).putSplit { p with pc := p.pc + 64, slot := 1 })).reachBoundary x.k x.sid
    else s.putGroup (g.putSplit { p with slot := p.slot + adv })
  | .jump parts => (s.putGroup (g.yields x.p0.header)).divideTo x.k x.sid parts
  | .block w => s.putGroup (g.putSplit { p with st := .blocked w })
  | .own f => f (s.putGroup g)

/-- The split waits at this instruction, which has taken no effect (R97). -/
def State.waitAt (s : State) (k : GroupKey) (sid : Nat) (code : BitVec 8) (op : Option Nat) : State :=
  s.modGroup k (fun g =>
    match g.split? sid with
    | some p => g.putSplit { p with st := .blocked (.retry code op) }
    | none => g)

/-- A fault with the effects of the committed threads, if any (R127, R128). -/
def Iss.trapState (x : Iss) (i : TrapInfo) : State :=
  let g := if x.flagUp then (match x.flag? with | some n => x.g.incFlag n | none => x.g) else x.g
  (x.s.putGroup (g.putSplit x.p)).takeTrap x.k x.sid i x.p0.region

/-- How an issue ends, put into the state. -/
def Meaning.settle (m : Meaning) (s : State) (k : GroupKey) (sid : Nat) (a : Act) : State :=
  match a with
  | .ok x => m.finish x
  | .stall c b => s.waitAt k sid c b
  | .hold s1 c => s1.waitAt k sid c none
  | .trap x i => x.trapState i

/-- The shadow copy's split of a check pair, while the pair runs compared (R106, R110). -/
def State.shadowOf (s : State) (g : Group) (sid : Nat) : Option (Group × Split) :=
  if g.pairchk && !g.key.shadow then
    match s.group? { g.key with shadow := true } with
    | some h => (h.split? sid).map (fun p => (h, p))
    | none => none
  else none

/-- The comparison of R108 finds a difference: in the active masks or in what the instruction's kind compares. -/
def Meaning.differs (m : Meaning) (x y : Iss) : Bool :=
  match m.cmp with
  | none => false
  | some f => x.act != y.act || f x != f y

/-- The threads a difference names in a copy (R109): those whose compared items differ, or every active thread. -/
def Meaning.differ (m : Meaning) (x y : Iss) : Mask :=
  if m.whole then x.act
  else
    match m.cmp with
    | none => 0#512
    | some f => (x.act ^^^ y.act) ||| maskOf x.g0.f (fun t => (f x).filter (fun e => e.1 = t) != (f y).filter (fun e => e.1 = t))

/-- One instruction of a check pair, both copies in lockstep (R106 to R109); they are compared while GSTAT.PAIRCHK is 1. -/
def Meaning.pair (m : Meaning) (s : State) (x : Iss) (h : Group) (q : Split) : State :=
  let y := Iss.start s h q x.c []
  let bad := x.g0.chk && (match m.prepare x, m.prepare y with
    | .ok x1, .ok y1 => m.differs x1 y1
    | _, _ => false)
  let both (i : TrapInfo) (s : State) : State :=
    ((s.takeTrap x.k x.sid i x.p0.region).takeTrap y.k y.sid i y.p0.region)
  if bad then
    (s.takeTrap x.k x.sid (x.p0.trapInfo cPAIR_MISMATCH 0 (m.differ x y)) x.p0.region).takeTrap y.k y.sid
      (q.trapInfo cPAIR_MISMATCH 0 (m.differ y x)) y.p0.region
  else
    match m.issue x with
    | .stall c b => (s.waitAt x.k x.sid c b).waitAt y.k y.sid c b
    | .hold s1 c => (s1.waitAt x.k x.sid c none).waitAt y.k y.sid c none
    | .trap x1 i =>
      let s1 := x1.trapState i
      match s1.group? y.k with
      | none => s1
      | some h1 =>
        match m.issue (Iss.start s1 h1 q x.c x1.shared) with
        | .trap y1 j => y1.trapState j
        | _ => s1.takeTrap y.k y.sid i y.p0.region
    | .ok x1 =>
      let s1 := m.finish x1
      let a := match (s1.group? y.k).bind (fun h1 => (h1.split? y.sid).map (fun q1 => (h1, q1))) with
        | some (h1, q1) => m.issue (Iss.start s1 h1 q1 x.c x1.shared)
        | none => .ok x1
      match a with
      | .ok y1 => if y1.k = y.k then m.finish y1 else s1
      | .stall c b => (s.waitAt x.k x.sid c b).waitAt y.k y.sid c b
      | .hold s2 c => (s2.waitAt x.k x.sid c none).waitAt y.k y.sid c none
      | .trap _ i => both i s

/-- The split that issues, with its group. -/
def State.issuer (s : State) : Option (Group × Split) :=
  match s.sched.cur with
  | none => none
  | some key =>
    match s.group? key.g with
    | none => none
    | some g => (g.split? key.sid).map (fun p => (g, p))

/-- No split is selected any more. -/
def State.clearCur (s : State) : State := s.setSched { s.sched with cur := none }

/-- The meaning of a core instruction for the split selected to issue it. -/
def runCore (m : Meaning) (s : State) : Result :=
  match s.issuer with
  | none => .fault .noIssuer
  | some (g, p) =>
    let x := Iss.start s g p m.view.c []
    match s.shadowOf g p.sid with
    | none => .next (m.settle s g.key p.sid (m.issue x)).clearCur
    | some (h, q) => .next (m.pair s x h q).clearCur

/-- An encoding the core rejects (R33): the fault is taken whatever the predicate, and names every thread of the
split. -/
def decodeFault (code : BitVec 8) (addr : Word64) (s : State) : Result :=
  match s.issuer with
  | none => .fault .noIssuer
  | some (g, p) =>
    let take (s : State) (g : Group) (p : Split) : State :=
      s.takeTrap g.key p.sid (p.trapInfo code addr (g.splitLive p)) p.region
    match s.shadowOf g p.sid with
    | none => .next (take s g p).clearCur
    | some (h, q) => .next (take (take s g p) h q).clearCur

end Sys2Proof.Machine
end

