-- ==== Sys2Proof/Machine/Cache.lean ====
section
/-! DEFINITION. The homes, the L1s and the RDCs (spec/08_memory_hierarchy.md R166 to R178, R187), monitors
(spec/10_atomic_fence_remote_instructions.md R231) and the acquire action (R218). -/

namespace Sys2Proof.Machine

/-! ## The home L2 (R175, R176, R187, R220) -/

/-- The first enabled residency entry that holds an address (R187). -/
def Context.resFor (c : Context) (va : Nat) : Option ResEnt :=
  c.res.find? (fun e => e.en && e.base ≤ va && va < e.limit && e.ways != 0#8)

/-- The class a line takes and the ways it may use (R187): 2 is retained. -/
def State.homeClass (s : State) (ctx va : Nat) (a : Attr) : BitVec 2 × BitVec 8 :=
  if a.cls = 2#2 then
    match (s.ctx? ctx).bind (fun c => c.resFor va) with
    | some e => if ((va / 2 ^ 7) % 2 ^ 8) ^^^ ((va / 2 ^ 15) % 2 ^ 8) < e.ratio then (2, e.ways) else (0, 0)
    | none => (0, 0)
  else (a.cls, 0)

/-- The release tag of a line (R220). -/
def Mem.tag? (m : Mem) (line : Nat) : Option Nat := (m.tags.find? (fun e => e.1 = line)).map Prod.snd
def Mem.setTag (m : Mem) (line : Nat) (core : Option Nat) : Mem :=
  let rest := m.tags.filter (fun e => e.1 ≠ line)
  { m with tags := match core with
      | some c => (line, c) :: rest
      | none => rest }

/-- The set of a line in its home L2 of 64 MiB with 16 ways: the low bits of its stack address count the sets. DESIGN CHOICE:
log entry 41. -/
def homeSet (line : Nat) : Nat := stackAddr (line * 128) / 128 % 32768

/-- Two lines stand in the same set of the same home L2. -/
def sameSet (a b : Nat) : Bool := homeDie (a * 128) == homeDie (b * 128) && homeSet a == homeSet b

/-- The ways, counted from way 8, that an enabled entry of a resident context names (R187). -/
def State.reservedWays (s : State) : BitVec 8 := (s.ctxs.flatMap Context.res).foldl (fun m e => if e.en then m ||| e.ways else m) 0

/-- The ways a line of a class may take (R187): a retained line its mask, any other ways 0 to 7 and those no entry names. -/
def homeWays (reserved : BitVec 8) (cls : BitVec 2) (ways : BitVec 8) : List Nat :=
  if cls = 2#2 then ((List.range 8).filter (fun n => ways.getLsbD n)).map (fun n => 8 + n)
  else List.range 8 ++ ((List.range 8).filter (fun n => !reserved.getLsbD n)).map (fun n => 8 + n)

/-- A line may leave its home L2 for one of a class: only a retained line replaces a retained one, and a tagged line's core has
answered its flush (R187, R220). -/
def State.mayLeave (s : State) (cls : BitVec 2) (h : HomeLine) : Bool :=
  (h.cls != 2#2 || cls == 2#2) && (match s.mem.tag? h.line with
    | some c => s.flushReady c
    | none => true)

/-- The way a line takes in its home L2, with the line that leaves it: a free one of its ways, else the least recently used, for
a retained line one that is not retained first; none where no line of them may leave. DEDUCED: log entry 18. -/
def State.homeSlot (s : State) (line : Nat) (cls : BitVec 2) (ways : BitVec 8) : Option (Nat × Option HomeLine) :=
  let set := s.mem.hl2.filter (fun h => h.line != line && sameSet h.line line)
  let ws := homeWays s.reservedWays cls ways
  match ws.find? (fun w => set.all (fun h => h.way != w)) with
  | some w => some (w, none)
  | none =>
    match (sortBy (fun (h : HomeLine) => h.used + (if h.cls = 2#2 then 2 ^ 64 else 0)) (set.filter (fun h => ws.contains h.way && s.mayLeave cls h))).head? with
    | some h => some (h.way, some h)
    | none => none

/-- A line stands in its home L2, in the place of another, whose tag is empty then. -/
def Mem.homePut (m : Mem) (h : HomeLine) (gone : Option HomeLine) : Mem :=
  let m1 := match gone with
    | some v => m.setTag v.line none
    | none => m
  { m1 with hl2 := h :: m1.hl2.filter (fun x => x.line ≠ h.line && (gone.map (fun v => decide (x.line ≠ v.line))).getD true) }

/-- An access of a class reaches a line's home L2, which holds the line from then on (R175, R187); `dirty` marks the granules
written. A line that becomes retained takes one of its ways, and a retained one stays so; a streaming access leaves a streaming
line where it stands. Where no line may leave for it the line is not kept. DEDUCED: log entry 18. -/
def State.homeTake (s : State) (line : Nat) (dirty : BitVec 2) (cls : BitVec 2) (ways : BitVec 8) (ctx va : Nat) : State :=
  let used := (s.mem.hl2.map HomeLine.used).foldl max 0 + 1
  match s.mem.hl2.find? (fun h => h.line = line) with
  | some h =>
    let here : HomeLine := { h with dirty := h.dirty ||| dirty, used := if h.cls = 1#2 && cls = 1#2 then h.used else used }
    if h.cls = 2#2 then s.setMem (s.mem.homePut here none)
    else if cls = 2#2 then
      match s.homeSlot line cls ways with
      | some (w, gone) => s.setMem (s.mem.homePut { here with way := w, cls := cls, ways := ways, ctx := ctx, va := va } gone)
      | none => s.setMem (s.mem.homePut here none)
    else s.setMem (s.mem.homePut { here with cls := cls } none)
  | none =>
    match s.homeSlot line cls ways with
    | some (w, gone) => s.setMem (s.mem.homePut ⟨line, w, cls, dirty, if cls = 1#2 then 0 else used, ways, ctx, va⟩ gone)
    | none => s

/-- The 128-byte lines a range touches. -/
def linesOf (pa n : Nat) : List Nat := (List.range ((pa % 128 + n + 127) / 128)).map (fun i => pa / 128 + i)

/-- The attributes of an access that has no page of its own here: normal class. -/
def normalAttr : Attr := ⟨0, 0, false, false, 1, 0⟩

/-- The lines of an access stand in their home L2, under their class (R175, R187). -/
def State.homeLines (s : State) (ctx va pa n : Nat) (a : Attr) : State :=
  if isHbm pa then
    let (cls, ways) := s.homeClass ctx va a
    (linesOf pa n).foldl (fun (s : State) l => s.homeTake l 0 cls ways ctx va) s
  else s

/-- An access of a context reaches its home: its lines stand in the home L2 and the die counts as touched (R175, R187, R382). -/
def State.homeSeen (s : State) (ctx va pa n : Nat) (a : Attr) : State := (s.homeLines ctx va pa n a).touchPa ctx pa

/-- Granules of a line that a write marks dirty, where the home L2 holds it; elsewhere the write goes on to HBM (R175). -/
def Mem.homeDirty (m : Mem) (line : Nat) (dirty : BitVec 2) : Mem :=
  { m with hl2 := m.hl2.map (fun h => if h.line = line then { h with dirty := h.dirty ||| dirty } else h) }

/-- Bytes read at the home; none when a granule is poisoned or its die is lost (R176, R383). -/
def State.homeRead (s : State) (pa n : Nat) (key : BitVec 10) : Option (List Byte) :=
  if isHbm pa && (s.mem.poisoned pa n || s.dieLost (homeDie pa)) then none
  else some (s.mem.readUnder (s.accKey pa key) pa n)

/-! ## Acquires (R171, R178, R218) -/

/-- The action of an acquire at a scope by a core for a context (R218). -/
def Mem.acquire (m : Mem) (core ctx : Nat) (scope : Scope) (spans : Bool) : Mem :=
  let l1 := match scope with
    | .grp => m.l1
    | .team => if spans then m.l1.filter (fun l => !(l.core = core && l.ctx = ctx && !l.priv)) else m.l1
    | _ => m.l1.filter (fun l => !(l.core = core && l.ctx = ctx && !l.priv))
  { m with l1 := l1, rdc := if scope = .sys then m.rdc.filter (fun l => l.ctx ≠ ctx) else m.rdc }

/-- The acquire action for a group. -/
def State.acquire (s : State) (k : GroupKey) (core ctx : Nat) (scope : Scope) : State :=
  s.setMem (s.mem.acquire core ctx scope (s.teamSpans k.team))

/-! ## Monitors (R231) -/

/-- A condition on a watched value. -/
def monitorTrue (cc : Sys2Proof.Cond) (nat : Bool) (b : Word64) (bytes : List Byte) : Bool :=
  let n := 8 * bytes.length
  condInt cc (extInt (!nat) n (BitVec.ofNat 64 (leNat bytes))) (extInt (!nat) n b)

/-- The operation an identifier names. -/
def State.memOp? (s : State) (id : Nat) : Option MemOp := s.ops.mem.find? (fun o => o.id = id)
def State.putMemOp (s : State) (o : MemOp) : State :=
  s.setOps { s.ops with mem := s.ops.mem.map (fun p => if p.id = o.id then o else p) }
def State.dropMemOp (s : State) (id : Nat) : State := s.setOps { s.ops with mem := s.ops.mem.filter (fun p => p.id ≠ id) }
def State.addMemOp (s : State) (o : MemOp) : State := s.setOps { s.ops with mem := s.ops.mem ++ [o] }

/-- The source of a packet that no port has begun to send: it is named as it is sent (R402). -/
def unsentSrc : Nat := 512

/-- The next packet number for a destination (R363), and a packet that waits for a port. -/
def State.sendPacket (s : State) (dst : Nat) (ch : BitVec 3) (dests : BitVec 512) (queue : Nat) (note : Note) : State :=
  let n := lookupD s.isl.nums dst 0
  s.setIsl { s.isl with
    nums := insertKey s.isl.nums dst (n + 1)
    outbox := s.isl.outbox ++ [⟨unsentSrc, dst, n, ch, dests, queue, [], note⟩] }

/-- The watched bytes of a monitor. -/
def State.watched (s : State) (m : Monitor) : List Byte := s.mem.readUnder (s.accKey m.pa m.slot) m.pa m.size

/-- A WAITC whose check found its condition true: it completes as an acquire, and its entry is freed. A peer's is answered. -/
def State.wake (s : State) (id : Nat) : State :=
  let s1 := s.setMem { s.mem with monitors := s.mem.monitors.filter (fun m => m.op ≠ id) }
  match s1.memOp? id, s.mem.monitors.find? (fun m => m.op = id) with
  | some o, _ => (s1.acquire o.g o.core o.ctx o.scope).dropMemOp id
  | none, some m =>
    (match m.peer with
     | some d => s1.sendPacket d 2 0 0 (.wake id (.data (s.watched m)))
     | none => s1)
  | none, none => s1

/-- Every entry whose watched bytes a write touched is re-evaluated. -/
def State.checkMonitors (s : State) (pa n : Nat) : State :=
  (s.mem.monitors.filter (fun m => !m.held && m.pa < pa + n && pa < m.pa + m.size)).foldl
    (fun s m => if monitorTrue m.cc m.nat m.b (s.watched m) then s.wake m.op else s) s

/-- Bytes written at their home, in lines that stand in the home L2: their granules dirty, the tag of each line set or emptied,
poison cleared where whole granules are written, monitors re-evaluated (R175, R176, R220, R231). -/
def State.homeWrite (s : State) (pa : Nat) (bs : List Byte) (key : BitVec 10) (tag : Option Nat) : State :=
  let m1 := (s.mem.writeUnder (s.accKey pa key) pa bs).unpoison pa bs.length
  let m2 := (linesOf pa bs.length).foldl (fun m l => m.setTag l tag) m1
  let s3 := if isHbm pa then
      s.setMem ((linesOf pa bs.length).foldl (fun (m : Mem) l =>
        m.homeDirty l (BitVec.ofNat 2 ((if l * 128 + 64 ≤ pa then 0 else 1) + (if l * 128 + 64 < pa + bs.length then 2 else 0)))) m2)
    else s.setMem m2
  s3.checkMonitors pa bs.length

/-! ## The L1 (R169 to R172) -/

/-- Lines an L1 holds: the units that the scratchpads of the core's teams leave, at most four (R170). -/
def State.l1Lines (s : State) (core : Nat) : Nat :=
  let units := ((s.teams.filter (fun t => t.core = core || (t.pair && t.core + 1 = core))).map (fun t => (t.k + 65535) / 65536)).sum
  512 * min 4 (6 - units)

def Mem.l1? (m : Mem) (core ctx line : Nat) : Option L1Line :=
  m.l1.find? (fun l => l.core = core && l.ctx = ctx && l.line = line)

/-- A dirty private line goes back to its home (R172); one that holds an uncorrectable error leaves its granules poisoned there
(R176). -/
def State.writeBack (s : State) (l : L1Line) : State :=
  if l.dirty then
    let s1 := (s.homeSeen l.ctx l.va (l.line * 128) 128 { normalAttr with cls := l.cls }).homeWrite (l.line * 128) l.data l.key none
    if l.bad then s1.setMem { s1.mem with poison := addOnce (addOnce s1.mem.poison (2 * l.line)) (2 * l.line + 1) } else s1
  else s

/-- One line leaves an L1 that is full: which one is a free choice. -/
def State.l1Room (s : State) (core : Nat) : State :=
  let here := s.mem.l1.filter (fun l => l.core = core)
  if here.length < s.l1Lines core then s
  else
    let (n, s1) := s.freshFree
    match here[Config.choice n here.length % here.length]? with
    | none => s1
    | some v =>
      let s2 := s1.writeBack v
      s2.setMem { s2.mem with l1 := s2.mem.l1.filter (fun l => !(l.core = v.core && l.ctx = v.ctx && l.line = v.line)) }

/-- Bytes of a range laid over the bytes of another that begins at `base`. -/
def overlay (base : Nat) (bytes : List Byte) (pa : Nat) (new : List Byte) : List Byte :=
  bytes.mapIdx (fun i b => if pa ≤ base + i && base + i < pa + new.length then new.getD (base + i - pa) b else b)

/-- Stores of a core that are performed for the core and not yet at their home, oldest first (R218). -/
def State.pendingStores (s : State) (core ctx : Nat) : List Piece :=
  (s.ops.mem.filter (fun o => o.core = core && o.ctx = ctx && o.kind = .store && !o.late)).flatMap (fun o =>
    o.pieces.filter (fun p => p.st = .todo || p.st = .lost))

/-- A line as the home holds it under a key, with the core's own pending stores laid over it. -/
def State.lineBytes (s : State) (core ctx line : Nat) (key : BitVec 10) : List Byte :=
  (s.pendingStores core ctx).foldl (fun bs p => overlay (line * 128) bs p.pa p.data)
    (s.mem.readUnder (s.accKey (line * 128) key) (line * 128) 128)

/-- The line of a piece filled into an L1 from its home, which holds it from then on (R169, R175). -/
def State.l1Fill (s : State) (core ctx : Nat) (p : Piece) (priv : Bool) : State :=
  let line := p.pa / 128
  match s.mem.l1? core ctx line with
  | some _ => s
  | none =>
    let s1 := (s.l1Room core).homeSeen ctx p.va (line * 128) 128 p.attr
    s1.setMem { s1.mem with
      l1 := ⟨core, ctx, line, s1.lineBytes core ctx line p.attr.key, priv, false, p.attr.key, false, p.va, p.attr.cls⟩ :: s1.mem.l1 }

/-- A store updates the lines present in its core's L1 (R169); a private store marks them dirty. -/
def Mem.l1Store (m : Mem) (core ctx pa : Nat) (bs : List Byte) (priv : Bool) : Mem :=
  { m with l1 := m.l1.map (fun l =>
      if l.core = core && l.ctx = ctx && l.line * 128 < pa + bs.length && pa < l.line * 128 + 128 then
        { l with data := overlay (l.line * 128) l.data pa bs, priv := l.priv || priv, dirty := l.dirty || priv }
      else l) }

/-- An atomic leaves no line with its bytes in its core's L1, so that its thread's later loads find what it wrote (R252);
a private line keeps its bytes at its home. -/
def State.l1Drop (s : State) (core ctx line : Nat) : State :=
  match s.mem.l1? core ctx line with
  | none => s
  | some l =>
    let s1 := s.writeBack l
    s1.setMem { s1.mem with l1 := s1.mem.l1.filter (fun x => !(x.core = core && x.ctx = ctx && x.line = line)) }

/-- Every dirty private line of a context on a core goes back to its home; private lines leave the L1 (R172). -/
def State.flushPrivate (s : State) (core ctx : Nat) : State :=
  let mine (l : L1Line) : Bool := l.core = core && l.ctx = ctx && l.priv
  let s1 := (s.mem.l1.filter mine).foldl (fun s l => s.writeBack l) s
  s1.setMem { s1.mem with l1 := s1.mem.l1.filter (fun l => !mine l) }

/-! ## The RDC (R177, R178) -/

def Mem.rdc? (m : Mem) (bdie ctx line : Nat) : Option RdcLine :=
  m.rdc.find? (fun l => l.bdie = bdie && l.ctx = ctx && l.line = line)
/-- Some byte of a range in a line is read at the peer. -/
def RdcLine.skips (l : RdcLine) (pa n : Nat) : Bool := (List.range n).any (fun i => l.skip.getLsbD (pa % 128 + i))
/-- A line leaves an RDC that holds its 128 MiB (R177): which one is a free choice. -/
def State.rdcRoom (s : State) (bdie : Nat) : State :=
  let here := s.mem.rdc.filter (fun l => l.bdie = bdie)
  if here.length < 2 ^ 20 then s
  else
    let (n, s1) := s.freshFree
    match here[Config.choice n here.length % here.length]? with
    | some v => s1.setMem { s1.mem with rdc := s1.mem.rdc.erase v }
    | none => s1
/-- A line of a remote frame is allocated. -/
def State.rdcFill (s : State) (bdie ctx line : Nat) (data : List Byte) (skip : BitVec 128) : State :=
  let s1 := s.rdcRoom bdie
  s1.setMem { s1.mem with rdc := ⟨bdie, ctx, line, data, skip⟩ :: s1.mem.rdc.filter (fun l => !(l.bdie = bdie && l.ctx = ctx && l.line = line)) }
/-- A store to a remote frame updates the line if it is present. -/
def Mem.rdcStore (m : Mem) (bdie ctx pa : Nat) (bs : List Byte) : Mem :=
  { m with rdc := m.rdc.map (fun l =>
      if l.bdie = bdie && l.ctx = ctx && l.line * 128 < pa + bs.length && pa < l.line * 128 + 128 then
        { l with data := overlay (l.line * 128) l.data pa bs }
      else l) }
/-- The bits of a line's bytes that a range takes. -/
def skipBits (line pa n : Nat) : BitVec 128 :=
  (List.range 128).foldl (fun m i => if pa ≤ line * 128 + i && line * 128 + i < pa + n then m ||| BitVec.twoPow 128 i else m) 0#128
/-- An access of a context that bypasses the RDC writes bytes of a remote frame: a line that is present stays, and those bytes
are read at the peer from then on (R177, R178, R219, R252). DEDUCED: log entry 18. -/
def Mem.rdcSkip (m : Mem) (bdie ctx pa n : Nat) : Mem :=
  { m with rdc := m.rdc.map (fun l =>
      if l.bdie = bdie && l.ctx = ctx && l.line * 128 < pa + n && pa < l.line * 128 + 128 then { l with skip := l.skip ||| skipBits l.line pa n }
      else l) }

/-! ## Remote frames and windows (R368, R369) -/

/-- The device and the local address of a remote frame address (R173). -/
def frameDev (pa : Nat) : Nat := pa / 2 ^ 42 % 512
def frameOff (pa : Nat) : Nat := pa % 2 ^ 42

/-- The range belongs to another device. DEDUCED: log entry 39. -/
def State.elsewhere (s : State) (pa : Nat) : Bool := isRemote pa && frameDev pa != s.pkg.device.toNat

/-- A window's fields (R368). -/
def Window.base (w : Window) : Nat := field w.w0 12 27 * 4096
def Window.size (w : Window) : Nat := field w.w1 12 28 * 4096
def Window.key (w : Window) : BitVec 10 := BitVec.ofNat 10 (field w.w2 22 10)

/-- An entry counts as enabled (R368). -/
def State.windowOn (s : State) (w : Window) : Bool :=
  bitAt w.w2 0 && field w.w0 0 12 == 0 && field w.w0 39 25 == 0 && field w.w1 0 12 == 0 && field w.w1 40 24 == 0
    && field w.w2 5 17 == 0 && field w.w2 32 32 == 0 && w.w3 == 0 && w.size != 0 && w.base + w.size ≤ 2 ^ 39
    && (s.keyOf w.key.toNat).isSome

/-- What an access through a window needs. -/
inductive WinNeed | read | write | atomic
  deriving DecidableEq, Repr

def Window.grants (w : Window) (n : WinNeed) : Bool :=
  match n with
  | .read => bitAt w.w2 1
  | .write => bitAt w.w2 2
  | .atomic => bitAt w.w2 3

/-- Window n of this device as it stands; one never written is not enabled. -/
def State.window (s : State) (n : Nat) : Window :=
  (s.isl.windows.find? (fun w => w.n = n)).getD ⟨n, 0, 0, 0, 0⟩

/-- The local address and key an access through window n reaches, or none where it raises REMOTE_WINDOW (R233). -/
def State.windowAddr (s : State) (n off size : Nat) (need : WinNeed) : Option (Nat × BitVec 10) :=
  let w := s.window n
  if s.windowOn w && w.grants need && off + size ≤ w.size then some (w.base + off, w.key) else none

/-- The local address and key of a remote-frame access that arrives here (R369). -/
def State.frameAddr (s : State) (off size : Nat) (need : WinNeed) : Option (Nat × BitVec 10) :=
  match (List.range 64).findSome? (fun n =>
      let w := s.window n
      if s.windowOn w && bitAt w.w2 4 && w.base ≤ off && off + size ≤ w.base + w.size then some w else none) with
  | none => none
  | some w => if w.grants need then some (off, w.key) else none

/-! ## Accesses that reach a home (R175, R185, R187, R382) -/

/-- An access through a remote frame of this device reaches the home behind it, where its window admits it; such an access is of
normal class there. DEDUCED: log entry 18. -/
def State.frameSeen (s : State) (ctx pa n : Nat) (need : WinNeed) : State :=
  if frameDev pa = s.pkg.device.toNat then
    match s.frameAddr (frameOff pa) n need with
    | some (a, _) => s.homeSeen ctx 0 a n normalAttr
    | none => s
  else s

/-- A range that a core or its engine reads or writes reaches its home, unless a line of the core's L1 serves the read. -/
def State.rangeSeen (s : State) (core ctx va pa n : Nat) (a : Attr) (need : WinNeed) : State :=
  if isRemote pa then s.frameSeen ctx pa n need
  else if need = .read && (s.mem.l1? core ctx (pa / 128)).isSome then s
  else s.homeSeen ctx va pa n a

/-- The attributes of the page that an address lies on for a core: an engine's access takes its class from them (R185). -/
def State.attrAt (s : State) (core ctx va : Nat) : Attr :=
  match s.leafFor core ctx va with
  | .ok (w0, w1) => leafAttr w0 w1
  | .error _ => normalAttr

/-- The same of a range an engine accesses. -/
def State.engineSeen (s : State) (core ctx va pa n : Nat) (need : WinNeed) : State :=
  s.rangeSeen core ctx va pa n (s.attrAt core ctx va) need

end Sys2Proof.Machine
end

