-- ==== Sys2Proof/Machine/Control.lean ====
section
/-! DEFINITION. Control flow and address registers (spec/02_core_instructions.md R68 to R70, R73, R74). -/

namespace Sys2Proof.Machine

/-! ## Where threads go -/

/-- A displacement target (R68). -/
def Iss.target (i : Iss) (disp : BitVec 18) : Word64 := i.p0.pc + (disp.signExtend 64) <<< 6
/-- The clause that follows (R19). -/
def Iss.nextClause (i : Iss) : Word64 := i.p0.pc + 64

/-- The parts of the split when some threads go to targets of their own and the others to the next clause (R69); a
deferral entry too many faults (R92). A split whose region has class T checks open divides when they have passed (R125). -/
def Iss.goTo (i : Iss) (taken : List Part) : Act :=
  let rest := i.splitLive &&& ~~~(taken.foldl (fun m p => m ||| p.1) 0#512)
  let parts := mkParts (taken ++ [(rest, i.nextClause)])
  match i.g.divide i.p parts with
  | none => i.fault cSPLIT_DEPTH 0 i.act
  | some _ =>
    if 1 < parts.length && i.s0.unchecked i.k i.sid i.p0.region then .stall 0 none else .ok { i with flow := .jump parts }

/-- Every thread of the split goes to one clause. -/
def Iss.allTo (i : Iss) (t : Word64) : Act := .ok { i with flow := .jump (mkParts [(i.splitLive, t)]) }

/-- A clause address (R14). -/
def aligned64 (x : Word64) : Bool := x &&& 63 == 0#64

/-! ## Control instructions -/

def execBra (x : Bra) (s : State) : Result :=
  runCore { view := x.view true, body := fun i => i.allTo (i.target x.disp) } s
def execBrc (x : Bra) (s : State) : Result :=
  runCore { view := x.view false, body := fun i => i.goTo [(i.act, i.target x.disp)] } s
/-- BRX (R68): each active thread at its own target; a target that is no clause address faults. With no active thread the
link is not written. DESIGN CHOICE: log entry 40. -/
def execBrx (x : Brx) (s : State) : Result :=
  runCore
    { view := x.view
      body := fun i =>
        let tgt (t : Nat) : Word64 := i.val x.a 2 t
        let bad := maskOf i.g0.f (fun t => i.act.getLsbD t && !aligned64 (tgt t))
        if bad != 0#512 then i.fault cALIGN (tgt ((lowestThread i.g0.f bad).getD 0)) bad
        else
          let j := match x.link with
            | some d => if i.any then i.writeS d i.nextClause else i
            | none => i
          j.goTo (i.threads.map (fun t => (BitVec.twoPow 512 t, tgt t))) } s
def execCall (x : Call) (s : State) : Result :=
  runCore { view := x.view, body := fun i => (i.writeS x.d i.nextClause).allTo (i.target x.disp) } s
def execRet (x : Ret) (s : State) : Result :=
  runCore
    { view := x.view
      body := fun i =>
        let t := i.uni x.a
        if aligned64 t then i.allTo t else i.fault cALIGN t i.splitLive } s
/-- EXIT (R70): active threads exit, the others go on at the next clause. It waits for the class T checks of the region,
whose faults replay it (R125). -/
def execExit (x : INone) (s : State) : Result :=
  runCore
    { view := x.view
      body := fun i =>
        if i.any && i.s0.unchecked i.k i.sid i.p0.region then .stall 0 none
        else
          let rest := i.splitLive &&& ~~~i.act
          let j := i.reload (i.commit.exitThreads i.k i.act)
          .ok { j with flow := .jump (mkParts [(rest, i.nextClause)]) } } s
/-- YIELD (R68): a hint to the scheduler alone. -/
def execYield (x : INone) (s : State) : Result :=
  runCore { view := x.view, body := fun i => .ok { i with g := { i.g with yieldHint := true } } } s
/-- PAUSE (R68): the group's priority is lowered for n cycles from this issue; with no active thread it is not. DESIGN CHOICE:
log entry 40. -/
def execPause (x : Pause) (s : State) : Result :=
  runCore
    { view := x.view
      body := fun i =>
        .ok (if i.any then { i with g := { i.g with pauseEnd := i.s0.cycle + x.n.toNat } } else i) } s

/-! ## Address registers (R73, R74) -/

/-- Bits 3:0 of the permissions: RD, W, A, P (R73). -/
def AReg.permBits (a : AReg) : Word64 :=
  BitVec.ofNat 64 (a.rd.toNat + 2 * a.wr.toNat + 4 * a.atm.toNat + 8 * a.pv.toNat)

/-- An a register as the words that R108 compares. -/
def AReg.items (a : AReg) : List Word64 := [a.ptr, a.base, a.limit, a.permBits]

/-- The team is regrouped (R102). -/
def Iss.regrouped (i : Iss) : Bool := ((i.s0.team? i.k.team).map Team.regrouped).getD false

/-- A fault of an encoding that the state makes illegal, whatever the predicate (R33). -/
def Iss.illegal (i : Iss) : Act := i.fault cILLEGAL_INSTRUCTION 0 i.splitLive

/-- A result into an a register, when some thread is active (R67, R74). -/
def Iss.uniWriteA (i : Iss) (d : Opnd) (v : AReg) : Act := .ok (if i.any then i.writeA d v else i)

/-- ASET (R74): P needs the handler's privilege, and no private register is set while the team is regrouped (R102). -/
def execAset (x : ASet) (s : State) : Result :=
  runCore
    { view := x.view
      body := fun i =>
        if (x.pv && !i.g0.priv) || (i.regrouped && (x.pv || (i.areg x.d).pv)) then i.illegal
        else i.uniWriteA x.d ⟨i.uni x.a, i.uni x.b, i.uni x.x, x.rd, x.wr, x.atm, x.pv⟩ } s
def execAdv (x : UBin) (s : State) : Result :=
  runCore
    { view := x.advView
      lit := x.b.isLit
      body := fun i =>
        let a := i.areg x.a
        i.uniWriteA x.d { a with ptr := a.ptr + i.uniSrc x.b } } s
def execArd (x : ARd) (s : State) : Result :=
  runCore
    { view := x.view
      body := fun i =>
        let a := i.areg x.a
        let v := match x.fld with
          | .ptr => a.ptr
          | .base => a.base
          | .limit => a.limit
          | .perm => a.permBits
        .ok (if i.any then i.writeS x.d v else i) } s
def execAnarrow (x : ANarrow) (s : State) : Result :=
  runCore
    { view := x.view
      body := fun i =>
        let a := i.areg x.a
        if i.regrouped && (a.pv || (i.areg x.d).pv) then i.illegal
        else
          let lo := if a.base.toNat < (i.uni x.b).toNat then i.uni x.b else a.base
          let hi := if (i.uni x.x).toNat < a.limit.toNat then i.uni x.x else a.limit
          i.uniWriteA x.d { a with base := lo, limit := hi, rd := a.rd && x.rd, wr := a.wr && x.wr, atm := a.atm && x.atm } } s

end Sys2Proof.Machine
end

