-- ==== Sys2Proof/Machine/Access.lean ====
section
/-! DEFINITION. The accesses of one instruction (spec/02_core_instructions.md R75 to R78,
spec/05_registers_private_memory_traps.md R121, R127, spec/08_memory_hierarchy.md R181, R189, R190, R195): addresses,
checks, pieces, which threads commit, and the operation that is left under way. -/

namespace Sys2Proof

/-- A width loads a signed value (R75). -/
def Width.signed : Width → Bool
  | .i8 | .i16 => true
  | _ => false
/-- The factor of a scale (R75). -/
def Scale.factor : Scale → Int
  | .x1 => 1
  | .x2 => 2
  | .x4 => 4
  | .x8 => 8

end Sys2Proof

namespace Sys2Proof.Machine

/-! ## Addresses -/

/-- An offset operand of a thread: a v register reads as .I32, any other as .I64 (R75). -/
def Iss.offVal (i : Iss) (o : Opnd) (t : Nat) : Int :=
  match o with
  | .v _ => ((i.val o 1 t).setWidth 32).toInt
  | _ => (i.val o 1 t).toInt

/-- The part of an address beside its base (R75, R76). -/
def Iss.addrOff (i : Iss) (a : Addr) (t : Nat) : Int :=
  match a with
  | .disp d => d.toInt
  | .idx off sc d => i.offVal off t * sc.factor + d.toInt

/-- o of R76, exact. -/
def Iss.eaOf (i : Iss) (a : AReg) (x : Addr) (t : Nat) : Int := Int.ofNat a.ptr.toNat + i.addrOff x t

/-- The private window of a thread: base, size in bytes, 4F and its column (R77, R102). -/
structure PWin where
  base : Nat
  limit : Nat
  pitch : Nat
  col : Nat

def Iss.pwin (i : Iss) (a : AReg) (t : Nat) : PWin :=
  let f := i.g0.f
  let own : PWin := ⟨a.base.toNat, a.limit.toNat, 4 * f, t⟩
  match i.s0.team? i.k.team with
  | some tm =>
    if tm.regrouped then
      let o := (i.g0.threads[t]?.map Thread.origin).getD t
      match tm.origin15.find? (fun r => r.group = o / f) with
      | some r => ⟨r.base.toNat, r.limit.toNat, 4 * f, o % f⟩
      | none => { own with col := o % f }
    else own
  | none => own

/-- The address of byte b of a window (R77). -/
def PWin.byte (w : PWin) (b : Nat) : Nat := w.base + b / 4 * w.pitch + w.col * 4 + b % 4

/-- A range cut at multiples of g: address, length and distance from the start of each part. -/
def cutAt (g a n : Nat) : List (Nat × Nat × Nat) :=
  (List.range ((a % g + n + g - 1) / g)).map (fun i =>
    let lo := if i = 0 then a else a / g * g + g * i
    (lo, min (a + n) (a / g * g + g * (i + 1)) - lo, lo - a))

/-- The parts of an access of n bytes from offset o (R121, R189). -/
def PWin.parts (w : PWin) (o n : Nat) : List (Nat × Nat × Nat) :=
  (cutAt 4 o n).flatMap (fun p => (cutAt 8 (w.byte p.1) p.2.1).map (fun q => (q.1, q.2.1, p.2.2 + q.2.2)))

/-! ## Checks -/

/-- What an access needs: its page permission, the a register's, its size, and how it must be placed. -/
structure Want where
  perm : Perm
  allowed : AReg → Bool
  size : Nat
  placed : AReg → Nat → Bool := fun _ _ => true

/-- Natural alignment in one piece (R189, R219). DEDUCED: log entry 17. -/
def natural (size : Nat) (ordered : Bool) (a : AReg) (o : Nat) : Bool :=
  !ordered || (decide (o % size = 0) && !(a.pv && decide (4 < size)))

/-- The page of a fault of translation: its start, its size, and, on a per-member page, the member whose copy it is
(R182, R195). -/
structure FaultPage where
  at0 : Nat
  size : Nat
  member : Option Nat

/-- A thread's fault: cause, TADDR, whether it is class T, and the page it met it on. -/
structure ThrFault where
  thread : Nat
  code : BitVec 8
  addr : Word64
  late : Bool
  page : Option FaultPage

/-- The member id a thread's accesses use (R186). -/
def Iss.memberSel (i : Iss) (t : Nat) : Nat :=
  if i.g0.priv && bitAt i.g0.msel 63 then field i.g0.msel 0 15 else (i.g0.threads[t]?.map Thread.memberid).getD 0

/-- Translation for a thread; a page whose sixteen entries differ is read anew for each thread (R179). -/
def Iss.translate (i : Iss) (t va : Nat) (p : Perm) (member : Nat) : Except (BitVec 8) (Nat × Attr) :=
  (i.s.setSched { i.s.sched with free := i.s.sched.free + t }).translate i.core i.g0.ctx va p member

/-- The page an address lies on: the leaf's, or 4 KiB where the walk finds none. DEDUCED: log entry 17. -/
def Iss.pageOf (i : Iss) (va member : Nat) : FaultPage :=
  match i.s.leafFor i.core i.g0.ctx va with
  | .ok (w0, _) => ⟨va / pageBytes (field w0 10 2) * pageBytes (field w0 10 2), pageBytes (field w0 10 2), if leafPm w0 then some member else none⟩
  | .error _ => ⟨va / 4096 * 4096, 4096, none⟩

/-- The pieces of a thread's parts, each translated, or the first fault (R181). -/
def Iss.translateParts (i : Iss) (t : Nat) (p : Perm) (member : Nat) : List (Nat × Nat × Nat) → Except ThrFault (List Piece)
  | [] => .ok []
  | (va, n, d) :: rest =>
    match i.translate t va p member with
    | .error c => .error ⟨t, c, BitVec.ofNat 64 va, true, some (i.pageOf va member)⟩
    | .ok (pa, at1) =>
      match i.translateParts t p member rest with
      | .error e => .error e
      | .ok ps => .ok ({ thread := t, va := va, pa := pa, size := n, at0 := d, data := [], attr := at1, st := .todo, drops := 0 } :: ps)

/-- One thread's access of an a register at offset o, checked in the order of R76, R77, R189, R181 and R190. DEDUCED: log entry 17.
The words of an access through a register with P are accesses of their own: R190 compares no pages of theirs. DESIGN CHOICE: log
entry 42. -/
def Iss.access (i : Iss) (w : Want) (a : AReg) (o : Int) (t : Nat) : Except ThrFault (List Piece) :=
  let win := i.pwin a t
  let fail (c : BitVec 8) : Except ThrFault (List Piece) := .error ⟨t, c, BitVec.ofInt 64 o, false, none⟩
  let out : Bool :=
    if a.pv then decide (o < 0) || decide (Int.ofNat win.limit < o + w.size)
    else decide (o < 0) || decide ((2 : Int) ^ 57 ≤ o) || decide (o < Int.ofNat a.base.toNat)
      || decide (Int.ofNat a.limit.toNat < o + w.size)
  if out then fail cADDR_BOUNDS
  else if !w.allowed a then fail cADDR_PERM
  else if !w.placed a o.toNat then fail cALIGN
  else if a.pv then i.translateParts t w.perm (i.memberSel t) (win.parts o.toNat w.size)
  else
    match i.translateParts t w.perm (i.memberSel t) (cutAt 8 o.toNat w.size) with
    | .error e => .error e
    | .ok [] => .ok []
    | .ok (p :: ps) =>
      if ps.all (fun q => q.attr == p.attr) then .ok (p :: ps)
      else .error ⟨t, cALIGN, BitVec.ofInt 64 o, true, none⟩

/-- The pieces of the threads that commit, and the faults of those that do not. -/
structure Gathered where
  pieces : List Piece
  faults : List ThrFault

/-- A piece lies on a page; on a per-member page, in that member's copy. -/
def FaultPage.holds (q : FaultPage) (p : Piece) (member : Nat) : Bool :=
  decide (q.at0 < p.va + p.size) && decide (p.va < q.at0 + q.size) && (match q.member with
    | some m => m == member
    | none => true)

/-- Every thread's access; a thread that shares a page with a fault of translation does not commit (R195). -/
def gather (ts : List Nat) (member : Nat → Nat) (f : Nat → Except ThrFault (List Piece)) : Gathered :=
  let rs := ts.map f
  let faults := rs.filterMap (fun r => match r with | .error e => some e | .ok _ => none)
  let pages := faults.filterMap ThrFault.page
  let clear (ps : List Piece) : Bool := ps.all (fun p => !pages.any (fun q => q.holds p (member p.thread)))
  let good := rs.filterMap (fun r => match r with | .ok ps => (if clear ps then some ps else none) | .error _ => none)
  ⟨good.flatten, faults⟩

/-- Bits 31:16 of TCAUSE for a class T fault (R123). -/
def lateDetail (p : Perm) : BitVec 16 :=
  match p with
  | .load => 8
  | .store => 9
  | .atomic => 10
  | .fetch => 12

/-- The lowest cause of a list of faults (R127). -/
def lowestCode : List ThrFault → Option (BitVec 8)
  | [] => none
  | e :: es =>
    match lowestCode es with
    | none => some e.code
    | some c => some (if e.code.toNat ≤ c.toNat then e.code else c)

/-- What an instruction reports of its threads' faults (R122, R127). -/
def faultOf (fs : List ThrFault) (p : Perm) (part : Bool) (iaddr inst : Word64) : Option TrapInfo :=
  match lowestCode fs with
  | none => none
  | some c =>
    let mine := sortBy ThrFault.thread (fs.filter (fun e => e.code = c))
    match mine with
    | [] => none
    | e :: _ =>
      some { code := c, addr := e.addr, mask := mine.foldl (fun m x => m ||| BitVec.twoPow 512 x.thread) 0#512, part := part
             detail := if e.late then lateDetail p else 0, iaddr := iaddr, inst := inst }

/-- Threads of a list of pieces. -/
def pieceMask (ps : List Piece) : Mask := ps.foldl (fun m p => m ||| BitVec.twoPow 512 p.thread) 0#512

/-! ## Destinations -/

/-- The value of a load's bytes, extended (R78). -/
def loadVal (signed : Bool) (n : Nat) (bytes : List Byte) : Nat :=
  if signed then ((BitVec.ofNat (8 * n) (leNat bytes)).signExtend 128).toNat else leNat bytes

/-- Bytes of an image's limbs (R262). -/
def limbBytes (wide : Bool) : Nat := if wide then 272 else 48

/-- An accumulator status word (R263). -/
def AccStatus.word (st : AccStatus) : Word64 :=
  st.count ++ 0#3 ++ BitVec.ofBool st.lost ++ BitVec.ofBool st.ovf ++ BitVec.ofBool st.nan ++ BitVec.ofBool st.ninf ++ BitVec.ofBool st.pinf
def AccStatus.ofWord (w : Word64) : AccStatus :=
  ⟨w.extractLsb' 8 56, bitAt w 4, bitAt w 3, bitAt w 2, bitAt w 1, bitAt w 0⟩
/-- An image as the number its bytes hold, and back (R262, R270). -/
def Image.toNat (m : Image) : Nat := m.limbs.toNat % 2 ^ (8 * limbBytes m.wide) + m.st.word.toNat * 2 ^ (8 * limbBytes m.wide)
def Image.ofNat (wide : Bool) (x : Nat) : Image :=
  ⟨wide, BitVec.ofNat 2176 (x % 2 ^ (8 * limbBytes wide)), .ofWord (BitVec.ofNat 64 (x / 2 ^ (8 * limbBytes wide)))⟩

/-- Every image of an x register of the threads of a mask. -/
def Group.writeAcc (g : Group) (n : Nat) (m : Mask) (f : Nat → Image → Image) : Group :=
  g.mapThreads (fun t th =>
    if m.getLsbD t then { th with acc := th.acc.mapIdx (fun j a => if j = n then f t a else a) } else th)

/-- Words of a value into the entries of a name's registers that a test accepts. -/
def Group.writeRegs (g : Group) (name regs : Nat) (m : Mask) (f : Nat → Nat) (sel : VEnt → Bool) : Group :=
  { g with v := g.v.map (fun e =>
      if sel e && decide (name ≤ e.name) && decide (e.name < name + regs) then
        { e with vals := (List.range 8).map (fun j =>
            if m.getLsbD (8 * e.octet + j) then BitVec.ofNat 32 (f (8 * e.octet + j) / 2 ^ (32 * (e.name - name)))
            else e.vals.getD j 0) }
      else e) }

/-- Words of a value into the w registers that a test accepts, for the lanes of the mask's threads. -/
def Group.writeShared (g : Group) (name regs : Nat) (m : Mask) (f : Nat → Nat) (sel : WEnt → Bool) : Group :=
  { g with wr := g.wr.map (fun e =>
      if sel e && decide (name ≤ e.name) && decide (e.name < name + regs) then
        { e with lanes := (List.range g.w).map (fun l =>
            match (maskThreads g.f m).find? (fun t => g.laneOf t = l) with
            | some t => BitVec.ofNat 32 (f t / 2 ^ (32 * (e.name - name)))
            | none => e.lanes.getD l 0) }
      else e) }

/-- A result into its destination at issue. -/
def Iss.deliverNow (i : Iss) (d : Dest) (m : Mask) (f : Nat → Nat) : Iss :=
  match d with
  | .none => i
  | .v n r => { i with g := i.g.writeRegs n r m f (fun e => e.pend.isEmpty) }
  | .w n r => { i with g := i.g.writeShared n r m f (fun _ => true) }
  | .s n => if m = 0#512 then i else { i with p := { i.p with s := i.p.s.set n (BitVec.ofNat 64 (f ((lowestThread i.g.f m).getD 0))) } }
  | .x n => { i with g := i.g.writeAcc n m (fun t a => .ofNat a.wide (f t)) }

/-- A result that arrives: it goes to the entries that await the operation, in a group, and they become ready for the
octets given (R119). -/
def Group.arrive (g : Group) (op : Nat) (d : Dest) (octet : Nat) (m : Mask) (f : Nat → Nat) : Group :=
  match d with
  | .none => g
  | .v n r =>
    let g1 := g.writeRegs n r m f (fun e => e.busy == some op && e.octet == octet)
    { g1 with v := g1.v.map (fun e => if e.busy = some op && e.octet = octet then { e with busy := none } else e) }
  | .w n r =>
    let g1 := g.writeShared n r m f (fun e => e.busy == some op)
    { g1 with wr := g1.wr.map (fun e => if e.busy = some op then { e with busy := none } else e) }
  | .s n =>
    { g with splits := g.splits.map (fun p =>
        if p.sBusy.contains (n, op) then
          { p with s := if m = 0#512 then p.s else p.s.set n (BitVec.ofNat 64 (f ((lowestThread g.f m).getD 0)))
                   sBusy := p.sBusy.filter (fun e => e.2 ≠ op) }
        else p) }
  | .x n => g.writeAcc n (m &&& maskOf g.f (fun t => decide (t / 8 = octet))) (fun t a => .ofNat a.wide (f t))

/-- Destination entries are mapped for the octets of a mask (R111, R115, R116). -/
def Iss.allocDest (i : Iss) (d : Dest) (m : Mask) (k : Iss → Act) : Act :=
  match d with
  | .v n r =>
    match i.s.mapVs i.g (namesFrom n r) (i.g0.octets m) with
    | none => i.noEntry
    | some g => k { i with g := g }
  | .w n r =>
    if m = 0#512 then k i
    else
      match i.s.mapWs i.g (namesFrom n r) with
      | none => i.noEntry
      | some g => k { i with g := g }
  | _ => k i

/-- Ready bits are cleared for an operation's destination (R119). -/
def Iss.markBusy (i : Iss) (d : Dest) (m : Mask) (op : Nat) : Iss :=
  let octs := i.g0.octets m
  match d with
  | .v n r =>
    { i with g := { i.g with v := i.g.v.map (fun e =>
        if e.pend.isEmpty && decide (n ≤ e.name) && decide (e.name < n + r) && octs.contains e.octet then { e with busy := some op }
        else e) } }
  | .w n r =>
    { i with g := { i.g with wr := i.g.wr.map (fun e =>
        if decide (n ≤ e.name) && decide (e.name < n + r) then { e with busy := some op } else e) } }
  | .s n => { i with p := { i.p with sBusy := (n, op) :: i.p.sBusy.filter (fun e => e.1 ≠ n) } }
  | _ => i

/-! ## Serving a load at issue -/

/-- A thread has an earlier acquire that has not finished (R218). -/
def State.acquiring (s : State) (k : GroupKey) (t : Nat) : Bool :=
  s.ops.mem.any (fun o => o.g = k && o.acq && o.active.getLsbD t) || s.ops.pts.any (fun o => o.g = k && o.acq && o.threads.getLsbD t)

/-- A thread has an earlier release that has not finished (R218). -/
def State.releasing (s : State) (k : GroupKey) (t : Nat) : Bool :=
  s.ops.mem.any (fun o => o.g = k && o.rel && o.active.getLsbD t) || s.ops.pts.any (fun o => o.g = k && o.rel && o.threads.getLsbD t)

/-- A store of the core on some of the bytes has not been performed for the core. -/
def State.latePending (s : State) (core pa n : Nat) : Bool :=
  s.ops.mem.any (fun o => o.core = core && o.late &&
    o.pieces.any (fun p => p.open' && decide (p.pa < pa + n) && decide (pa < p.pa + p.size)))

/-- An atomic of the core on some of the bytes has not been performed. -/
def State.atomicPending (s : State) (core pa n : Nat) : Bool :=
  s.ops.mem.any (fun o => o.core = core && !o.args.isEmpty &&
    o.pieces.any (fun p => p.open' && decide (p.pa < pa + n) && decide (pa < p.pa + p.size)))

/-- The page's loads may be kept in an L1 (R166, R184). -/
def Piece.cacheable (p : Piece) : Bool := isHbm p.pa && !p.attr.sc && p.attr.cls != 1#2

/-- The bytes of a range within a line's data. -/
def lineSlice (data : List Byte) (pa n : Nat) : List Byte := (data.drop (pa % 128)).take n

/-- A piece of a load served by its core's L1 or RDC, where it may be and the line is present (R166, R169, R177); a line that
holds an uncorrectable error refuses it (R176). -/
def State.serveNow (s : State) (core ctx : Nat) (ordered : Bool) (p : Piece) : Piece :=
  if s.atomicPending core p.pa p.size || s.latePending core p.pa p.size then p
  else if p.cacheable then
    match s.mem.l1? core ctx (p.pa / 128) with
    | some l => if l.bad then { p with st := .bad cMEM_UNCORRECTABLE } else { p with st := .done, data := lineSlice l.data p.pa p.size }
    | none => p
  else if isRemote p.pa && !p.attr.sc && !ordered then
    match s.mem.rdc? (coreBase core) ctx (p.pa / 128) with
    | some l => if l.skips p.pa p.size then p else { p with st := .done, data := lineSlice l.data p.pa p.size }
    | none => p
  else p

/-- What threads of a load have issued before keeps it from being served by a cache of its core (R218, R247). -/
def State.serveHeld (s : State) (k : GroupKey) (t : Nat) : Bool := s.acquiring k t || s.fenceHolds k t s.sched.nextId true

/-- Clean L1 lines that refused a piece are not kept. -/
def State.dropBad (s : State) (core ctx : Nat) (ps : List Piece) : State :=
  s.setMem { s.mem with l1 := s.mem.l1.filter (fun l => !(l.bad && !l.dirty && l.core = core && l.ctx = ctx
    && ps.any (fun p => decide (p.pa / 128 = l.line)))) }

/-- A line may be filled: no granule of it is poisoned and its die is not lost. -/
def State.lineSound (s : State) (pa : Nat) : Bool := !s.mem.poisoned (pa / 128 * 128) 128 && !s.dieLost (homeDie pa)

/-- Private lines of a load's pieces are filled into the L1 (R169). -/
def State.fillPrivate (s : State) (core ctx : Nat) (ps : List Piece) : State :=
  ps.foldl (fun s p =>
    if p.cacheable && s.lineSound p.pa && !s.atomicPending core p.pa p.size then s.l1Fill core ctx p true else s) s

/-- A page's leaves are kept by the core and its C-die (R193). -/
def State.keepLeaves (s : State) (core ctx : Nat) (ps : List Piece) : State := ps.foldl (fun s p => s.tlbFill core ctx p.va) s

/-- The walks of an instruction's accesses: the leaves are kept, and the tables of those that fault are touched (R193, R382). -/
def Iss.walked (i : Iss) (got : Gathered) : State :=
  (got.faults.filterMap ThrFault.page).foldl (fun (s : State) q => s.touchWalk i.core i.g0.ctx q.at0) (i.s.keepLeaves i.core i.g0.ctx got.pieces)

/-- A fault of an instruction that has had no effect: what its walks touched stays (R382). -/
def Iss.faultWalked (i : Iss) (got : Gathered) (info : TrapInfo) : Act :=
  .trap { i with s := (got.faults.filterMap ThrFault.page).foldl (fun (s : State) q => s.touchWalk i.core i.g0.ctx q.at0) i.s0, g := i.g0 } info

/-- The counter of free values passes the values a memory instruction may have used. DESIGN CHOICE: log entry 3. -/
def Iss.spend (i : Iss) : Iss :=
  { i with s := i.s.setSched { i.s.sched with free := i.s.sched.free + i.g0.f } }

/-- The number of the operation an issue makes; the shadow copy of a check pair uses its primary's (R107). DESIGN CHOICE: log entry 10. -/
def Iss.opId (i : Iss) : Nat × Iss :=
  match i.g0.key.shadow, i.shared with
  | true, id :: rest => (id, { i with shared := rest })
  | _, _ =>
    let (id, s) := i.s.freshId
    (id, { i with s := s, shared := i.shared ++ [id] })

/-- The issue ends here: it faults for some threads (R127), or goes on. -/
def Iss.endWith (i : Iss) (info : Option TrapInfo) : Act :=
  match info with
  | none => .ok i
  | some t => .trap i t

/-- The key an operation is listed under: the primary copy's. -/
def Iss.opKey (i : Iss) : GroupKey := { i.k with shadow := false }

/-- A memory operation of this issue. -/
def Iss.memOp (i : Iss) (id : Nat) (kind : OpKind) (active : Mask) (ps : List Piece) (d : Dest) (width : Nat) (signed : Bool) :
    MemOp :=
  { id := id, kind := kind, g := i.opKey, sid := i.sid, core := i.core, ctx := i.g0.ctx, active := active, pieces := ps, args := []
    dest := d, width := width, signed := signed, flag := i.flag?, scope := .grp, acq := false, rel := false, priv := false, late := false, quiet := false
    arrived := 0, flush := [], checked := true, heldAt := none, retries := 0, fences := [], region := i.p0.region, iaddr := i.p0.iaddr, inst := i.p0.word }

/-- The bytes of a thread's access, put together from its pieces. -/
def threadBytes (ps : List Piece) (t : Nat) : List Byte := (sortBy Piece.at0 (ps.filter (fun p => p.thread = t))).flatMap Piece.data

/-- What a load instruction is: which threads access, where each goes, and its ordering. -/
structure LoadSpec where
  threads : List Nat
  ea : Nat → Int
  reg : AReg
  size : Nat
  signed : Bool
  dest : Dest
  ordered : Bool := false
  scope : Scope := .grp
  ldra : Bool := false
  placed : AReg → Nat → Bool := natural size ordered

/-- The checks and pieces of a load, and of any instruction of its shape. -/
def Iss.gatherFor (i : Iss) (w : Want) (a : AReg) (ts : List Nat) (ea : Nat → Int) : Gathered := gather ts i.memberSel (fun t => i.access w a (ea t) t)

/-- A load issues (R76 to R78, R119, R127): the committed threads' pieces are served where a cache of the core has them,
and the others are left under way. -/
def Iss.load (i : Iss) (l : LoadSpec) : Act :=
  if !i.any then .ok i
  else
    let w : Want := { perm := .load, allowed := AReg.rd, size := l.size, placed := l.placed }
    let got := i.gatherFor w l.reg l.threads l.ea
    let m := pieceMask got.pieces
    let info := faultOf got.faults .load (m != 0#512) i.p0.iaddr i.p0.word
    let fits := i.s.entriesFit i.core got.pieces
    if !i.k.shadow && !fits.1 then .stall 0 none
    else i.allocDest l.dest m (fun i =>
      let s1 := if i.k.shadow then i.s else i.walked got
      let s2 := if l.reg.pv && !i.k.shadow then s1.fillPrivate i.core i.g0.ctx got.pieces else s1
      let away := l.ldra || !fits.2 || l.threads.any (fun t => s2.serveHeld i.opKey t)
      let ps := if away then got.pieces else got.pieces.map (fun p => s2.serveNow i.core i.g0.ctx l.ordered p)
      let j := ({ i with s := if i.k.shadow then s2 else s2.dropBad i.core i.g0.ctx (ps.filter (fun p => !p.open' && p.st != .done)) } : Iss).spend
      let fence (id : Nat) (j : Iss) : Iss := if l.ordered && !i.k.shadow then { j with s := j.s.fenceLoads i.opKey m l.scope id } else j
      let ready := ps.isEmpty || (ps.all (fun p => p.st = .done) && !i.g0.pairchk)
      if ready then
        let j := j.deliverNow l.dest m (fun t => loadVal l.signed l.size (threadBytes ps t))
        let j := if l.ordered && m != 0#512 then { j with s := j.s.acquire i.opKey i.core i.g0.ctx l.scope } else j
        (fence j.s.sched.nextId j).endWith info
      else
        let (id, j) := j.opId
        let op := { j.memOp id (if l.ldra then .ldra else .load) m ps l.dest l.size l.signed with
          scope := l.scope, acq := l.ordered, priv := l.reg.pv, checked := false }
        let j := if i.k.shadow then j else { fence id j with s := (fence id j).s.addMemOp op }
        ({ j.markBusy l.dest m id with flagUp := true } : Iss).endWith info)

/-! ## Stores -/

/-- The low n bytes of a thread's data: one to four registers (R75, R78). -/
def Iss.dataBytes (i : Iss) (o : Opnd) (n t : Nat) : List Byte :=
  match o with
  | .v r => leBytes n ((i.g0.vVal (r.toNat + 2) 2 t ++ i.g0.vVal r.toNat 2 t : BitVec 128).toNat)
  | .w r => leBytes n ((i.g0.wVal (r.toNat + 2) 2 (i.g0.laneOf t) ++ i.g0.wVal r.toNat 2 (i.g0.laneOf t) : BitVec 128).toNat)
  | .s r => leBytes n ((i.p0.s.getD (r.toNat + 1) 0 ++ i.p0.s.getD r.toNat 0 : BitVec 128).toNat)
  | _ => leBytes n (i.val o 1 t).toNat

/-- A piece with the bytes it stores. -/
def Piece.withData (p : Piece) (all : List Byte) : Piece := { p with data := (all.drop p.at0).take p.size }

/-- A store is performed for its core (R169, R177, R218): a private piece in the L1; any other updates the lines its core's
L1 and RDC hold and goes on to its home; an ordered one bypasses the RDC (R219). -/
def State.storeNow (s : State) (core ctx : Nat) (priv ordered : Bool) (p : Piece) : State × Piece :=
  if priv && p.cacheable then
    if s.lineSound p.pa then
      let s1 := s.l1Fill core ctx p true
      (s1.setMem (s1.mem.l1Store core ctx p.pa p.data true), { p with st := .done })
    else ((s.homeSeen ctx p.va p.pa p.size p.attr).homeWrite p.pa p.data p.attr.key none, { p with st := .done })
  else if isRemote p.pa then
    (s.setMem (if ordered then s.mem.rdcSkip (coreBase core) ctx p.pa p.size else s.mem.rdcStore (coreBase core) ctx p.pa p.data), p)
  else (s.setMem (s.mem.l1Store core ctx p.pa p.data false), p)

/-- An access of some threads on some of the bytes is still to be performed, and is no store performed for its core: a
store of theirs then waits its turn (R78). -/
def State.behind (s : State) (k : GroupKey) (ps : List Piece) : Bool :=
  s.ops.mem.any (fun o => o.g = k && !(o.kind == .store && !o.late) && (match o.kind with
      | .pref _ => false
      | _ => true) &&
    o.pieces.any (fun r => r.open' && ps.any (fun p => p.thread = r.thread && decide (p.pa < r.pa + r.size) && decide (r.pa < p.pa + p.size))))

/-- A core's own read must wait: an access of the issuing threads on some of the bytes is still to be performed, or an acquire or a
fence of theirs holds every later access back (R218, R227, R247, R248); a store performed for its core is none. -/
def Iss.owes (i : Iss) (ps : List Piece) : Bool :=
  i.s.behind i.opKey (i.threads.flatMap (fun t => ps.map (fun p => { p with thread := t })))
    || i.threads.any (fun t => i.s.serveHeld i.opKey t)

/-- The lines that a core's own read through an a register has read stand in their home L2, and its leaves are kept (R175, R193,
R382). -/
def State.readSeen (s : State) (core ctx : Nat) (ps : List Piece) : State :=
  ps.foldl (fun (s : State) p => s.rangeSeen core ctx p.va p.pa p.size p.attr .read) (s.keepLeaves core ctx ps)

/-- The local address of a piece of this device. -/
def Piece.here (p : Piece) : Nat := if isRemote p.pa then frameOff p.pa else p.pa

/-- A store whose performed pieces cover a whole granule clears its poison, with the last of them (R176, R400). DEDUCED: log entry 18. -/
def State.cleanse (s : State) (new all : List Piece) : State :=
  s.setMem { s.mem with poison := s.mem.poison.filter (fun g =>
    !(new.any (fun p => p.st = .done && meetsRange p.here p.size (64 * g) 64 && !s.elsewhere p.pa) && (List.range 64).all (fun b =>
      all.any (fun p => p.st = .done && p.here ≤ 64 * g + b && 64 * g + b < p.here + p.size && !s.elsewhere p.pa)))) }

/-- Every piece of a store, threads ascending (R188). -/
def State.storesNow (s : State) (core ctx : Nat) (priv : Bool) (ps : List Piece) : State × List Piece :=
  let (s1, qs) := ps.foldl (fun (acc : State × List Piece) p =>
    let (s1, q) := acc.1.storeNow core ctx priv false p
    (s1, acc.2 ++ [q])) (s, [])
  (s1.cleanse (qs.filter (fun q => q.st = .done && !s.lineSound q.pa)) (qs.filter (fun q => !s.lineSound q.pa)), qs)

/-- What a core's own reading that ends in a fault leaves: the homes it reached, and the tables of the walk that failed, count as
touched (R382). -/
def Iss.readFault (i : Iss) (e : ThrFault × List Piece) : State :=
  let s := i.s0.readSeen i.core i.g0.ctx e.2
  match e.1.page with
  | some q => s.touchWalk i.core i.g0.ctx q.at0
  | none => s

/-- What a store instruction is. -/
structure StoreSpec where
  ea : Nat → Int
  reg : AReg
  size : Nat
  bytes : Nat → List Byte
  ordered : Bool := false
  scope : Scope := .grp
  placed : AReg → Nat → Bool := natural size ordered

/-- A store issues (R76, R78, R127, R400). -/
def Iss.store (i : Iss) (l : StoreSpec) : Act :=
  if !i.any then .ok i
  else
    let w : Want := { perm := .store, allowed := AReg.wr, size := l.size, placed := l.placed }
    let got := i.gatherFor w l.reg i.threads l.ea
    let m := pieceMask got.pieces
    let info := faultOf got.faults .store (m != 0#512) i.p0.iaddr i.p0.word
    let fits := i.s.entriesFit i.core got.pieces
    if i.k.shadow then ({ i with flagUp := !i.shared.isEmpty } : Iss).endWith info
    else if !fits.1 then .stall 0 none
    else
      let s1 := i.walked got
      let late := l.ordered || !fits.2 || got.pieces.any (fun p => p.attr.sc) || i.threads.any (fun t => i.s.acquiring i.opKey t || i.s.releasing i.opKey t)
        || i.s.behind i.opKey got.pieces
      let qs := got.pieces.map (fun p => p.withData (l.bytes p.thread))
      let (s2, ps) := if late then (s1, qs) else s1.storesNow i.core i.g0.ctx l.reg.pv qs
      let j := ({ i with s := s2 } : Iss).spend
      if ps.all (fun p => p.st = .done) then j.endWith info
      else
        let (id, j) := j.opId
        let op := { j.memOp id .store m ps .none l.size false with scope := l.scope, rel := l.ordered, priv := l.reg.pv, late := late }
        ({ j with s := j.s.addMemOp op, flagUp := true } : Iss).endWith info

/-- What R108 compares of a store: each thread's address, size and data. -/
def Iss.storeItems (i : Iss) (l : StoreSpec) : List (Nat × List Word64) :=
  i.threads.map (fun t => (t, [BitVec.ofInt 64 (l.ea t), BitVec.ofNat 64 l.size, BitVec.ofNat 64 (leNat ((l.bytes t).take 8)),
    BitVec.ofNat 64 (leNat ((l.bytes t).drop 8))]))

/-! ## LD, ST, LDU, PREF, LD.ACQ, ST.REL, LDRA -/

/-- LD (R78). -/
def execLd (x : Sys2Proof.Mem) (s : State) : Result :=
  runCore
    { view := x.view [.v] [.a] offSrc
      body := fun i =>
        i.load { threads := i.threads, ea := i.eaOf (i.areg x.a) x.addr, reg := i.areg x.a, size := x.w.bytes
                 signed := x.w.signed, dest := .v x.d.num x.w.regs } } s

/-- What ST stores. -/
def stSpec (x : Sys2Proof.Mem) (i : Iss) : StoreSpec :=
  { ea := i.eaOf (i.areg x.a) x.addr, reg := i.areg x.a, size := x.w.bytes, bytes := i.dataBytes x.d x.w.bytes }
/-- ST (R78). -/
def execSt (x : Sys2Proof.Mem) (s : State) : Result :=
  runCore
    { view := x.view dataSrc [.a] offSrc
      data := some x.d
      cmp := some fun i => i.storeItems (stSpec x i)
      body := fun i => i.store (stSpec x i) } s

/-- LDU (R78): one access for the split, by its lowest-numbered active thread, whose member id a page with members takes and which
alone a fault names, through a register with P or without. DESIGN CHOICE: log entry 42. -/
def execLdu (x : Sys2Proof.Mem) (s : State) : Result :=
  runCore
    { view := x.lduView
      body := fun i =>
        i.load { threads := [i.low], ea := i.eaOf (i.areg x.a) x.addr, reg := i.areg x.a, size := x.w.bytes
                 signed := x.w.signed, dest := .s x.d.num } } s

/-- PREF (R75, R76): it never faults, and it changes only what the caches hold. -/
def execPref (x : Pref) (s : State) : Result :=
  runCore
    { view := x.view
      body := fun i =>
        let got := i.gatherFor { perm := .load, allowed := AReg.rd, size := 1 } (i.areg x.a) i.threads (i.eaOf (i.areg x.a) x.addr)
        if i.k.shadow then .ok i
        else if got.pieces.isEmpty then .ok { i with s := i.walked got }
        else if !(i.s.entriesFit i.core got.pieces).1 then .stall 0 none
        else
          let s1 := i.walked got
          let (id, j) := ({ i with s := s1 } : Iss).spend.opId
          .ok { j with s := j.s.addMemOp (j.memOp id (.pref (x.lvl == .l1)) (pieceMask got.pieces) got.pieces .none 1 false)
                       shared := [] } } s

/-- LD.ACQ (R219). DEDUCED: log entry 17. -/
def execLdAcq (x : OMem) (s : State) : Result :=
  runCore
    { view := x.view [.v] false
      body := fun i =>
        let n := if x.wide then 8 else 4
        i.load { threads := i.threads, ea := i.eaOf (i.areg x.a) x.addr, reg := i.areg x.a, size := n, signed := false
                 dest := .v x.d.num (n / 4), ordered := true, scope := x.scope } } s

/-- What ST.REL stores. -/
def stRelSpec (x : OMem) (i : Iss) : StoreSpec :=
  let n := if x.wide then 8 else 4
  { ea := i.eaOf (i.areg x.a) x.addr, reg := i.areg x.a, size := n, bytes := i.dataBytes x.d n, ordered := true, scope := x.scope }
/-- ST.REL (R219). -/
def execStRel (x : OMem) (s : State) : Result :=
  runCore
    { view := x.view dataSrc false
      data := some x.d
      cmp := some fun i => i.storeItems (stRelSpec x i)
      body := fun i => i.store (stRelSpec x i) } s

/-- LDRA (R229). -/
def execLdra (x : OMem) (s : State) : Result :=
  runCore
    { view := x.view [.v] true
      body := fun i =>
        let n := if x.wide then 8 else 4
        i.load { threads := i.threads, ea := i.eaOf (i.areg x.a) x.addr, reg := i.areg x.a, size := n, signed := false
                 dest := .v x.d.num (n / 4), ordered := true, scope := x.scope, ldra := true } } s

end Sys2Proof.Machine
end

