-- ==== Sys2Proof/Machine/Order.lean ====
section
/-! DEFINITION. What a release, an acquire, a fence and QFENCE wait for (spec/10_atomic_fence_remote_instructions.md
R218, R227, R228; spec/12_consistency_model.md R255, R258). Operations are numbered in issue order. -/

namespace Sys2Proof.Machine

/-- Every load of some threads numbered below a bound is complete. -/
def State.loadsMet (s : State) (k : GroupKey) (m : Mask) (before : Nat) : Bool :=
  s.ops.mem.all (fun o => !(o.g = k && decide (o.id < before) && (o.active &&& m) != 0#512) || (match o.kind with
    | .load => false
    | .ldra => false
    | .monitor _ _ _ => false
    | .atomic _ _ r => !r
    | _ => true))
    && s.ops.remote.all (fun o => !(o.g = k && decide (o.id < before) && (o.mask &&& m) != 0#512) || o.kind == .put)

/-- An acquire of some threads numbered before an operation has not finished (R218). -/
def State.acquiresOpen (s : State) (k : GroupKey) (m : Mask) (id : Nat) : Bool :=
  s.ops.mem.any (fun a => a.g = k && a.acq && decide (a.id < id) && (a.active &&& m) != 0#512)
    || s.ops.pts.any (fun a => a.g = k && a.acq && decide (a.id < id) && (a.threads &&& m) != 0#512)

/-- Stores of a team numbered before an operation, performed for their core, have reached their homes: an engine writes and reads at
the home, which they reach before it whatever ordered them with the operation (R218, R249, R252). -/
def State.storesHome (s : State) (k : GroupKey) (id : Nat) : Bool :=
  s.ops.mem.all (fun q => !(q.g.team = k.team && q.kind == .store && !q.late && decide (q.id < id)) || !q.pieces.any Piece.open')

/-- An engine operation of some threads may perform accesses (R255): every earlier store and atomic is acknowledged and
every earlier load complete, no earlier acquire holds it back, and the team's earlier stores are at their homes. The operations of
another queue are none of these (R257). -/
def State.engineReady (s : State) (k : GroupKey) (m : Mask) (id : Nat) : Bool :=
  s.accessesMet k m id .sys && !s.acquiresOpen k m id && s.storesHome k id

/-! ## Queues (R228) -/

/-- A QFENCE numbered before a queue operation of its group names its queue and is not settled (R228). -/
def State.qfenceHolds (s : State) (k : GroupKey) (bit id : Nat) : Bool :=
  s.ops.pts.any (fun p => p.g = k && decide (p.id < id) && p.queues.getLsbD bit)

/-! ## Fences and QFENCE settled (R227, R228) -/

/-- Every operation of a group numbered below a bound in a named queue has been performed. -/
def State.queuesMet (s : State) (k : GroupKey) (queues : BitVec 11) (before : Nat) : Bool :=
  s.ops.copies.all (fun o => !(o.g = k && decide (o.id < before) && queues.getLsbD o.ch))
    && (!queues.getLsbD 8 || s.mtx.ops.all (fun o => !(o.g = k && decide (o.id < before))))
    && (!queues.getLsbD 9 || s.ops.remote.all (fun o => !(o.g = k && decide (o.id < before))))
    && (!queues.getLsbD 10 || s.ops.colls.all (fun o => !(o.g = k && decide (o.id < before))))

/-- A point of the issue order is settled: a release has its condition, an acquire's loads are complete, a QFENCE's
operations are performed. DEDUCED: log entry 19. -/
def State.ptMet (s : State) (p : OrderPt) : Bool :=
  (!p.rel || s.earlierMet p.g p.threads p.id p.scope) && (!p.acq || s.loadsMet p.g p.threads p.id)
    && (p.queues == 0#11 || s.queuesMet p.g p.queues p.id)

/-- A settled point takes its acquire action, counts its flag down and goes. -/
def State.settlePt (s : State) (p : OrderPt) : State :=
  if s.ptMet p then
    let s1 := match p.acq, s.group? p.g with
      | true, some g => s.acquire p.g g.core g.ctx p.scope
      | _, _ => s
    (s1.setOps { s1.ops with pts := s1.ops.pts.filter (fun q => q.id ≠ p.id) }).flagDown p.g p.flag
  else s

/-- Every point that can be is settled. -/
def State.settlePts (s : State) : State := s.ops.pts.foldl State.settlePt s

/-- Barrier and Corral arrivals are team-scope releases of the arriving threads' earlier accesses (R157, R249): the
arrival waits until they meet its condition. -/
def Iss.released (i : Iss) (m : Mask) (scope : Scope) : Bool := i.s.earlierMet i.opKey m i.s.sched.nextId scope

/-- A point of the issue order: settled at once where the state allows, else added, the flag counting with it. -/
def Iss.point (i : Iss) (m : Mask) (scope : Scope) (rel acq : Bool) (queues : BitVec 11) : Iss :=
  if i.k.shadow then { i with flagUp := !i.shared.isEmpty }
  else
    let p : OrderPt := ⟨i.s.sched.nextId, i.opKey, m, scope, rel, acq, queues, i.flag?⟩
    if i.s.ptMet p then (if acq then { i with s := i.s.acquire i.opKey i.core i.g0.ctx scope } else i)
    else
      let (_, j) := i.opId
      { j with s := j.s.setOps { j.s.ops with pts := j.s.ops.pts ++ [p] }, flagUp := true }

end Sys2Proof.Machine
end

