-- ==== Sys2Proof/Machine/Spad.lean ====
section
/-! DEFINITION. Scratchpad accesses (spec/06_member_local_sync_instructions.md R140 to R145;
spec/04_groups_and_members.md R88, R106). -/

namespace Sys2Proof.Machine

/-! ## The team's scratchpad -/

/-- The scratchpad of a copy of a team: a shadow copy has its own (R106). -/
def Team.spadOf (t : Team) (shadow : Bool) : List Host.Cell := if shadow then t.spad2 else t.spad
def Team.setSpad (t : Team) (shadow : Bool) (c : List Host.Cell) : Team :=
  if shadow then { t with spad2 := c } else { t with spad := c }

/-- A range lies in the scratchpad, and not in the half of a lost core (R88, R132). -/
def Team.spadIn (t : Team) (o : Int) (n : Nat) : Bool :=
  decide (0 ≤ o) && decide (o + n ≤ Int.ofNat t.size) &&
    (match t.lost with
     | some c =>
       if t.pair && !t.pairchk && !t.degraded then
         if c = t.core then decide (Int.ofNat t.k ≤ o) else decide (o + n ≤ Int.ofNat t.k)
       else true
     | none => true)

def Iss.team (i : Iss) : Option Team := i.s.team? i.k.team
/-- Bytes of the scratchpad of the issuing copy. -/
def Iss.spadRead (i : Iss) (o n : Nat) : List Byte := ((i.team.map (fun t => cellRead (t.spadOf i.k.shadow) o n))).getD []
def Iss.spadWrite (i : Iss) (o : Nat) (bs : List Byte) : Iss :=
  { i with s := i.s.modTeam i.k.team (fun t => t.setSpad i.k.shadow (cellWrite (t.spadOf i.k.shadow) o bs)) }

/-- The offset of a thread (R141). -/
def Iss.spadOff (i : Iss) (base : Opnd) (a : Addr) (t : Nat) : Int :=
  Int.ofNat ((i.val base 1 t).setWidth 32).toNat + i.addrOff a t

/-- The threads whose range lies outside, with SPAD_BOUNDS (R141). -/
def Iss.spadFaults (i : Iss) (n : Nat) (off : Nat → Int) : List ThrFault :=
  i.threads.filterMap (fun t =>
    if (i.team.map (fun tm => tm.spadIn (off t) n)).getD false then none else some ⟨t, cSPAD_BOUNDS, BitVec.ofInt 64 (off t), false, none⟩)

/-- The active threads without a fault. -/
def Iss.committed (i : Iss) (fs : List ThrFault) : List Nat := i.threads.filter (fun t => fs.all (fun e => e.thread ≠ t))

def maskOfList (l : List Nat) : Mask := l.foldl (fun m t => m ||| BitVec.twoPow 512 t) 0#512

/-- LDL (R140, R141). -/
def execLdl (x : Sys2Proof.Mem) (s : State) : Result :=
  runCore
    { view := x.view [.v] [.s] offSrc
      body := fun i =>
        let off := i.spadOff x.a x.addr
        let fs := i.spadFaults x.w.bytes off
        let ok := maskOfList (i.committed fs)
        let d := Dest.v x.d.num x.w.regs
        i.allocDest d ok (fun j =>
          (j.deliverNow d ok (fun t => loadVal x.w.signed x.w.bytes (i.spadRead (off t).toNat x.w.bytes))).endWith
            (faultOf fs .load (ok != 0#512) i.p0.iaddr i.p0.word)) } s

/-- STL (R140, R141): the highest-numbered thread's bytes stand. -/
def execStl (x : Sys2Proof.Mem) (s : State) : Result :=
  runCore
    { view := x.view dataSrc [.s] offSrc
      data := some x.d
      cmp := some fun i => i.storeItems { ea := i.spadOff x.a x.addr, reg := .zero, size := x.w.bytes, bytes := i.dataBytes x.d x.w.bytes }
      body := fun i =>
        let off := i.spadOff x.a x.addr
        let fs := i.spadFaults x.w.bytes off
        let ok := i.committed fs
        (ok.foldl (fun j t => j.spadWrite (off t).toNat (i.dataBytes x.d x.w.bytes t)) i).endWith
          (faultOf fs .store (!ok.isEmpty) i.p0.iaddr i.p0.word) } s

/-! ## ATOML (R144, R145) -/

/-- new of R145 on n-bit values. -/
def lopNew (op : LOp) (signed : Bool) (n : Nat) (old b c : Word64) : Word64 :=
  let lt (x y : Word64) : Bool := decide (extInt signed n x < extInt signed n y)
  match op with
  | .add => old + b
  | .min => if lt b old then b else old
  | .max => if lt old b then b else old
  | .and => old &&& b
  | .or => old ||| b
  | .xor => old ^^^ b
  | .exch => b
  | .cas => if extInt false n old = extInt false n c then b else old

/-- The issuing split holds every thread of its group that has neither exited nor parked (R226, R295). -/
def Iss.holdsAll (i : Iss) : Bool := i.g0.liveMask &&& ~~~i.p0.mask == 0#512

/-- The team's groups (R84). -/
def Iss.teamGroups (i : Iss) : Nat := ((i.s0.launch? i.k.team.launch).map (fun l => l.lrec.groups)).getD 1

def LTy.signed : LTy → Bool
  | .i32 => true
  | .i64 => true
  | _ => false

/-- ATOML (R144, R145): every thread is checked before any takes effect. -/
def execAtoml (x : AtomL) (s : State) : Result :=
  let n := if x.ty.wide then 8 else 4
  let r := n / 4
  let arg (i : Iss) (t : Nat) : Word64 × Word64 := (i.src x.b r t, (x.cmp.map (fun o => i.val o r t)).getD 0)
  runCore
    { view := x.view
      lit := x.b.isLit
      det := fun i => 1 < i.teamGroups || !i.holdsAll
      nonIdem := fun _ => true
      cmp := some fun i => i.threads.map (fun t => (t, [(i.val x.a 1 t).setWidth 32 |>.setWidth 64, (arg i t).1, (arg i t).2]))
      body := fun i =>
        let off (t : Nat) : Nat := ((i.val x.a 1 t).setWidth 32).toNat
        let mis := i.threads.filterMap (fun t =>
          if off t % n = 0 then none else some (⟨t, cALIGN, BitVec.ofNat 64 (off t), false, none⟩ : ThrFault))
        let bad := i.threads.filterMap (fun t =>
          if off t % n ≠ 0 || (i.team.map (fun tm => tm.spadIn (off t) n)).getD false then none
          else some (⟨t, cSPAD_BOUNDS, BitVec.ofNat 64 (off t), false, none⟩ : ThrFault))
        match faultOf (mis ++ bad) .atomic false i.p0.iaddr i.p0.word with
        | some info => .trap { i with s := i.s0, g := i.g0 } info
        | none =>
          i.allocV x.d r (fun j =>
            let step (acc : Iss × List (Nat × Word64)) (t : Nat) : Iss × List (Nat × Word64) :=
              let old : Word64 := BitVec.ofNat 64 (leNat (acc.1.spadRead (off t) n))
              let (b, c) := arg i t
              (acc.1.spadWrite (off t) (leBytes n (lopNew x.op (LTy.signed x.ty) (8 * n) old b c).toNat), (t, old) :: acc.2)
            let (k, olds) := i.threads.foldl step (j, [])
            .ok { k with g := k.g.writeLanes x.d.num r k.act (fun t => lookupD olds t 0) }) } s

end Sys2Proof.Machine
end

