-- ==== Sys2Proof/Machine/Atomic.lean ====
section
/-! DEFINITION. Atomics at memory, reserved offsets, fences and monitors as they issue
(spec/10_atomic_fence_remote_instructions.md R221 to R231). -/

namespace Sys2Proof.Machine

/-! ## new of R222 -/

/-- The new value of an atomic from the old value, b and c, and the flags FADD raises. -/
def atomNew (op : AtomOp) (wide : Bool) (old b c : Word64) : Word64 × BitVec 5 :=
  let n := if wide then 64 else 32
  let cut (x : Word64) : Word64 := BitVec.ofNat 64 (x.toNat % 2 ^ n)
  let lt (sg : Bool) (x y : Word64) : Bool := decide (extInt sg n x < extInt sg n y)
  match op with
  | .add => (cut (old + b), 0)
  | .minI => (cut (if lt true b old then b else old), 0)
  | .minN => (cut (if lt false b old then b else old), 0)
  | .maxI => (cut (if lt true old b then b else old), 0)
  | .maxN => (cut (if lt false old b then b else old), 0)
  | .and => (cut (old &&& b), 0)
  | .or => (cut (old ||| b), 0)
  | .xor => (cut (old ^^^ b), 0)
  | .exch => (cut b, 0)
  | .cas => (cut (if cut old = cut c then b else old), 0)
  | .fadd =>
    let f := if wide then fF64 else fF32
    let r := f.add .rn (f.unpack (old.toNat % 2 ^ n)) (f.unpack (b.toNat % 2 ^ n))
    (BitVec.ofNat 64 r.1, r.2)

/-- Bytes of an atomic's location. -/
def atomBytes (wide : Bool) : Nat := if wide then 8 else 4

/-! ## ATOM and RED (R221, R223) -/

/-- A thread's b, and its c for CAS: the compare value is the first half of the operand, b the second (R223). -/
def Iss.atomArg (i : Iss) (op : AtomOp) (wide : Bool) (d : Opnd) (t : Nat) : AtomArg :=
  let r := if wide then 2 else 1
  match op, d with
  | .cas, .v n => ⟨t, i.g0.vVal (n.toNat + r) r t, i.g0.vVal n.toNat r t, none⟩
  | _, _ => ⟨t, i.val d r t, 0, none⟩

/-- Lines of the pieces leave the core's L1, and the RDC serves those bytes no more (R166, R177, R224). -/
def State.dropLines (s : State) (core ctx : Nat) (ps : List Piece) : State :=
  ps.foldl (fun s p =>
    if isRemote p.pa then s.setMem (s.mem.rdcSkip (coreBase core) ctx p.pa p.size) else s.l1Drop core ctx (p.pa / 128)) s

/-- An atomic instruction: its kind, its operands and its ordering. -/
structure AtomSpec where
  kind : OpKind
  size : Nat
  reg : AReg
  ea : Nat → Int
  arg : Nat → AtomArg
  scope : Scope
  acq : Bool
  rel : Bool
  dest : Dest
  allowed : AReg → Bool := AReg.atm
  placed : AReg → Nat → Bool := natural size true

/-- An atomic issues: every thread is checked, then every thread's operation is on its way to its executor (R223). -/
def Iss.atomic (i : Iss) (l : AtomSpec) : Act :=
  if !i.any then .ok i
  else
    let w : Want := { perm := .atomic, allowed := l.allowed, size := l.size, placed := l.placed }
    let got := i.gatherFor w l.reg i.threads l.ea
    match faultOf got.faults .atomic false i.p0.iaddr i.p0.word with
    | some info => i.faultWalked got info
    | none =>
      if !i.k.shadow && !(i.s.entriesFit i.core got.pieces).1 then .stall 0 none
      else i.allocDest l.dest i.act (fun i =>
        if i.k.shadow then .ok { i.markBusy l.dest i.act (i.shared.headD 0) with flagUp := true }
        else
          let s1 := (i.walked got).dropLines i.core i.g0.ctx got.pieces
          let (id, j0) := ({ i with s := s1 } : Iss).spend.opId
          let j := if l.acq then { j0 with s := j0.s.fenceLoads i.opKey i.act l.scope id } else j0
          let op := { j.memOp id l.kind i.act got.pieces l.dest l.size false with
            args := i.threads.map l.arg, scope := l.scope, acq := l.acq, rel := l.rel }
          .ok { j.markBusy l.dest i.act id with s := j.s.addMemOp op, flagUp := true })

def AOrd.acquires (o : AOrd) : Bool := o == .acq || o == .ar
def AOrd.releases (o : AOrd) : Bool := o == .rel || o == .ar

/-- What ATOM and RED do. -/
def atomSpec (x : Atom) (returns : Bool) (i : Iss) : AtomSpec :=
  { kind := .atomic x.op x.wide returns, size := atomBytes x.wide, reg := i.areg x.a
    ea := fun t => Int.ofNat (i.areg x.a).ptr.toNat + i.offVal x.b t * x.scale.factor
    arg := i.atomArg x.op x.wide x.d, scope := x.scope, acq := AOrd.acquires x.ord, rel := AOrd.releases x.ord
    dest := if returns then .v x.d.num (atomBytes x.wide / 4) else .none }

/-- What R108 compares of an atomic. -/
def Iss.atomItems (i : Iss) (l : AtomSpec) : List (Nat × List Word64) :=
  i.threads.map (fun t => (t, [BitVec.ofInt 64 (l.ea t), (l.arg t).b, (l.arg t).c]))

/-- ATOM (R223). -/
def execAtom (x : Atom) (s : State) : Result :=
  runCore
    { view := x.view
      data := some x.d
      det := fun _ => true
      nonIdem := fun _ => true
      cmp := some fun i => i.atomItems (atomSpec x true i)
      body := fun i => i.atomic (atomSpec x true i) } s
/-- RED (R223). -/
def execRed (x : Atom) (s : State) : Result :=
  runCore
    { view := x.redView
      data := some x.d
      det := fun _ => x.op == .fadd
      nonIdem := fun _ => true
      cmp := some fun i => i.atomItems (atomSpec x false i)
      body := fun i => i.atomic (atomSpec x false i) } s

/-! ## ATOMR (R226) -/

/-- The offsets before each thread, and the running total, threads ascending. -/
def runningTotals (start : Nat) : List (Nat × Nat) → List (Nat × Nat) × Nat
  | [] => ([], start)
  | (t, n) :: rest =>
    let (l, e) := runningTotals (start + n) rest
    ((t, start) :: l, e)

/-- ATOMR (R226). -/
def execAtomr (x : UBin) (s : State) : Result :=
  runCore
    { view := x.atomrView
      lit := x.b.isLit
      det := fun i => !i.holdsAll
      nonIdem := fun _ => true
      cmp := some fun i => i.threads.map (fun t => (t, [i.uni x.a, (i.src x.b 1 t).setWidth 32 |>.setWidth 64]))
      body := fun i =>
        if !i.any then .ok i
        else
          let size (t : Nat) : Nat := ((i.src x.b 1 t).setWidth 32).toNat
          let (l, cur) := runningTotals (i.uni x.a).toNat (i.threads.map (fun t => (t, size t)))
          let base := (i.team.map Team.resBase).getD 0
          if (i.team.map Team.resCount).getD 0 < cur then i.fault cADDR_BOUNDS (BitVec.ofNat 64 cur) i.act
          else (i.writeV x.d 2 (fun t => BitVec.ofNat 64 (base + lookupD l t 0))).andThen (fun j => .ok (j.writeS x.a (BitVec.ofNat 64 cur))) } s

/-! ## Fences (R227, R228) -/

/-- FENCE (R227): later accesses wait, the split does not. -/
def execFence (x : Fence) (s : State) : Result :=
  runCore
    { view := x.view
      body := fun i => .ok (if i.any then i.point i.act x.scope (x.kind != .acq) (x.kind != .rel) 0 else i) } s
/-- QFENCE (R228). -/
def execQfence (x : QFence) (s : State) : Result :=
  runCore { view := x.view, body := fun i => .ok (if i.any && x.queues != 0#11 then i.point i.act .grp false false x.queues else i) } s

/-! ## WAITC (R230, R231) -/

/-- WAITC: the split blocks until a check of the location finds the condition true. -/
def execWaitc (x : Waitc) (s : State) : Result :=
  runCore
    { view := x.view
      lit := x.b.isLit
      body := fun i =>
        if !i.any then .ok i
        else
          let a := i.areg x.a
          let got := i.gatherFor { perm := .load, allowed := AReg.rd, size := atomBytes x.wide, placed := natural (atomBytes x.wide) true } a [i.low]
            (fun _ => Int.ofNat a.ptr.toNat)
          match faultOf got.faults .load false i.p0.iaddr i.p0.word with
          | some info => i.faultWalked got { info with mask := i.act }
          | none =>
            if i.k.shadow then .ok { i with flow := .block (.monitor (i.shared.headD 0)) }
            else if !(i.s.entriesFit i.core got.pieces).1 then .stall 0 none
            else
              let s1 := i.walked got
              let (id, j0) := ({ i with s := s1 } : Iss).spend.opId
              let j := { j0 with s := j0.s.fenceLoads i.opKey i.act x.scope id }
              let op := { j.memOp id (.monitor x.cc x.nat (i.uniSrc x.b)) i.act got.pieces .none (atomBytes x.wide) false
                with scope := x.scope, acq := true }
              .ok { j with s := j.s.addMemOp op, flow := .block (.monitor id) } } s

end Sys2Proof.Machine
end

