-- ==== Sys2Proof/Machine/Accum.lean ====
section
/-! DEFINITION. Long accumulators (spec/13_long_accumulator_collective_instructions.md R261 to R271): images, what
each instruction does to them, and their slots in memory. -/

namespace Sys2Proof.Machine

/-! ## Images (R262, R263) -/

/-- Bits of an image's value, and s of R267. -/
def Image.bits (m : Image) : Nat := 8 * limbBytes m.wide
def Image.scale (m : Image) : Nat := if m.wide then 1088 else 160

/-- The integer the limbs hold. -/
def Image.value (m : Image) : Int :=
  let u := m.limbs.toNat % 2 ^ m.bits
  if 2 ^ (m.bits - 1) ≤ u then (u : Int) - 2 ^ m.bits else u

/-- limbs := limbs + q. -/
def Image.addInt (m : Image) (q : Int) : Image :=
  { m with limbs := BitVec.ofNat 2176 (((m.limbs.toNat : Int) + q) % 2 ^ m.bits).toNat }

/-- count(k) of R267. -/
def AccStatus.addCount (st : AccStatus) (k : Nat) : AccStatus :=
  if 2 ^ 56 - 1 < st.count.toNat + k then { st with count := ~~~0#56, ovf := true }
  else { st with count := BitVec.ofNat 56 (st.count.toNat + k) }
def Image.count (m : Image) (k : Nat) : Image := { m with st := m.st.addCount k }

/-- An infinity taken. -/
def AccStatus.infinity (st : AccStatus) (neg : Bool) : AccStatus := if neg then { st with ninf := true } else { st with pinf := true }

/-- A dyadic magnitude times 2^s truncated toward zero, and whether bits were dropped. -/
def truncScaled (m : Nat) (e : Int) (s : Nat) : Nat × Bool :=
  let x := e + s
  if 0 ≤ x then (m <<< x.toNat, false) else (m >>> (-x).toNat, decide (m % 2 ^ (-x).toNat ≠ 0))

def signed (neg : Bool) (n : Nat) : Int := if neg then -(n : Int) else n

/-- take(t, x) of R267, with the flags it raises. -/
def Image.take (m : Image) (x : FVal) : Image × BitVec 5 :=
  match x with
  | .nan sg => (({ m with st := { m.st with nan := true } } : Image).count 1, flagIf sg fNV)
  | .inf n => (({ m with st := m.st.infinity n } : Image).count 1, 0)
  | .fin n k e => ((m.addInt (signed n (truncScaled k e m.scale).1)).count 1, 0)

/-- |p| ≥ 2^k for p of magnitude m × 2^e. -/
def reaches (m : Nat) (e : Int) (k : Nat) : Bool := m != 0 && decide ((k : Int) ≤ (Nat.log2 m : Int) + e)

/-- LAMAD's effect (R267): the exact product is taken. -/
def Image.takeProduct (m : Image) (a b : FVal) : Image × BitVec 5 :=
  let nan (fl : BitVec 5) : Image × BitVec 5 := (({ m with st := { m.st with nan := true } } : Image).count 1, fl)
  let infinite (n : Bool) (fl : BitVec 5) : Image × BitVec 5 := (({ m with st := m.st.infinity n } : Image).count 1, fl)
  let product (x y : FVal) : Image × BitVec 5 :=
    match x, y with
    | .fin n k e, .fin n' k' e' =>
      let neg := n != n'
      if reaches (k * k') (e + e') (if m.wide then 1024 else 128) then infinite neg (fOF ||| fNX)
      else
        let (q, lost) := truncScaled (k * k') (e + e') m.scale
        ((({ m with st := { m.st with lost := m.st.lost || lost } } : Image).addInt (signed neg q)).count 1, 0)
    | x, y => if x.isZero || y.isZero then nan fNV else infinite (x.neg? != y.neg?) 0
  if a.isNan || b.isNan then nan (flagIf (a.isSnan || b.isSnan) fNV) else product a b

/-- LAMRG's effect (R267): a narrow image merges into a wide one at its weight. -/
def Image.merge (m x : Image) : Image :=
  let q := x.value * 2 ^ (m.scale - x.scale)
  let st : AccStatus := { m.st with
    lost := m.st.lost || x.st.lost, ovf := m.st.ovf || x.st.ovf, nan := m.st.nan || x.st.nan, ninf := m.st.ninf || x.st.ninf
    pinf := m.st.pinf || x.st.pinf }
  ({ m with st := st } : Image).addInt q |>.count x.st.count.toNat

/-- An image rounded to a format (R269). -/
def Image.round (m : Image) (f : Fmt) (r : Rnd) : FRes :=
  let nx := flagIf m.st.lost fNX
  if m.st.nan || (m.st.pinf && m.st.ninf) || m.st.ovf then (f.qnan, fNV)
  else if m.st.pinf then (f.infBits false, nx)
  else if m.st.ninf then (f.infBits true, nx)
  else
    let res := f.roundInt r m.value (-(m.scale : Int)) (r == .rd)
    (res.1, res.2 ||| nx)

/-! ## Slots (R264) -/

/-- Bytes of an image in memory. -/
def imageBytes (wide : Bool) : Nat := if wide then 280 else 56
/-- An address is that of a slot. DEDUCED: log entry 23. -/
def slotAt (wide : Bool) (a : Nat) : Bool := if wide then a % 4096 % 384 = 0 && a % 4096 ≤ 3456 else a % 64 = 0

/-! ## Instructions -/

/-- The images of a thread. -/
def Iss.img (i : Iss) (t n : Nat) : Option Image := (i.g0.threads[t]?).bind (fun th => th.acc[n]?)
/-- The image of an x register as the lowest active thread has it: which kind it is. -/
def Iss.bound (i : Iss) (n : Nat) : Option Image := i.img i.low n

/-- An operation that will write an x register of some active thread. -/
def Iss.accAwaited (i : Iss) (ns : List Nat) : Option Nat :=
  (i.s0.ops.mem.find? (fun o => o.g = i.opKey && (o.active &&& i.act) != 0#512 && (match o.dest with
    | .x n => ns.contains n
    | _ => false))).map MemOp.id

/-- An instruction on accumulators: it waits for images under way, and faults on a register no launch bound or that cannot
hold what it takes (R261). -/
def Iss.onAcc (i : Iss) (x : Nat) (xs : Option Nat) (fits : Image → Option Image → Bool) (k : Image → Act) : Act :=
  if !i.any then .ok i
  else
    match i.accAwaited (x :: xs.toList) with
    | some op => .stall (i.s0.resultCode op) (some op)
    | none =>
      match i.bound x with
      | none => i.fault cACCUM_UNBOUND (BitVec.ofNat 64 x) i.act
      | some m =>
        match xs with
        | none => if fits m none then k m else i.fault cACCUM_UNBOUND (BitVec.ofNat 64 x) i.act
        | some y =>
          match i.bound y with
          | none => i.fault cACCUM_UNBOUND (BitVec.ofNat 64 y) i.act
          | some n => if fits m (some n) then k m else i.fault cACCUM_UNBOUND (BitVec.ofNat 64 x) i.act

/-- Images of an x register of the active threads changed, with the flags each raises. -/
def Iss.updAcc (i : Iss) (x : Nat) (f : Nat → Image → Image × BitVec 5) : Iss :=
  let res (t : Nat) (m : Image) : Image × BitVec 5 := f t m
  let j : Iss := { i with g := i.g.writeAcc x i.act (fun t m => (res t m).1) }
  j.raise (fun t => ((i.img t x).map (fun m => (res t m).2)).getD 0)

/-- A floating operand of a thread. -/
def Iss.fval (i : Iss) (f : FFmt) (o : Opnd) (t : Nat) : FVal :=
  let fm := fmtOf f
  fm.unpack ((i.val o f.regs t).toNat % 2 ^ fm.width)

/-- LACLR (R267). -/
def execLaclr (x : LaX) (s : State) : Result :=
  runCore
    { view := x.view
      body := fun i => i.onAcc x.x.toNat none (fun _ _ => true) (fun _ =>
        .ok (i.updAcc x.x.toNat (fun _ m => ({ m with limbs := 0, st := ⟨0, false, false, false, false, false⟩ }, 0)))) } s
/-- LAADD (R267). -/
def execLaadd (x : LaAdd) (s : State) : Result :=
  runCore
    { view := x.view
      nonIdem := fun _ => true
      body := fun i =>
        i.onAcc x.x.toNat none (fun m _ => m.wide || x.fmt != .f64) (fun _ => .ok (i.updAcc x.x.toNat (fun t m => m.take (i.fval x.fmt x.a t)))) } s
/-- LAMAD (R267). -/
def execLamad (x : LaMad) (s : State) : Result :=
  runCore
    { view := x.view
      nonIdem := fun _ => true
      body := fun i =>
        i.onAcc x.x.toNat none (fun m _ => m.wide || x.fmt != .f64) (fun _ =>
          .ok (i.updAcc x.x.toNat (fun t m => m.takeProduct (i.fval x.fmt x.a t) (i.fval x.fmt x.b t)))) } s
/-- LAMRG (R267). -/
def execLamrg (x : LaMrg) (s : State) : Result :=
  runCore
    { view := x.view
      nonIdem := fun _ => true
      body := fun i =>
        i.onAcc x.x.toNat (some x.xs.toNat) (fun m n => m.wide || !((n.map Image.wide).getD false)) (fun _ =>
          .ok (i.updAcc x.x.toNat (fun t m => (((i.img t x.xs.toNat).map (fun y => m.merge y)).getD m, 0)))) } s

/-- The threads an LAFL takes for one thread (R268). -/
def Iss.foldSet (i : Iss) (mode : FoldMode) (t : Nat) : List Nat :=
  match mode with
  | .lane => i.threads.filter (fun u => i.g0.memberOf u = i.g0.memberOf t)
  | .memb => i.threads.filter (fun u => i.g0.laneOf u = i.g0.laneOf t)
  | .all => i.threads
/-- LAFL (R268). -/
def execLafl (x : LaFl) (s : State) : Result :=
  runCore
    { view := x.view
      body := fun i =>
        i.onAcc x.x.toNat (some x.xs.toNat) (fun m n => m.wide || !((n.map Image.wide).getD false)) (fun _ =>
          .ok (i.updAcc x.x.toNat (fun t m =>
            ((i.foldSet x.mode t).foldl (fun acc u => ((i.img u x.xs.toNat).map (fun y => acc.merge y)).getD acc)
              (⟨m.wide, 0, ⟨0, false, false, false, false, false⟩⟩ : Image), 0)))) } s

/-- LARND (R269). -/
def execLarnd (x : LaRnd) (s : State) : Result :=
  runCore
    { view := x.view
      body := fun i =>
        i.onAcc x.x.toNat none (fun _ _ => true) (fun _ =>
          let res (t : Nat) : FRes := ((i.img t x.x.toNat).map (fun m => m.round (fmtOf x.fmt) x.rnd)).getD (0, 0)
          (i.writeV x.d x.fmt.regs (fun t => BitVec.ofNat 64 (res t).1)).andThen (fun j => .ok (j.raise (fun t => (res t).2)))) } s

/-- LALD (R270). -/
def execLald (x : LaMem) (s : State) : Result :=
  runCore
    { view := x.view
      body := fun i =>
        i.onAcc x.x.toNat none (fun _ _ => true) (fun m =>
          i.load { threads := i.threads, ea := i.eaOf (i.areg x.a) x.addr, reg := i.areg x.a, size := imageBytes m.wide, signed := false
                   dest := .x x.x.toNat, placed := fun _ a => slotAt m.wide a }) } s

/-- An image as the words that R108 compares, all of its bits. -/
def Image.items (m : Option Image) : List Word64 :=
  let n := (m.map Image.toNat).getD 0
  (List.range 36).map (fun k => BitVec.ofNat 64 (n / 2 ^ (64 * k)))

/-- What LASV stores. -/
def lasvSpec (x : LaMem) (wide : Bool) (i : Iss) : StoreSpec :=
  { ea := i.eaOf (i.areg x.a) x.addr, reg := i.areg x.a, size := imageBytes wide
    bytes := fun t => leBytes (imageBytes wide) (((i.img t x.x.toNat).map Image.toNat).getD 0), placed := fun _ a => slotAt wide a }
/-- LASV (R270). -/
def execLasv (x : LaMem) (s : State) : Result :=
  runCore
    { view := x.view
      cmp := some fun i => i.threads.map (fun t => (t, BitVec.ofInt 64 (i.eaOf (i.areg x.a) x.addr t) :: Image.items (i.img t x.x.toNat)))
      body := fun i => i.onAcc x.x.toNat none (fun _ _ => true) (fun m => i.store (lasvSpec x m.wide i)) } s

/-! ## REDLA (R271) -/

def redlaSpec (x : Redla) (i : Iss) : AtomSpec :=
  { kind := .redla x.kw (match x.src with | .image _ => none | .value f _ => some f)
    size := imageBytes x.kw, reg := i.areg x.a
    ea := fun t => Int.ofNat (i.areg x.a).ptr.toNat + i.offVal x.b t * x.scale.factor
    arg := fun t => match x.src with
      | .image n => ⟨t, 0, 0, i.img t n.toNat⟩
      | .value f d => ⟨t, i.val d f.regs t, 0, none⟩
    scope := x.scope, acq := false, rel := x.rel, dest := .none
    allowed := fun a => a.atm && !a.pv, placed := fun _ a => slotAt x.kw a }
/-- REDLA (R271). -/
def execRedla (x : Redla) (s : State) : Result :=
  runCore
    { view := x.view
      data := match x.src with
        | .value _ d => some d
        | .image _ => none
      nonIdem := fun _ => true
      cmp := some fun i => i.threads.map (fun t =>
        let a := (redlaSpec x i).arg t
        (t, BitVec.ofInt 64 ((redlaSpec x i).ea t) :: a.b :: Image.items a.img))
      body := fun i =>
        match x.src with
        | .value _ _ => i.atomic (redlaSpec x i)
        | .image n => i.onAcc n.toNat none (fun m _ => !m.wide || x.kw) (fun _ => i.atomic (redlaSpec x i)) } s

end Sys2Proof.Machine
end

