-- ==== Sys2Proof/Machine/LaneFloat.lean ====
section
/-! DEFINITION. The lane-floating-point instructions (spec/02_core_instructions.md R60 to R63). -/

namespace Sys2Proof.Machine

/-! ## The effect of R61 -/

/-- An operation on each element of a format in a register or pair (R49): its result and the flags of all
elements. `op` receives what takes an operand's element. -/
def perElem (f : FFmt) (op : (Word64 → Nat) → FRes) : Word64 × BitVec 5 :=
  match f with
  | .f32 => let r := op (fun x => x.toNat % 2 ^ 32); (BitVec.ofNat 64 r.1, r.2)
  | .f64 => let r := op (fun x => x.toNat); (BitVec.ofNat 64 r.1, r.2)
  | _ =>
    let lo := op (fun x => x.toNat % 2 ^ 16)
    let hi := op (fun x => x.toNat / 2 ^ 16 % 2 ^ 16)
    (BitVec.ofNat 64 (lo.1 + hi.1 * 2 ^ 16), lo.2 ||| hi.2)

/-- Results and flags of the active threads (R53, R61). -/
def Iss.writeF (i : Iss) (d : Opnd) (regs : Nat) (r : Nat → Word64 × BitVec 5) : Act :=
  (i.writeV d regs (fun t => (r t).1)).andThen (fun y => .ok (y.raise (fun t => (r t).2)))

/-- Two sources. -/
def floatBin (x : FBin) (round : Bool) (op : Fmt → Nat → Nat → FRes) : Meaning :=
  { view := x.view round
    lit := x.b.isLit
    body := fun i => i.writeF x.d x.fmt.regs (fun t =>
      perElem x.fmt (fun e => op (fmtOf x.fmt) (e (i.val x.a x.fmt.regs t)) (e (i.src x.b x.fmt.regs t)))) }

/-- One source. -/
def floatUn (x : FUn) (round : Bool) (op : Fmt → Nat → FRes) : Meaning :=
  { view := x.view round
    body := fun i => i.writeF x.d x.fmt.regs (fun t => perElem x.fmt (fun e => op (fmtOf x.fmt) (e (i.val x.a x.fmt.regs t)))) }

/-! ## The instructions -/

def execFadd (x : FBin) (s : State) : Result :=
  runCore (floatBin x true (fun f a b => f.add x.rnd (f.unpack a) (f.unpack b))) s
def execFsub (x : FBin) (s : State) : Result :=
  runCore (floatBin x true (fun f a b => f.add x.rnd (f.unpack a) (f.unpack b).negate)) s
def execFmul (x : FBin) (s : State) : Result :=
  runCore (floatBin x true (fun f a b => f.mul x.rnd (f.unpack a) (f.unpack b))) s
def execFfma (x : FTern) (s : State) : Result :=
  runCore
    { view := x.view
      lit := x.b.isLit
      body := fun i => i.writeF x.d x.fmt.regs (fun t =>
        let f := fmtOf x.fmt
        perElem x.fmt (fun e => f.fma x.rnd (f.unpack (e (i.val x.a x.fmt.regs t))) (f.unpack (e (i.src x.b x.fmt.regs t)))
          (f.unpack (e (i.val x.x x.fmt.regs t))))) } s
def execFmin (x : FBin) (s : State) : Result := runCore (floatBin x false (fun f a b => f.minmax true a b)) s
def execFmax (x : FBin) (s : State) : Result := runCore (floatBin x false (fun f a b => f.minmax false a b)) s
/-- FABS and FNEG change the sign bit alone and raise no flag (R53, R60). -/
def execFabs (x : FUn) (s : State) : Result := runCore (floatUn x false (fun f a => (a % 2 ^ (f.width - 1), 0))) s
def execFneg (x : FUn) (s : State) : Result := runCore (floatUn x false (fun f a => (a ^^^ 2 ^ (f.width - 1), 0))) s
def execFrcp (x : FUn) (s : State) : Result := runCore (floatUn x true (fun f a => f.rcp x.rnd (f.unpack a))) s
def execFrsq (x : FUn) (s : State) : Result := runCore (floatUn x true (fun f a => f.rsq x.rnd (f.unpack a))) s
def execFsqrt (x : FUn) (s : State) : Result := runCore (floatUn x true (fun f a => f.sqrt x.rnd (f.unpack a))) s
def execFex2 (x : FUn) (s : State) : Result := runCore (floatUn x true (fun f a => f.exp2 x.rnd (f.unpack a))) s
def execFlg2 (x : FUn) (s : State) : Result := runCore (floatUn x true (fun f a => f.log2 x.rnd (f.unpack a))) s
def execFsin (x : FUn) (s : State) : Result := runCore (floatUn x true (fun f a => f.sin x.rnd (f.unpack a))) s
def execFcos (x : FUn) (s : State) : Result := runCore (floatUn x true (fun f a => f.cos x.rnd (f.unpack a))) s

/-- FCMP (R63); for packed formats the elements in bits 15:0. -/
def execFcmp (x : FCmp) (s : State) : Result :=
  runCore
    { view := x.view
      lit := x.b.isLit
      body := fun i =>
        let f := fmtOf x.fmt
        let el (w : Word64) : FVal := f.unpack (w.toNat % 2 ^ f.width)
        let r (t : Nat) := fcond x.cc (el (i.val x.a x.fmt.regs t)) (el (i.src x.b x.fmt.regs t))
        .ok ((i.writeP x.d i.act (fun t => (r t).1)).raise (fun t => (r t).2)) } s

/-- FCLASS (R63). -/
def execFclass (x : FUn) (s : State) : Result := runCore (floatUn x false (fun f a => (f.classMask a, 0))) s

end Sys2Proof.Machine
end

