-- ==== Sys2Proof/Machine/Convert.lean ====
section
/-! DEFINITION. Conversion (spec/02_core_instructions.md R64, R65) and the exchange of values among lanes (R66). -/

namespace Sys2Proof.Machine

/-! ## CVT (R64) -/

/-- An integer type's width and signedness. -/
def cvtBits : CvtTy → Nat
  | .i8 | .n8 => 8
  | .i16 | .n16 | .f16 | .bf16 => 16
  | .i32 | .n32 | .f32 => 32
  | .i64 | .n64 | .f64 => 64
def cvtSigned : CvtTy → Bool
  | .i8 | .i16 | .i32 | .i64 => true
  | _ => false
def cvtFmt : CvtTy → Fmt
  | .f16 => fF16
  | .bf16 => fBF16
  | .f64 => fF64
  | _ => fF32

/-- CVT of one value: the result as its destination receives it, and its flags. -/
def convert (sat : Bool) (r : Rnd) (dt st : CvtTy) (x : Word64) : Word64 × BitVec 5 :=
  let toInt (v : Int) : Word64 := narrowInt (cvtSigned dt) (cvtBits dt) v
  if st.isFloat then
    let v := (cvtFmt st).unpack (x.toNat % 2 ^ cvtBits st)
    if dt.isFloat then
      let q := (cvtFmt dt).convert r v
      (BitVec.ofNat 64 q.1, q.2)
    else
      let q := floatToInt r (cvtSigned dt) (cvtBits dt) v
      (toInt q.1, q.2)
  else
    let v := extInt (cvtSigned st) (cvtBits st) x
    if dt.isFloat then
      let q := (cvtFmt dt).roundInt r v 0 false
      (BitVec.ofNat 64 q.1, q.2)
    else (toInt (if sat then satInt (cvtSigned dt) (cvtBits dt) v else v), 0)

def execCvt (x : Cvt) (s : State) : Result :=
  runCore { view := x.view, body := fun i => i.writeF x.d x.dt.regs (fun t =>
    convert x.sat x.rnd x.dt x.st (i.val x.a x.st.regs t)) } s

/-! ## PACK and UNPACK (R65) -/

/-- conv of R65: one 16-bit half. A .I16 result narrows a signed, an .N16 result an unsigned 32-bit source. -/
def packHalf (sat : Bool) (r : Rnd) (f : PackFmt) (x : Word64) : FRes :=
  match f with
  | .f16 => fF16.convert r (fF32.unpack (x.toNat % 2 ^ 32))
  | .bf16 => fBF16.convert r (fF32.unpack (x.toNat % 2 ^ 32))
  | .i16 =>
    let v := extInt true 32 x
    (((if sat then satInt true 16 v else v) % 2 ^ 16).toNat, 0)
  | .n16 =>
    let v := extInt false 32 x
    (((if sat then satInt false 16 v else v) % 2 ^ 16).toNat, 0)

/-- widen of R65. -/
def unpackHalf (f : PackFmt) (h : Nat) : FRes :=
  match f with
  | .f16 => fF32.convert .rn (fF16.unpack h)
  | .bf16 => fF32.convert .rn (fBF16.unpack h)
  | .i16 => ((extInt true 16 (BitVec.ofNat 64 h) % 2 ^ 32).toNat, 0)
  | .n16 => (h, 0)

def execPack (x : Pack) (s : State) : Result :=
  runCore { view := x.view, body := fun i => i.writeF x.d 1 (fun t =>
    let lo := packHalf x.sat x.rnd x.fmt (i.val x.a 1 t)
    let hi := packHalf x.sat x.rnd x.fmt (i.val x.b 1 t)
    (BitVec.ofNat 64 (lo.1 + hi.1 * 2 ^ 16), lo.2 ||| hi.2)) } s
def execUnpack (x : Unpack) (s : State) : Result :=
  runCore { view := x.view, body := fun i => i.writeF x.d 2 (fun t =>
    let w := (i.val x.a 1 t).toNat
    let lo := unpackHalf x.fmt (w % 2 ^ 16)
    let hi := unpackHalf x.fmt (w / 2 ^ 16 % 2 ^ 16)
    (BitVec.ofNat 64 (lo.1 + hi.1 * 2 ^ 32), lo.2 ||| hi.2)) } s

/-! ## Reductions (R66) -/

/-- An integer operation of R66 on n-bit values. -/
def redInt (op : RedOp) (n : Nat) (a b : Word64) : Word64 :=
  let u (x : Word64) : Nat := x.toNat % 2 ^ n
  let less (sg : Bool) : Bool := decide (extInt sg n a < extInt sg n b)
  match op with
  | .add => BitVec.ofNat 64 ((u a + u b) % 2 ^ n)
  | .minI => if less true then a else b
  | .minN => if less false then a else b
  | .maxI => if less true then b else a
  | .maxN => if less false then b else a
  | .and => a &&& b
  | .or => a ||| b
  | .xor => a ^^^ b
  | _ => a

/-- One step of a reduction: a result with the flags so far. -/
def redStep (op : RedOp) (n : Nat) (a : Word64 × BitVec 5) (b : Word64) : Word64 × BitVec 5 :=
  let f (fm : Fmt) (isMin : Bool) : Word64 × BitVec 5 :=
    let r := fm.minmax isMin (a.1.toNat % 2 ^ fm.width) (b.toNat % 2 ^ fm.width)
    (BitVec.ofNat 64 r.1, a.2 ||| r.2)
  match op with
  | .fmin32 => f fF32 true
  | .fmax32 => f fF32 false
  | .fmin64 => f fF64 true
  | .fmax64 => f fF64 false
  | _ => (redInt op n a.1 b, a.2)

/-- What a float reduction starts from: one contributor alone raises NV when it is signalling, and a NaN alone
gives the canonical NaN (R51, R52). DEDUCED: log entry 15. -/
def redFirst (op : RedOp) (x : Word64) : Word64 × BitVec 5 :=
  let f (fm : Fmt) : Word64 × BitVec 5 :=
    let b := x.toNat % 2 ^ fm.width
    let v := fm.unpack b
    (BitVec.ofNat 64 (if v.isNan then fm.qnan else b), flagIf v.isSnan fNV)
  match op with
  | .fmin32 => f fF32
  | .fmax32 => f fF32
  | .fmin64 => f fF64
  | .fmax64 => f fF64
  | _ => (x, 0)

/-- op over a list of contributors. -/
def reduce (op : RedOp) (n : Nat) : List Word64 → Word64 × BitVec 5
  | [] => (0, 0)
  | x :: xs => xs.foldl (fun a y =>
      let z := redFirst op y
      let r := redStep op n a z.1
      (r.1, r.2 ||| z.2)) (redFirst op x)

/-- The identities of R66. -/
def redIdentity (op : RedOp) : Word64 :=
  match op with
  | .and => 0xFFFFFFFF
  | .minN => 0xFFFFFFFF
  | .minI => 0x7FFFFFFF
  | .maxI => 0x80000000
  | _ => 0

/-- Active threads of a thread's member, in lane order (R66). -/
def Iss.peers (i : Iss) (t : Nat) : List Nat := i.threads.filter (fun u => i.g0.memberOf u = i.g0.memberOf t)

/-! ## The instructions -/

/-- SHFL (R66): the lane it reads, when that thread is active, else the thread's own. -/
def shflFrom (i : Iss) (mode : ShflMode) (b : Int) (t : Nat) : Nat :=
  let l : Int := i.g0.laneOf t
  let j : Int := match mode with
    | .idx => b
    | .up => l - b
    | .down => l + b
    | .xor => ((BitVec.ofInt 64 l) ^^^ (BitVec.ofInt 64 b)).toInt
  if 0 ≤ j && j < i.g0.w then
    let u := i.g0.memberOf t * i.g0.w + j.toNat
    if i.act.getLsbD u then u else t
  else t

def execShfl (x : Shfl) (s : State) : Result :=
  let n := if x.wide then 2 else 1
  runCore { view := x.view, lit := x.b.isLit, body := fun i => i.writeV x.d n (fun t =>
    i.val x.a n (shflFrom i x.mode (extInt true 32 (i.src x.b 1 t)) t)) } s

/-- The truth of a vote among some threads (R66, R134). -/
def voteOf (mode : VoteMode) (l : List Bool) : Bool :=
  match mode with
  | .any => l.any id
  | .all => l.all id
  | _ => l.all id || l.all (fun b => !b)

def execVote (x : Vote) (s : State) : Result :=
  runCore { view := x.view 2, body := fun i =>
    match x.mode with
    | .ballot => i.writeV x.d 2 (fun t => BitVec.ofNat 64 ((i.peers t).foldl (fun acc u =>
        if i.predOf x.a u then acc + 2 ^ i.g0.laneOf u else acc) 0))
    | _ => .ok (i.writeP x.d i.act (fun t => voteOf x.mode ((i.peers t).map (i.predOf x.a)))) } s

/-- Bits of a reduction's values. -/
def redBits (x : Red) : Nat := 32 * x.op.regs x.flag

def execLred (x : Red) (s : State) : Result :=
  let n := x.op.regs x.flag
  runCore { view := x.view [.v], body := fun i => i.writeF x.d n (fun t =>
    reduce x.op (redBits x) ((i.peers t).map (fun u => i.val x.a n u))) } s

/-- SCAN (R66): the running op, or the identity at the lowest active lane of the exclusive form. -/
def execScan (x : Red) (s : State) : Result :=
  runCore { view := x.scanView, body := fun i => i.writeV x.d 1 (fun t =>
    let l := (i.peers t).filter (fun u => if x.flag then decide (u < t) else decide (u ≤ t))
    match l with
    | [] => redIdentity x.op
    | _ => (reduce x.op 32 (l.map (fun u => i.val x.a 1 u))).1) } s

end Sys2Proof.Machine
end

