-- ==== Sys2Proof/Machine/CollResult.lean ====
section
/-! DEFINITION. What a collective computes from the contributions that arrived
(spec/13_long_accumulator_collective_instructions.md R274 to R278). -/

namespace Sys2Proof.Machine

/-! ## Operations and element types (R272, R274) -/

/-- The collective operations. -/
inductive CollKind | sum | min | max | hist | rank | select | stat | bcast
  deriving DecidableEq, Repr

def collKind (op : BitVec 10) : CollKind :=
  match op.toNat % 8 with
  | 0 => .sum
  | 1 => .min
  | 2 => .max
  | 3 => .hist
  | 4 => .rank
  | 5 => .select
  | 6 => .stat
  | _ => .bcast

/-- What an element type is. -/
inductive ElemTy
  | float (f : FFmt)
  | int (signed wide : Bool)
  | image (wide : Bool)
  deriving DecidableEq, Repr

/-- The type of a code; codes 10 to 255 name none. -/
def elemTy (code : BitVec 8) : Option ElemTy :=
  match code.toNat with
  | 0 => some (.float .f64)
  | 1 => some (.float .f32)
  | 2 => some (.float .f16)
  | 3 => some (.float .bf16)
  | 4 => some (.int true true)
  | 5 => some (.int false true)
  | 6 => some (.int true false)
  | 7 => some (.int false false)
  | 8 => some (.image true)
  | 9 => some (.image false)
  | _ => none

/-- Bytes from one element of the input to the next: an image takes a slot (R273). -/
def ElemTy.size : ElemTy → Nat
  | .float .f64 => 8
  | .float .f32 => 4
  | .float _ => 2
  | .int _ w => if w then 8 else 4
  | .image w => if w then 384 else 64
/-- Bytes an element itself has. -/
def ElemTy.bytes (t : ElemTy) : Nat :=
  match t with
  | .image w => imageBytes w
  | t => t.size

/-- Operations accept these types (R274). -/
def CollKind.accepts (k : CollKind) (t : ElemTy) : Bool :=
  match k, t with
  | .sum, _ => true
  | .bcast, _ => true
  | .hist, .int sg _ => !sg
  | .stat, .float f => f == .f32 || f == .f64
  | .min, .image _ => false
  | .min, _ => true
  | .max, .image _ => false
  | .max, _ => true
  | .rank, .image _ => false
  | .rank, _ => true
  | .select, .image _ => false
  | .select, _ => true
  | _, _ => false

/-- The operation rounds its result for a type. -/
def CollKind.rounds (k : CollKind) (t : ElemTy) : Bool :=
  match k, t with
  | .stat, _ => true
  | .sum, .int _ _ => false
  | .sum, _ => true
  | _, _ => false

/-- OUT's rounding, as coded in R29. -/
def outRnd (out : BitVec 8) : Rnd :=
  match out.toNat % 4 with
  | 0 => .rn
  | 1 => .rz
  | 2 => .ru
  | _ => .rd
def outImg (out : BitVec 8) : Bool := out.getLsbD 2

/-- The kind of image that sums a type: wide for .F64 and wide images. -/
def ElemTy.sumsWide : ElemTy → Bool
  | .float f => f == .f64
  | .image w => w
  | .int _ _ => false
/-- The format a sum of a type is rounded to. -/
def ElemTy.sumFmt : ElemTy → FFmt
  | .float f => f
  | .image w => if w then .f64 else .f32
  | .int _ _ => .f64

/-! ## Keys (R275) -/

def elemKey (t : ElemTy) (v : Nat) : Nat :=
  let n := 8 * t.size
  match t with
  | .float _ => if v.testBit (n - 1) then 2 ^ n - 1 - v else v + 2 ^ (n - 1)
  | .int true _ => if v.testBit (n - 1) then v - 2 ^ (n - 1) else v + 2 ^ (n - 1)
  | _ => v

/-! ## Results -/

/-- A result so far: bytes at offsets, bits 15:12 of the completion word and IEEE flags. -/
structure CollRes where
  chunks : List (Nat × List Byte)
  nsmall : Bool := false
  iovf : Bool := false
  krange : Bool := false
  flags : BitVec 5 := 0

/-- Results of elements put together, each at its place. -/
def CollRes.join (l : List CollRes) : CollRes :=
  { chunks := l.flatMap CollRes.chunks, nsmall := l.any CollRes.nsmall, iovf := l.any CollRes.iovf
    krange := l.any CollRes.krange, flags := l.foldl (fun f r => f ||| r.flags) 0 }

/-- The values of element e in the rows. -/
def column (rows : List (List Nat)) (e : Nat) : List Nat := rows.map (fun r => r.getD e 0)

/-- SUM of one element (R276). -/
def sumElem (t : ElemTy) (out : BitVec 8) (col : List Nat) (e : Nat) : CollRes :=
  match t with
  | .int sg w =>
    let total : Int := (col.map (fun v => extInt sg (if w then 64 else 32) (BitVec.ofNat 64 v))).sum
    { chunks := [(8 * e, leBytes 8 (total % 2 ^ 64).toNat)], iovf := satInt sg 64 total != total }
  | _ =>
    let wide := t.sumsWide
    let (m, fl) := col.foldl (fun (acc : Image × BitVec 5) v =>
      match t with
      | .image _ => (acc.1.merge (.ofNat wide v), acc.2)
      | .float f =>
        let r := acc.1.take ((fmtOf f).unpack v)
        (r.1, acc.2 ||| r.2)
      | .int _ _ => acc) (Image.ofNat wide 0, 0)
    if outImg out then { chunks := [((if wide then 384 else 64) * e, leBytes (imageBytes wide) m.toNat)], flags := fl }
    else
      let f := fmtOf t.sumFmt
      let r := m.round f (outRnd out)
      { chunks := [(f.width / 8 * e, leBytes (f.width / 8) r.1)], flags := fl ||| r.2 }

/-- MIN or MAX of one element (R276). -/
def extremeElem (t : ElemTy) (isMin : Bool) (col : List Nat) (e : Nat) : CollRes :=
  let n := t.size
  match t with
  | .float f =>
    let r := col.foldl (fun (acc : FRes) v =>
      let q := (fmtOf f).minmax isMin acc.1 v
      (q.1, acc.2 ||| q.2)) ((fmtOf f).qnan, 0)
    { chunks := [(n * e, leBytes n r.1)], flags := r.2 }
  | .int sg _ =>
    let top := 2 ^ (8 * n) - 1
    let none' : Nat := if sg then (if isMin then top / 2 else top / 2 + 1) else (if isMin then top else 0)
    let better (a b : Nat) : Bool := if isMin then decide (elemKey t b < elemKey t a) else decide (elemKey t a < elemKey t b)
    { chunks := [(n * e, leBytes n (col.foldl (fun a v => if better a v then v else a) none'))] }
  | .image _ => { chunks := [] }

/-- Words of .N64 from an offset of 0. -/
def wordsOut (l : List Nat) : List (Nat × List Byte) := l.mapIdx (fun i x => (8 * i, leBytes 8 (x % 2 ^ 64)))

/-- A list of counts with one raised. -/
def bump (l : List Nat) (i : Nat) : List Nat := l.mapIdx (fun j x => if j = i then x + 1 else x)

/-- HIST (R276). -/
def histRes (bins : Nat) (rows : List (List Nat)) : CollRes :=
  { chunks := wordsOut (rows.flatten.foldl (fun h v => bump h (min v bins)) (List.replicate (bins + 1) 0)) }

/-- RANK (R276). -/
def rankRes (t : ElemTy) (e : Nat) (obs : List Nat) (rows : List (List Nat)) : CollRes :=
  let n := rows.length
  let one (h : List Nat) (j : Nat) : List Nat :=
    let ko := elemKey t (obs.getD j 0)
    let ks := (column rows j).map (elemKey t)
    let h1 := bump h ((ks.filter (fun k => decide (k < ko))).length)
    h1.mapIdx (fun i x => if i = n + 1 then x + (ks.filter (fun k => k == ko)).length else x)
  { chunks := wordsOut ((List.range e).foldl one (List.replicate (n + 2) 0)) }

/-- SELECT of one element (R276). -/
def selectElem (t : ElemTy) (k : Nat) (col : List Nat) (e : Nat) : CollRes :=
  let n := t.size
  if k = 0 || col.length < k then
    { chunks := [(n * e, leBytes n (match t with | .float f => (fmtOf f).qnan | _ => 0))], krange := true }
  else { chunks := [(n * e, leBytes n ((sortBy (elemKey t) col).getD (k - 1) 0))] }

/-! ### STAT (R277, R293) -/

/-- Magnitude num × 2^e / den rounded once. DEDUCED: log entry 15. -/
def Fmt.ratio (f : Fmt) (r : Rnd) (neg : Bool) (num den : Nat) (e : Int) : FRes :=
  if num = 0 then (f.zeroBits (r == .rd), 0)
  else
    let k := Nat.log2 den + f.p + 4
    let q := num <<< k
    f.round r neg (stick (q / den) (q % den == 0)) (e - k - 1)

/-- √(num × 2^e / den) rounded once, e even; a zero radicand gives +0. -/
def Fmt.ratioSqrt (f : Fmt) (r : Rnd) (num den : Nat) (e : Int) : FRes :=
  if num = 0 then (f.zeroBits false, 0)
  else
    let k := Nat.log2 den + 2 * f.p + 10
    let y := (num <<< (2 * k)) / den
    let q := isqrt y
    f.round r false (stick q (q * q == y && (num <<< (2 * k)) % den == 0)) (e / 2 - k - 1)

/-- The exact sums of values and of squares, at 2^-1088 and 2^-2176. -/
def statSums (l : List FVal) : Int × Int :=
  l.foldl (fun (acc : Int × Int) v =>
    match v with
    | .fin n m e =>
      let x := signed n (truncScaled m e 1088).1
      (acc.1 + x, acc.2 + x * x)
    | _ => acc) (0, 0)

/-- Mean and spread of one element. -/
def statElem (f : FFmt) (r : Rnd) (rows e : Nat) (col : List Nat) (j : Nat) : CollRes :=
  let fm := fmtOf f
  let n := fm.width / 8
  let vs := col.map fm.unpack
  let out (mean spread : FRes) (small : Bool) : CollRes :=
    { chunks := [(n * j, leBytes n mean.1), (n * (e + j), leBytes n spread.1)], nsmall := small, flags := mean.2 ||| spread.2 }
  let nan := vs.any FVal.isNan
  let pinf := vs.any (fun v => v == .inf false)
  let ninf := vs.any (fun v => v == .inf true)
  let few := decide (rows < 2)
  if nan || (pinf && ninf) then out fm.invalid fm.invalid few
  else if pinf || ninf then out (fm.infBits ninf, 0) fm.invalid few
  else
    let (s1, s2) := statSums vs
    let mean : FRes := if rows = 0 then (fm.qnan, 0) else fm.ratio r (decide (s1 < 0)) s1.natAbs rows (-1088)
    let rad : Int := rows * s2 - s1 * s1
    let spread : FRes := if rows < 2 then (fm.qnan, 0) else fm.ratioSqrt r rad.toNat (rows * (rows - 1)) (-2176)
    out mean spread few

/-! ### All operations -/

/-- The rows of every contribution that arrived, devices ascending. -/
def allRows (parts : List Contribution) : List (List Nat) := (sortBy Contribution.dev parts).flatMap Contribution.rows

/-- The result of an instance over the contributions that arrived, or none where none is written (R276, R279). -/
def collResult (sig : CollSig) (parts : List Contribution) : Option CollRes :=
  match elemTy sig.ty with
  | none => none
  | some t =>
    let rows := allRows parts
    let each (f : List Nat → Nat → CollRes) : CollRes := .join ((List.range sig.e).map (fun e => f (column rows e) e))
    match collKind sig.op with
    | .sum => some (each (sumElem t sig.out))
    | .min => some (each (extremeElem t true))
    | .max => some (each (extremeElem t false))
    | .hist => some (histRes (sig.param % 2 ^ 32) rows)
    | .rank => some (rankRes t sig.e (((sortBy Contribution.dev parts).head?.map Contribution.obs).getD []) rows)
    | .select => some (each (selectElem t (sig.param % 2 ^ 32)))
    | .stat =>
      match t with
      | .float f => some (.join ((List.range sig.e).map (fun e => statElem f (outRnd sig.out) rows.length sig.e (column rows e) e)))
      | _ => none
    | .bcast =>
      match parts.find? (fun p => p.dev = sig.root) with
      | none => none
      | some p => some { chunks := p.rows.flatten.mapIdx (fun i v => (t.size * i, leBytes t.bytes v)) }

/-- Bytes cut at DSTLEN, and whether any were cut (R276). -/
def cutChunks (len : Nat) (l : List (Nat × List Byte)) : List (Nat × List Byte) × Bool :=
  ((l.map (fun c => (c.1, c.2.take (len - c.1)))).filter (fun c => c.2 != []), l.any (fun c => decide (len < c.1 + c.2.length)))

/-- The completion word (R278). -/
def collWord (code : BitVec 7) (parts : List Contribution) (r : Option CollRes) (trunc : Bool) : Word64 :=
  let n := (parts.map (fun p => p.rows.length)).sum
  let b (x : Option Bool) (k : Nat) : Nat := if x = some true then 2 ^ k else 0
  BitVec.ofNat 64 (n % 2 ^ 32 * 2 ^ 32 + parts.length * 2 ^ 16 + (if trunc then 2 ^ 15 else 0) + b (r.map CollRes.nsmall) 14
    + b (r.map CollRes.iovf) 13 + b (r.map CollRes.krange) 12 + ((r.map CollRes.flags).getD 0).toNat * 2 ^ 7 + code.toNat)

end Sys2Proof.Machine
end

