-- ==== Sys2Proof/Machine/Event.lean ====
section
/-! DEFINITION. Shared helpers of events: a moment that is not due, the time of the machine, and the end of an
outstanding operation. -/

namespace Sys2Proof.Machine

/-- The event's conditions do not hold: nothing of it happens here. DESIGN CHOICE: log entry 2. -/
def notDue (event : String) : Result := .fault (.notDue event)

/-- An event with an effect where its conditions hold. -/
def dueIf (event : String) (c : Bool) (s : State) : Result := if c then .next s else notDue event

/-- Core cycles in a microsecond: 2.25 GHz (R6). -/
def perMicro : Nat := 2250

/-- Something of the machine's own is counted in cycles from a start (R6). -/
def State.passed (s : State) (start micros : Nat) : Bool := start + micros * perMicro ≤ s.cycle

/-- The two copies of a group, or the one. DEDUCED: log entry 36. -/
def State.bothCopies (s : State) (k : GroupKey) (f : Group → Group) : State :=
  (s.modGroup { k with shadow := false } f).modGroup { k with shadow := true } f

/-- A result for an s register that an idle group's record keeps (R103). -/
def Team.arriveIdle (t : Team) (op n : Nat) (m : Mask) (f : Nat → Nat) : Team :=
  { t with origin15 := t.origin15.map (fun r =>
      if r.busy.contains (n, op) then
        { r with s := if m = 0#512 then r.s else r.s.set n (BitVec.ofNat 64 (f ((lowestThread 512 m).getD 0)))
                 busy := r.busy.filter (fun e => e.2 ≠ op) }
      else r) }

/-- A result for one octet arrives in both copies of a check pair (R107, R119). -/
def State.arriveBoth (s : State) (k : GroupKey) (op : Nat) (d : Dest) (octet : Nat) (m : Mask) (f : Nat → Nat) : State :=
  let s1 := s.bothCopies k (fun g => g.arrive op d octet m f)
  match d with
  | .s n => s1.modTeam k.team (fun t => t.arriveIdle op n m f)
  | _ => s1

/-- An operation has been performed: points of the issue order that waited for it are settled, and entries of octets
that have exited go back (R114). -/
def State.afterPerform (s : State) (k : GroupKey) : State :=
  (s.bothCopies k Group.returnEntries).settlePts

/-- The peer's island state as known here (R373): one not listed is JOINED. -/
def State.peerState (s : State) (d : Nat) : IslandSt :=
  if d = s.pkg.device.toNat then s.isl.st else lookupD s.isl.peers d .joined

/-! ## Places on this device and at peers -/

/-- A device is reached by its fabric (R363, R375); this device is its own peer through its island (R233). -/
def State.reachable (s : State) (dev : Nat) : Bool :=
  if dev = s.pkg.device.toNat then s.isl.st != .off else s.isl.ports.any Port.up && s.peerState dev != .off

/-- The place of a range on this device: local, or through a remote frame of its own. -/
def State.placeOf (s : State) (pa n : Nat) (key : BitVec 10) (need : WinNeed) : Option (Nat × BitVec 10) :=
  if isRemote pa then s.frameAddr (frameOff pa) n need else some (pa, key)

/-- The base die of an M-die's place is lost: what it homes is not reached (R374). -/
def State.baseLost (s : State) (pa : Nat) : Bool := isHbm pa && s.dieLost (if homeDie pa < 14 then 8 else 9)

/-- The retry period has passed since a request was first held. DEDUCED: log entry 39. -/
def State.retryOver (s : State) (heldAt : Option Nat) : Bool :=
  match heldAt with
  | some c => s.passed c s.isl.retry
  | none => false

/-- The first device that some places need and that is not reached. -/
def State.farOf (s : State) (pas : List Nat) : Option Nat := (pas.find? (fun pa => s.elsewhere pa && !s.reachable (frameDev pa))).map frameDev

/-- A request that needs a device which is not reached waits until the retry period is over (R375): the state in which it waits, or
none where it goes on. DEDUCED: log entry 39. -/
def State.heldBack (s : State) (k : HoldKey) (far : Option Nat) : Option State :=
  match far with
  | none => none
  | some d =>
    match s.isl.holds.find? (fun h => h.key = k && h.dev = d) with
    | some h => if s.retryOver (some h.since) then none else some s
    | none =>
      let (id, s1) := s.freshId
      some (s1.setIsl { s1.isl with holds := s1.isl.holds ++ [⟨id, k, d, s.cycle, 0⟩] })

/-- Nothing is held back any more under a key. -/
def State.unhold (s : State) (k : HoldKey) : State :=
  if s.isl.holds.any (fun h => h.key = k) then s.setIsl { s.isl with holds := s.isl.holds.filter (fun h => h.key ≠ k) } else s

/-- An event whose access a device that is not reached may hold back (R375): the request is held once; when the device is reached,
or the retry period is over, the event goes on. -/
def State.afterHold (s : State) (event : String) (k : HoldKey) (far : Option Nat) (go : State → Result) : Result :=
  match s.heldBack k far with
  | none => go (s.unhold k)
  | some s1 => dueIf event (!s.isl.holds.any (fun h => h.key = k && some h.dev = far)) s1

/-- What an instruction's access at its issue is held under. -/
def Iss.holdKey (i : Iss) : HoldKey := .issue ⟨i.k, i.sid⟩ i.p0.iaddr

/-- An instruction whose access at its issue needs a device that is not reached waits, without effect, until the retry period is over
(R97, R375); in a check pair the primary copy asks. -/
def Iss.awaitPeer (i : Iss) (far : Option Nat) (go : Act) : Act :=
  match (if i.k.shadow then none else i.s0.heldBack i.holdKey far) with
  | some s1 => .hold s1 wREMOTE
  | none => go

/-- A split's instruction is held back still. -/
def State.heldIssue (s : State) (k : SplitKey) (slot : Word64) : Bool :=
  s.isl.holds.any (fun h => h.key = .issue k slot && !s.reachable h.dev && !s.retryOver (some h.since))

/-- Whether a write is refused at its place, and with what cause. -/
def State.writeRefused (s : State) (pa n : Nat) (key : BitVec 10) : Option (BitVec 8) :=
  if s.elsewhere pa then none
  else
    match s.placeOf pa n key .write with
    | none => some cREMOTE_WINDOW
    | some (a, _) => if isHbm a && s.dieLost (homeDie a) then some cMEM_UNCORRECTABLE else none

/-- The same, where a write to a peer that is not reached is refused too (R375). -/
def State.deviceRefused (s : State) (pa n : Nat) (key : BitVec 10) : Option (BitVec 8) :=
  if s.elsewhere pa && !s.reachable (frameDev pa) then some cENDPOINT_DOWN else s.writeRefused pa n key

/-- A team that has no group left and whose bit is set, or that names no bitmap, ends: its area, core and scratchpad are
free. -/
def State.endTeam (s : State) (k : TeamKey) : State :=
  match s.team? k, s.launch? k.launch with
  | some t, some l =>
    if s.groups.any (fun g => g.key.team = k) || s.saved.any (fun x => x.g.key.team = k) || !(t.bitSet || l.lrec.bitmap = 0) then s
    else
      let areas := match t.area with
        | some a => l.areas.filter (fun b => b ≠ a)
        | none => l.areas
      ({ s with teams := s.teams.filter (fun u => u.key ≠ k) }).putLaunch { l with ended := l.ended ++ [k.team], areas := areas }
  | _, _ => s

/-- A group's tiles are released, with what the save pool holds of them (R341, R342). -/
def State.dropTiles (s : State) (g : Group) : State :=
  let rooms := (s.mtx.tiles.filter (fun t => t.g = g.key)).filterMap Tile.spilled
  (s.modCtx g.ctx (fun c => { c with saves := c.saves.filter (fun e => !rooms.contains e.1) })).setMtx
    { s.mtx with tiles := s.mtx.tiles.filter (fun t => t.g ≠ g.key) }

/-- A 64-bit counter raised. -/
def bump64 (x : Word64) : Word64 := x + 1

end Sys2Proof.Machine
end

