-- ==== Sys2Proof/Machine/Regs.lean ====
section
/-! DEFINITION. The device registers (spec/21_package_and_system.md R384 to R388, R394; spec/20_fabric_and_island.md
R368, R370, R376): what each doubleword reads and what a write does to its fields under R9. -/

namespace Sys2Proof.Machine

/-! ## Places (R384, R385) -/

/-- A doubleword of the device-register space. -/
inductive RegAt
  /-- the package block: privileged view or not, and the offset -/
  | pkg (priv : Bool) (off : Nat)
  | isl (off : Nat)
  /-- a context page -/
  | page (ctx : Nat) (off : Nat)
  deriving DecidableEq, Repr

/-- The register block of an address. -/
def regAt (pa : Nat) : Option RegAt :=
  if 0x8000000000 ≤ pa && pa < 0x8000100000 then some (.pkg true (pa - 0x8000000000))
  else if 0x8000100000 ≤ pa && pa < 0x8000200000 then some (.isl (pa - 0x8000100000))
  else if 0x8000200000 ≤ pa && pa < 0x8000300000 then some (.pkg false (pa - 0x8000200000))
  else if 0x8000400000 ≤ pa && pa < 0x8000400000 + 1024 * 4096 then
    some (.page ((pa - 0x8000400000) / 4096) ((pa - 0x8000400000) % 4096))
  else none

/-! ## Reads -/

def nat64 (n : Nat) : Word64 := BitVec.ofNat 64 n

/-- Features this device supports (R386). -/
def featSup : Word64 := 0x3FF

def State.pkgRead (s : State) (off : Nat) : Word64 :=
  let p := s.pkg
  match off with
  | 0x000 => nat64 (p.device.toNat * 2 ^ 32 + p.master.toNat * 2 ^ 24 + p.healthy.toNat)
  | 0x008 => featSup
  | 0x018 => p.featReq0
  | 0x020 => p.featReq1
  | 0x028 => p.featAct0
  | 0x030 => p.featAct1
  | 0x040 => nat64 p.ctxbase
  | 0x048 => nat64 (p.cmdSlot.toNat * 2 ^ 32 + p.cmdCtx.toNat * 2 ^ 16 + p.cmdOp.toNat)
  | 0x050 => p.cmdA
  | 0x058 => p.cmdB
  | 0x060 => nat64 (p.busy.toNat * 2 ^ 63 + p.cmdCode.toNat)
  | 0x080 => p.mgmtHost.setWidth 64
  | 0x088 => p.curbBudget.setWidth 64
  | 0x090 => nat64 (p.tmax.toNat * 2 ^ 8 + p.level.toNat)
  | _ => 0

def State.port? (s : State) (n : Nat) : Option Port := s.isl.ports.find? (fun p => p.port = n)

/-- The group-table entry of a collective group; one never written is zero. -/
def State.collGroup (s : State) (n : Nat) : CollGroup := (s.isl.colls.find? (fun g => g.n = n)).getD ⟨n, 0, 0, List.replicate 7 0⟩

/-- The doublewords of a group-table entry (R370). -/
def CollGroup.word (g : CollGroup) (k : Nat) : Word64 :=
  if k < 8 then g.mask.extractLsb' (64 * k) 64 else if k = 8 then g.ctl else g.tail.getD (k - 9) 0

def State.islRead (s : State) (off : Nat) : Word64 :=
  let i := s.isl
  if off = 0x000 then (match i.st with | .joined => 2 | _ => 1)
  else if off = 0x008 then nat64 i.retry
  else if off = 0x010 then i.orphan
  else if off = 0x018 then i.colllate
  else if off = 0x020 then i.authfail
  else if off = 0x028 then nat64 i.rekeyth
  else if 0x040 ≤ off && off < 0x140 then
    match s.port? ((off - 0x040) / 8) with
    | some p => nat64 (p.up.toNat + 2 * p.tx.slot.toNat)
    | none => 0
  else if 0x1000 ≤ off && off < 0x1800 then
    let w := s.window ((off - 0x1000) / 32)
    match off / 8 % 4 with
    | 0 => w.w0
    | 1 => w.w1
    | 2 => w.w2
    | _ => w.w3
  else if 0x4000 ≤ off && off < 0x4000 + 4096 * 128 then (s.collGroup ((off - 0x4000) / 128)).word (off / 8 % 16)
  else 0

/-- The count of a queue. -/
def countOf (l : List (Nat × BitVec 32)) (q : Nat) : BitVec 32 := lookupD l q 0

/-- The context, running or ended, whose counts a page holds. DEDUCED: log entry 37. -/
def State.pageOf (s : State) (c : Nat) : Option Context := (s.ctx? c).orElse (fun _ => s.past.find? (fun x => x.id = c))

def State.pageRead (s : State) (c off : Nat) : Word64 :=
  match s.pageOf c with
  | none => 0
  | some x =>
    if off < 0x200 then (countOf x.qtail (off / 8)).setWidth 64
    else if off = 0x200 then x.crhead.setWidth 64
    else if off = 0x208 then x.crtail.setWidth 64
    else if 0x400 ≤ off && off < 0x600 then (countOf x.qhead ((off - 0x400) / 8)).setWidth 64
    else 0

/-- The doubleword at a register address. -/
def State.regRead (s : State) (pa : Nat) : Word64 :=
  match regAt (pa / 8 * 8) with
  | some (.pkg _ o) => s.pkgRead o
  | some (.isl o) => s.islRead o
  | some (.page c o) => s.pageRead c o
  | none => 0

/-- `n` bytes read from the register space. -/
def State.regBytes (s : State) (pa n : Nat) : List Byte :=
  (List.range n).map (fun i => ((s.regRead (pa + i)) >>> (8 * ((pa + i) % 8))).setWidth 8)

/-! ## Writes (R9) -/

/-- FEATREQ1 sets the active features of both halves (R388). -/
def Package.requestFeatures (p : Package) (v : Word64) : Package :=
  { p with featReq1 := v, featAct0 := p.featReq0 &&& featSup, featAct1 := 0 }

/-- CURBBUDGET as it is kept (R386). -/
def curbKept (v : BitVec 11) : BitVec 11 := if v = 0 then 1 else if 1024 < v.toNat then 1024 else v

/-- A write of a package register from the privileged view. DEDUCED: log entry 33. -/
def Package.write (p : Package) (off : Nat) (v : Word64) : Package :=
  match off with
  | 0x000 => { p with device := v.extractLsb' 32 9 }
  | 0x018 => { p with featReq0 := v }
  | 0x020 => p.requestFeatures v
  | 0x040 => { p with ctxbase := field v 12 40 * 4096 }
  | 0x048 =>
    if p.busy then p
    else { p with cmdOp := v.setWidth 8, cmdSlot := v.extractLsb' 32 10, cmdCtx := v.extractLsb' 16 10, busy := true }
  | 0x050 => { p with cmdA := v }
  | 0x058 => { p with cmdB := v }
  | 0x080 => { p with mgmtHost := v.setWidth 10 }
  | 0x088 => { p with curbBudget := curbKept (v.setWidth 11) }
  | _ => p

/-- RETRY as it is kept (R376). DEDUCED: log entry 33. -/
def retryKept (v : Nat) : Nat := if v < 10 then 10 else if 1000000 < v then 1000000 else v

def Island.putWindow (i : Island) (w : Window) : Island := { i with windows := w :: i.windows.filter (fun x => x.n ≠ w.n) }
def Island.putColl (i : Island) (g : CollGroup) : Island := { i with colls := g :: i.colls.filter (fun x => x.n ≠ g.n) }

/-- A window entry with one of its words written. -/
def Window.write (w : Window) (k : Nat) (v : Word64) : Window :=
  match k with
  | 0 => { w with w0 := v }
  | 1 => { w with w1 := v }
  | 2 => { w with w2 := v }
  | _ => { w with w3 := v }

/-- A group-table entry with one of its doublewords written. -/
def CollGroup.write (g : CollGroup) (k : Nat) (v : Word64) : CollGroup :=
  if k < 8 then { g with mask := (g.mask &&& ~~~((~~~0#64).setWidth 512 <<< (64 * k))) ||| (v.setWidth 512 <<< (64 * k)) }
  else if k = 8 then { g with ctl := v }
  else { g with tail := g.tail.set (k - 9) v }

def State.islWrite (s : State) (off : Nat) (v : Word64) : State :=
  let i := s.isl
  if off = 0x008 then s.setIsl { i with retry := retryKept (v.setWidth 32).toNat }
  else if off = 0x010 then s.setIsl { i with orphan := i.orphan &&& ~~~v }
  else if off = 0x018 then s.setIsl { i with colllate := i.colllate &&& ~~~v }
  else if off = 0x020 then s.setIsl { i with authfail := i.authfail &&& ~~~v }
  else if off = 0x028 then s.setIsl { i with rekeyth := (v.setWidth 49).toNat }
  else if 0x1000 ≤ off && off < 0x1800 then s.setIsl (i.putWindow ((s.window ((off - 0x1000) / 32)).write (off / 8 % 4) v))
  else if 0x4000 ≤ off && off < 0x4000 + 4096 * 128 then
    s.setIsl (i.putColl ((s.collGroup ((off - 0x4000) / 128)).write (off / 8 % 16) v))
  else s

/-- A write of QTAIL: nothing where the queue would hold more than its depth (R394). -/
def Context.writeTail (c : Context) (q : Nat) (v : BitVec 32) : Context :=
  if c.qdepth < (v - countOf c.qhead q).toNat then c else { c with qtail := insertKey c.qtail q v }
/-- A write of CRHEAD: nothing where it would pass CRTAIL (R394). -/
def Context.writeCrHead (c : Context) (v : BitVec 32) : Context :=
  if (c.crtail - c.crhead).toNat < (v - c.crhead).toNat then c else { c with crhead := v }

def Context.pageWrite (c : Context) (off : Nat) (v : Word64) : Context :=
  if off < 0x200 then c.writeTail (off / 8) (v.setWidth 32)
  else if off = 0x200 then c.writeCrHead (v.setWidth 32)
  else c

/-- A context's page changes, the context running or ended; any other page has no queue and no ring. -/
def State.modPage (s : State) (c : Nat) (f : Context → Context) : State :=
  if (s.ctx? c).isSome then s.modCtx c f else { s with past := s.past.map (fun x => if x.id = c then f x else x) }

/-- A doubleword written at a register address. -/
def State.regWrite (s : State) (pa : Nat) (v : Word64) : State :=
  match regAt (pa / 8 * 8) with
  | some (.pkg true o) => s.setPkg (s.pkg.write o v)
  | some (.isl o) => s.islWrite o v
  | some (.page c o) => s.modPage c (fun x => x.pageWrite o v)
  | _ => s

/-- A register whose ones clear (R9): bytes that a narrower store leaves out are zero. -/
def clearsOnes (pa : Nat) : Bool :=
  match regAt (pa / 8 * 8) with
  | some (.isl o) => o == 0x010 || o == 0x018 || o == 0x020
  | _ => false

/-- Bytes written within one doubleword of the register space: the doubleword is written with its other bytes as they
read. -/
def State.regDword (s : State) (pa : Nat) (bs : List Byte) : State :=
  let old := if clearsOnes pa then List.replicate 8 0#8 else leBytes 8 (s.regRead pa).toNat
  s.regWrite pa (nat64 (leNat (overlay (pa / 8 * 8) old pa bs)))

/-- Bytes written to the register space, one doubleword after another. -/
def State.regStore (s : State) (pa : Nat) (bs : List Byte) : State :=
  (cutAt 8 pa bs.length).foldl (fun (s : State) q => s.regDword q.1 ((bs.drop q.2.2).take q.2.1)) s

/-! ## Reads of physical memory by the core and by engines -/

/-- Bytes an engine of a core, or the core itself, reads at their place (R166, R173, R247), or the cause that refuses them: its
core's stores that have not reached their place are laid over the bytes there; a remote frame reads its line in the RDC, the
device's own memory, or, where another device answers, free bytes; a peer that is not reached gives ENDPOINT_DOWN (R375). -/
def State.engineRead (s : State) (core ctx pa n : Nat) (key : BitVec 10) : Except (BitVec 8) (List Byte) :=
  let own (bs : List Byte) : List Byte := (s.pendingStores core ctx).foldl (fun acc p => overlay pa acc p.pa p.data) bs
  let home (a : Nat) (k : BitVec 10) : Except (BitVec 8) (List Byte) :=
    match s.homeRead a n k with
    | some bs => .ok (own bs)
    | none => .error cMEM_UNCORRECTABLE
  if isDevReg pa then .ok (s.regBytes pa n)
  else if isRemote pa then
    match (s.mem.rdc? (coreBase core) ctx (pa / 128)).filter (fun l => !l.skips pa n) with
    | some l => .ok (lineSlice l.data pa n)
    | none =>
      if s.elsewhere pa then
        if s.reachable (frameDev pa) then .ok (own ((List.range n).map (fun i => Config.peerByte s.sched.free (pa + i)))) else .error cENDPOINT_DOWN
      else
        match s.frameAddr (frameOff pa) n .read with
        | some (a, k) => home a k
        | none => .error cREMOTE_WINDOW
  else
    match s.mem.l1? core ctx (pa / 128) with
    | some l => if l.bad then .error cMEM_UNCORRECTABLE else .ok (lineSlice l.data pa n)
    | none => home pa key

/-- Several ranges read one after another. -/
def State.engineReads (s : State) (core ctx : Nat) : List (Nat × Nat × BitVec 10) → Except (BitVec 8) (List Byte)
  | [] => .ok []
  | (pa, n, key) :: rest =>
    match s.engineRead core ctx pa n key with
    | .error c => .error c
    | .ok bs =>
      match s.engineReads core ctx rest with
      | .error c => .error c
      | .ok more => .ok (bs ++ more)

/-- An engine of a core writes bytes at their place (R256): the L1's and the RDC's copies follow, and the home's tag
empties. A remote frame of another device is written there, outside this device. -/
def State.engineWrite (s : State) (core ctx pa : Nat) (key : BitVec 10) (bs : List Byte) : State :=
  if isDevReg pa then s.regStore pa bs
  else if isRemote pa then
    let s1 := s.setMem (s.mem.rdcStore (coreBase core) ctx pa bs)
    if s.elsewhere pa then s1
    else
      match s1.frameAddr (frameOff pa) bs.length .write with
      | some (a, k) => s1.homeWrite a bs k none
      | none => s1
  else (s.setMem (s.mem.l1Store core ctx pa bs false)).homeWrite pa bs key none

end Sys2Proof.Machine
end

