-- ==== Sys2Proof/Machine/Coll.lean ====
section
/-! DEFINITION. COLL as it issues: the descriptor, its checks and its translations
(spec/13_long_accumulator_collective_instructions.md R272, R273, R280; spec/20_fabric_and_island.md R370). -/

namespace Sys2Proof.Machine

/-! ## The descriptor (R273) -/

/-- A descriptor's fields, and whether a reserved one is nonzero. -/
def collDesc (bs : List Byte) : CollDesc × Bool :=
  let f (o n : Nat) : Nat := leNat ((bs.drop o).take n)
  ({ inst := f 0 4, grp := f 4 2, src := f 8 8, dst := f 16 8, e := f 24 4, cnt := f 28 2, ty := BitVec.ofNat 8 (f 30 1)
     out := BitVec.ofNat 8 (f 31 1), param := BitVec.ofNat 64 (f 32 8), status := f 40 8, dstlen := f 48 4 },
   f 6 2 != 0 || f 52 12 != 0)

/-- The root of a BCAST (R276). -/
def CollDesc.root (d : CollDesc) : Nat := d.param.toNat % 1024

/-- What must agree between contributions (R279): RANK's observation address and a BCAST's root are kept apart from PARAM. -/
def CollDesc.sig (d : CollDesc) (op : BitVec 10) : CollSig :=
  { op := op, ty := d.ty, out := d.out, e := d.e
    param := (match collKind op with | .rank => 0 | _ => d.param.toNat)
    root := (match collKind op with | .bcast => d.root | _ => 0) }

/-! ## The group table (R370) -/

def CollGroup.enabled (g : CollGroup) : Bool := bitAt g.ctl 63
def CollGroup.ctx (g : CollGroup) : Nat := field g.ctl 32 10
def CollGroup.fanout (g : CollGroup) : Nat := field g.ctl 26 6
def CollGroup.timeout (g : CollGroup) : Nat := field g.ctl 0 20
/-- An entry the island uses. -/
def CollGroup.valid (g : CollGroup) : Bool :=
  decide (g.n < 4096) && g.enabled && field g.ctl 42 21 == 0 && field g.ctl 20 6 == 0 && g.tail.all (fun w => w == 0)
    && decide (2 ≤ g.fanout) && decide (g.fanout ≤ 32) && g.timeout != 0
def CollGroup.member (g : CollGroup) (d : Nat) : Bool := g.mask.getLsbD d

/-! ## Checks (R274, R276, R280) -/

/-- Every slot of a run of images stands where R264 lets it. -/
def slotsOk (wide : Bool) (a n : Nat) : Bool := slotAt wide a && (!wide || n = 0 || a % 4096 + 384 * (n - 1) ≤ 3456)

/-- The result addresses of an operation: slots for images, 8 bytes for HIST and RANK, else the type's alignment. A BCAST's root
knows the rows of its result, another device one at least. DEDUCED: log entry 27. -/
def CollDesc.dstOk (d : CollDesc) (k : CollKind) (t : ElemTy) (dev : Nat) : Bool :=
  if d.dst = 0 then true
  else
    match k, t with
    | .sum, .image w => if outImg d.out then slotsOk w d.dst d.e else d.dst % (if w then 8 else 4) = 0
    | .sum, t => if outImg d.out then slotsOk t.sumsWide d.dst d.e else d.dst % t.size = 0
    | .bcast, .image w => slotsOk w d.dst (if d.root = dev then d.cnt * d.e else d.e)
    | .hist, _ => d.dst % 8 = 0
    | .rank, _ => d.dst % 8 = 0
    | _, t => d.dst % t.size = 0

/-- This device's rows are read: a BCAST reads its root's alone (R276). -/
def CollDesc.reads (d : CollDesc) (k : CollKind) (dev : Nat) : Bool := k != .bcast || d.root = dev

/-- DEDUCED: log entry 27. -/
def CollDesc.srcOk (d : CollDesc) (k : CollKind) (t : ElemTy) (dev : Nat) : Bool :=
  !d.reads k dev || (match t with
    | .image w => slotsOk w d.src (d.cnt * d.e)
    | t => d.src % t.size = 0)

/-- DEDUCED: log entry 27. -/
def CollDesc.paramOk (d : CollDesc) (k : CollKind) (t : ElemTy) : Bool :=
  match k with
  | .hist => d.param.toNat < 2 ^ 32 && decide (1 ≤ d.param.toNat) && decide (d.param.toNat ≤ 65536)
  | .rank => d.param.toNat % t.size = 0
  | .select => d.param.toNat < 2 ^ 32
  | .bcast => d.param.toNat < 1024
  | _ => d.param == 0

/-- The descriptor passes every check of R280. -/
def State.collValid (s : State) (ctx : Nat) (k : CollKind) (d : CollDesc) : Bool :=
  let g := s.collGroup d.grp
  match elemTy d.ty with
  | none => false
  | some t =>
    k.accepts t && decide (d.out.toNat < 8) && (!outImg d.out || (k == .sum && k.rounds t)) && (d.out.toNat % 4 == 0 || k.rounds t)
      && decide (1 ≤ d.e) && decide (d.e ≤ 2 ^ 20) && d.paramOk k t && d.srcOk k t s.pkg.device.toNat && d.dstOk k t s.pkg.device.toNat
      && d.status % 8 == 0 && d.dstlen % 8 == 0 && g.valid && g.member s.pkg.device.toNat && g.ctx == ctx

/-! ## Translations (R280) -/

/-- The pages of a range, translated for the lowest active thread's member: virtual page, physical page and key, or the
first failure. -/
def Iss.pagesOf (i : Iss) (p : Perm) (va n : Nat) : Except ThrFault (List (Nat × Nat × BitVec 10)) :=
  match i.translateParts i.low p (i.memberSel i.low) (cutAt 4096 va n) with
  | .error e => .error e
  | .ok ps => .ok (ps.map (fun q => (q.va / 4096, q.pa / 4096, q.attr.key)))

/-- Ranges translated one after another: permission, address and length. -/
def Iss.pagesAll (i : Iss) : List (Perm × Nat × Nat) → Except (Perm × ThrFault) (List (Nat × Nat × BitVec 10))
  | [] => .ok []
  | (p, va, n) :: rest =>
    match i.pagesOf p va n with
    | .error e => .error (p, e)
    | .ok ps =>
      match i.pagesAll rest with
      | .error e => .error e
      | .ok more => .ok (ps ++ more)

/-- The ranges the engine will use. -/
def CollDesc.ranges (d : CollDesc) (k : CollKind) (t : ElemTy) (dev : Nat) : List (Perm × Nat × Nat) :=
  (if d.reads k dev && d.cnt != 0 then [(Perm.load, d.src, d.cnt * d.e * t.size)] else [])
    ++ (if d.dst != 0 && d.dstlen != 0 then [(Perm.store, d.dst, d.dstlen)] else [])
    ++ (if d.status != 0 then [(Perm.store, d.status, 8)] else [])
    ++ (if k == .rank then [(Perm.load, d.param.toNat, d.e * t.size)] else [])

/-- The walks of some ranges, in their order, as far as the first page that fails: the leaves are kept, and the tables of a walk that
fails count as touched (R193, R382). -/
def Iss.rangesWalked (i : Iss) (s : State) (l : List (Perm × Nat × Nat)) : State :=
  let pages := l.flatMap (fun r => (cutAt 4096 r.2.1 r.2.2).map (fun q => (r.1, q.1)))
  let ok (q : Perm × Nat) : Bool := (i.translate i.low q.2 q.1 (i.memberSel i.low)).toOption.isSome
  let s1 := (pages.takeWhile ok).foldl (fun (s : State) q => s.tlbFill i.core i.g0.ctx q.2) s
  match (pages.dropWhile ok).head? with
  | some q => s1.touchWalk i.core i.g0.ctx q.2
  | none => s1

/-- Where an address of a translated range lies: the physical address and the key. -/
def pageAt (pages : List (Nat × Nat × BitVec 10)) (va : Nat) : Option (Nat × BitVec 10) :=
  (pages.find? (fun p => p.1 = va / 4096)).map (fun p => (p.2.1 * 4096 + va % 4096, p.2.2))

/-- Bytes of a translated range as an engine reads them: the cause and the address where a read is refused. -/
def State.pagesRead (s : State) (core ctx : Nat) (pages : List (Nat × Nat × BitVec 10)) :
    List (Nat × Nat × Nat) → Except (BitVec 8 × Nat) (List Byte)
  | [] => .ok []
  | (va, n, _) :: rest =>
    match pageAt pages va with
    | none => s.pagesRead core ctx pages rest
    | some (pa, key) =>
      match s.engineRead core ctx pa n key with
      | .error c => .error (c, va)
      | .ok bs =>
        match s.pagesRead core ctx pages rest with
        | .error e => .error e
        | .ok more => .ok (bs ++ more)

/-- Homes that an engine's reading of translated ranges reaches (R175, R382). -/
def State.pagesSeen (s : State) (core ctx : Nat) (pages : List (Nat × Nat × BitVec 10)) (l : List (Nat × Nat × Nat)) : State :=
  l.foldl (fun (s : State) q =>
    match pageAt pages q.1 with
    | none => s
    | some (pa, _) => s.engineSeen core ctx q.1 pa q.2.1 .read) s

/-- Bytes written to a translated range; a part that is refused at its place is not written. -/
def State.pagesWrite (s : State) (core ctx : Nat) (pages : List (Nat × Nat × BitVec 10)) (va : Nat) (bs : List Byte) : State :=
  (cutAt 64 va bs.length).foldl (fun s q =>
    match pageAt pages q.1 with
    | none => s
    | some (pa, key) =>
      let s1 := s.engineSeen core ctx q.1 pa q.2.1 .write
      if (s.deviceRefused pa q.2.1 key).isSome then s1 else s1.engineWrite core ctx pa key ((bs.drop q.2.2).take q.2.1)) s

/-- The first part of a translated range that refuses a write: the cause and the virtual address. -/
def State.pagesRefuse (s : State) (pages : List (Nat × Nat × BitVec 10)) (va n : Nat) : Option (BitVec 8 × Nat) :=
  (cutAt 64 va n).findSome? (fun q => (pageAt pages q.1).bind (fun p => (s.deviceRefused p.1 q.2.1 p.2).map (fun c => (c, q.1))))

/-- The first device that some translated ranges need and that is not reached (R375). -/
def State.pagesFar (s : State) (pages : List (Nat × Nat × BitVec 10)) (l : List (Nat × Nat × Nat)) : Option Nat :=
  s.farOf (l.filterMap (fun q => (pageAt pages q.1).map Prod.fst))

/-! ## Issue -/

/-- The 64 bytes of the descriptor, or the cause and the address of a refused read. -/
def Iss.descBytes (i : Iss) (ps : List Piece) : Except (BitVec 8 × Nat) (List Byte) :=
  (sortBy Piece.at0 ps).foldl (fun acc p =>
    match acc with
    | .error e => .error e
    | .ok bs =>
      match i.s.engineRead i.core i.g0.ctx p.pa p.size p.attr.key with
      | .error c => .error (c, p.va)
      | .ok more => .ok (bs ++ more)) (.ok [])

/-- A collective that ended or will end as a duplicate (R279). -/
def CollSt.twin : CollSt → Bool
  | .duplicate => true
  | .ended _ fin => fin.code == 3#7
  | _ => false

/-- The device has the instance in flight (R279). -/
def State.collInFlight (s : State) (ctx : Nat) (d : CollDesc) : Bool :=
  s.ops.colls.any (fun o => o.ctx = ctx && o.desc.grp = d.grp && o.desc.inst = d.inst && !o.st.twin)

/-- A class T fault of an operation of the split, from what its walks and reads have left: every active thread reports it. -/
def Iss.lateFault (i : Iss) (s : State) (code : BitVec 8) (va : Nat) (p : Perm) : Act :=
  .trap { i with s := s, g := i.g0 }
    { i.p0.trapInfo code (BitVec.ofNat 64 va) i.act with detail := lateDetail p }

/-- A collective issues (R272, R280). A duplicate that names no STATUS has nothing to wait for. DEDUCED: log entry 27. -/
def Iss.coll (i : Iss) (op : BitVec 10) (d a : Opnd) : Act :=
  if !i.any then .ok i
  else if i.k.shadow then
    match i.shared with
    | [id] => .ok { i.markBusy (.s d.num) i.act id with flagUp := true }
    | _ => .ok (i.writeS d (BitVec.ofNat 64 (i.shared.headD 0)))
  else
    let k := collKind op
    let ar := i.areg a
    match i.access { perm := .load, allowed := AReg.rd, size := 64, placed := fun _ o => decide (o % 64 = 0) } ar (Int.ofNat ar.ptr.toNat) i.low with
    | .error e =>
      if e.late then i.lateFault (i.readFault (e, [])) e.code e.addr.toNat .load else i.fault e.code e.addr i.act
    | .ok ps =>
      let read := (i.s0.unhold i.holdKey).readSeen i.core i.g0.ctx ps
      if i.owes ps then .stall 0 none
      else
      match i.descBytes ps with
      | .error (c, va) => i.awaitPeer (if c = cENDPOINT_DOWN then i.s0.farOf (ps.map Piece.pa) else none) (i.lateFault read c va .load)
      | .ok bs =>
        let (desc, reserved) := collDesc bs
        match elemTy desc.ty with
        | none => .trap { i with s := read, g := i.g0, p := i.p0 } (i.p0.trapInfo cCOLL_INVALID 0 i.act)
        | some t =>
          if reserved || !i.s.collValid i.g0.ctx k desc then .trap { i with s := read, g := i.g0, p := i.p0 } (i.p0.trapInfo cCOLL_INVALID 0 i.act)
          else
            match i.pagesAll (desc.ranges k t i.s.pkg.device.toNat) with
            | .error (p, e) => i.lateFault (i.rangesWalked read (desc.ranges k t i.s.pkg.device.toNat)) e.code e.addr.toNat p
            | .ok pages =>
              let j := ({ i with s := i.rangesWalked ((i.s.unhold i.holdKey).readSeen i.core i.g0.ctx ps) (desc.ranges k t i.s.pkg.device.toNat) } : Iss).spend
              let again := i.s.collInFlight i.g0.ctx desc
              if again && desc.status = 0 then
                let word := collWord 3 [] none false
                .ok (({ j with shared := [word.toNat, 0] } : Iss).writeS d word)
              else
                let (id, j) := j.opId
                let o : CollOp := { id := id, op := op, g := i.opKey, sid := i.sid, core := i.g0.core, ctx := i.g0.ctx, threads := i.act
                                    member := i.memberSel i.low, desc := desc, sreg := d.num, flag := i.flag?
                                    st := if again then .duplicate else .queued, pages := pages }
                .ok { j.markBusy (.s d.num) i.act id with
                      s := j.s.setOps { j.s.ops with colls := j.s.ops.colls ++ [o] }, flagUp := true }

/-- What R108 compares of a collective: its a register and its descriptor. -/
def Iss.collItems (i : Iss) (a : Opnd) : List (Nat × List Word64) :=
  let ar := i.areg a
  match i.access { perm := .load, allowed := AReg.rd, size := 64, placed := fun _ o => decide (o % 64 = 0) } ar (Int.ofNat ar.ptr.toNat) i.low with
  | .error e => [(i.low, ar.items ++ [e.code.setWidth 64, e.addr])]
  | .ok ps =>
    match i.descBytes ps with
    | .error (c, va) => [(i.low, ar.items ++ [c.setWidth 64, BitVec.ofNat 64 va])]
    | .ok bs => [(i.low, ar.items ++ (List.range 8).map (fun n => BitVec.ofNat 64 (leNat ((bs.drop (8 * n)).take 8))))]

/-- What every collective says of its issue. -/
def collMeaning (x : UMov) (op : BitVec 10) : Meaning :=
  { view := x.collView
    nonIdem := fun _ => true
    cmp := some fun i => i.collItems x.a
    whole := true
    body := fun i => i.coll op x.d x.a }

/-- COLL.SUM (R276). -/
def execCollSum (x : UMov) (s : State) : Result := runCore (collMeaning x 0x340) s
/-- COLL.MIN (R276). -/
def execCollMin (x : UMov) (s : State) : Result := runCore (collMeaning x 0x341) s
/-- COLL.MAX (R276). -/
def execCollMax (x : UMov) (s : State) : Result := runCore (collMeaning x 0x342) s
/-- COLL.HIST (R276). -/
def execCollHist (x : UMov) (s : State) : Result := runCore (collMeaning x 0x343) s
/-- COLL.RANK (R276). -/
def execCollRank (x : UMov) (s : State) : Result := runCore (collMeaning x 0x344) s
/-- COLL.SELECT (R276). -/
def execCollSelect (x : UMov) (s : State) : Result := runCore (collMeaning x 0x345) s
/-- COLL.STAT (R277). -/
def execCollStat (x : UMov) (s : State) : Result := runCore (collMeaning x 0x346) s
/-- COLL.BCAST (R276). -/
def execCollBcast (x : UMov) (s : State) : Result := runCore (collMeaning x 0x347) s

end Sys2Proof.Machine
end

