-- ==== Sys2Proof/Machine/CollEvents.lean ====
section
/-! DEFINITION. The collective engine (spec/13_long_accumulator_collective_instructions.md R279, R280;
spec/20_fabric_and_island.md R371, R372): contributions, partials, ends and their delivery. -/

namespace Sys2Proof.Machine

/-! ## Instances -/

def State.inst? (s : State) (k : InstKey) : Option Instance := s.isl.insts.find? (fun i => i.key = k)
def State.putInst (s : State) (i : Instance) : State :=
  s.setIsl { s.isl with insts := s.isl.insts.filter (fun x => x.key ≠ i.key) ++ [i] }
def State.endedInst? (s : State) (k : InstKey) : Option EndedInst := s.isl.ended.find? (fun e => e.key = k)

/-- The group entry an instance uses, where the island uses one for its context (R370). -/
def State.instGroup (s : State) (k : InstKey) : Option CollGroup :=
  let g := s.collGroup k.grp
  if g.valid && g.ctx = k.ctx then some g else none

/-- The members of a group, ascending. -/
def CollGroup.members (g : CollGroup) : List Nat := (List.range 512).filter g.member

/-- The effective root (R371): the lowest member whose island is reachable and not OFF. -/
def State.instRoot (s : State) (g : CollGroup) : Option Nat := g.members.find? (fun d => s.peerState d != .off)

/-- The positions above a position of a tree, its parent (i - 1) div FANOUT first (R371). -/
def treeAbove (fanout : Nat) : Nat → Nat → List Nat
  | 0, _ => []
  | fuel + 1, i => if i = 0 then [] else (i - 1) / fanout :: treeAbove fanout fuel ((i - 1) / fanout)

/-- The members above a member, the nearest first; 512 positions make no higher tree. -/
def CollGroup.above (g : CollGroup) (d : Nat) : List Nat :=
  (treeAbove g.fanout 512 (g.members.idxOf d)).map (fun i => g.members.getD i d)

/-- The effective parent (R371): the nearest ancestor whose island is reachable and not OFF; a node left with none sends to the
effective root. DEDUCED: log entry 27. -/
def State.effParent (s : State) (g : CollGroup) (d : Nat) : Option Nat :=
  if s.instRoot g = some d then none
  else ((g.above d).find? (fun a => s.peerState a != .off)).orElse (fun _ => s.instRoot g)

/-- A member that can contribute nothing any more; what its island had accepted before it left still comes (R372, R374). -/
def State.memberAbsent (s : State) (i : Instance) (d : Nat) : Bool :=
  i.absent.getLsbD d || s.peerState d == .off || (s.peerState d == .islandOnly && !s.isl.kept.contains (d, i.key))

/-- An instance with contributions taken in: each device once; a difference in what must agree is kept (R279). The first
contribution says what that is. -/
def Instance.combine (i : Instance) (sig : Option CollSig) (parts : List Contribution) : Instance :=
  { i with sig := i.sig.orElse (fun _ => sig)
           parts := parts.foldl (fun ps p => if ps.any (fun q => q.dev = p.dev) then ps else ps ++ [p]) i.parts
           mismatch := i.mismatch || (i.sig.isSome && sig.isSome && i.sig != sig) }

/-- The instance of a key, made where it is not under way. -/
def State.instFor (s : State) (k : InstKey) : Instance :=
  (s.inst? k).getD { key := k, sig := none, parts := [], mismatch := false, absent := 0, first := none, sent := 0 }

/-- A device's bit in a set of devices. -/
def devBit (d : Nat) : BitVec 512 := BitVec.twoPow 512 d

/-! ## Up (R370 to R372) -/

/-- What a node sends up: its combined contributions, and absences, that it has not sent. It waits until every member of its
part of the tree has contributed or is absent; what comes later follows by itself. DEDUCED: log entry 27. -/
def State.sendUp (s : State) (k : InstKey) : State :=
  let me := s.pkg.device.toNat
  match s.inst? k, s.instGroup k with
  | some i, some g =>
    match s.effParent g me with
    | none => s
    | some up =>
      let mine := g.members.filter (fun d => d = me || (g.above d).contains me)
      let parts := i.parts.filter (fun p => !i.sent.getLsbD p.dev)
      let absent := i.absent &&& ~~~i.sent
      if (i.mismatch || mine.all (fun d => i.parts.any (fun p => p.dev = d) || s.memberAbsent i d)) && (parts != [] || absent != 0#512) then
        (s.putInst { i with sent := parts.foldl (fun m p => m ||| devBit p.dev) (i.sent ||| absent) }).sendPacket up 3 0 0
          (.part ⟨k, me, if parts = [] then none else i.sig, absent, i.mismatch, g.mask, g.fanout, g.timeout, parts⟩)
      else s
  | _, _ => s

/-- The same of every instance under way. -/
def State.sendUps (s : State) : State := (s.isl.insts.map Instance.key).foldl State.sendUp s

/-- How an instance that may end now ends (R372): mismatched, complete, or missing its absent members. -/
def State.instEnd (s : State) (g : CollGroup) (i : Instance) : Option CollEnd :=
  let here (d : Nat) : Bool := i.parts.any (fun p => p.dev = d)
  if i.mismatch then some ⟨2, i.parts⟩
  else if g.members.all here then some ⟨0, i.parts⟩
  else if g.members.all (fun d => here d || s.memberAbsent i d) then some ⟨1, i.parts⟩
  else none

/-! ## Delivery (R276, R278, R371) -/

/-- A collective's result at this device: the bytes of DST by their offsets, and the completion word. -/
def CollOp.result (o : CollOp) (sig : Option CollSig) (fin : CollEnd) : List (Nat × List Byte) × Word64 :=
  let r := if fin.code = 2#7 || fin.code = 3#7 then none else collResult (sig.getD (o.desc.sig o.op)) fin.parts
  let (chunks, trunc) := match r with
    | none => ([], false)
    | some x => if o.desc.dst = 0 then ([], false) else cutChunks o.desc.dstlen x.chunks
  (chunks, collWord fin.code fin.parts r trunc)

/-- What its completion writes to memory, by virtual address: the result, then the copy of the completion word. -/
def CollOp.writes (o : CollOp) (sig : Option CollSig) (fin : CollEnd) : List (Nat × List Byte) :=
  let r := o.result sig fin
  r.1.map (fun c => (o.desc.dst + c.1, c.2)) ++ (if o.desc.status = 0 then [] else [(o.desc.status, leBytes 8 r.2.toNat)])

/-- A collective of this device completes with an end: result, status copy, sD and flag. A write that its place refuses is told the
group. DEDUCED: log entry 27. -/
def State.collFinish (s : State) (o : CollOp) (sig : Option CollSig) (fin : CollEnd) : State :=
  let ws := o.writes sig fin
  let s1 := ws.foldl (fun s w => s.pagesWrite o.core o.ctx o.pages w.1 w.2) s
  let s2 := match ws.findSome? (fun w => s.pagesRefuse o.pages w.1 w.2.length) with
    | some (c, va) => s1.raiseAsync o.g c (BitVec.ofNat 64 va) true
    | none => s1
  let s3 := s2.arriveBoth o.g o.id (.s o.sreg) 0 (~~~0#512) (fun _ => (o.result sig fin).2.toNat)
  ((s3.setOps { s3.ops with colls := s3.ops.colls.filter (fun x => x.id ≠ o.id) }).flagDown o.g o.flag).afterPerform o.g

/-- The device that a completion writes to and that is not reached. -/
def State.resultFar (s : State) (o : CollOp) (sig : Option CollSig) (fin : CollEnd) : Option Nat :=
  s.pagesFar o.pages ((o.writes sig fin).flatMap (fun w => cutAt 64 w.1 w.2.length))

/-- The same, or, while a device that it writes to is not reached, it waits (R375). -/
def State.collEnd (s : State) (o : CollOp) (sig : Option CollSig) (fin : CollEnd) : State :=
  match s.heldBack (.op o.id) (s.resultFar o sig fin) with
  | none => s.collFinish o sig fin
  | some s1 => s1.setOps { s1.ops with colls := s1.ops.colls.map (fun x => if x.id = o.id then { x with st := .ended sig fin } else x) }

/-- It has ended and waits. -/
def CollSt.over : CollSt → Bool
  | .ended _ _ => true
  | _ => false

/-- The key of a collective's instance. -/
def CollOp.key (o : CollOp) : InstKey := ⟨o.ctx, o.desc.grp, o.desc.inst⟩

/-- An instance ends at this node: its end is kept among the latest 16 of its group, and this device's part of it
completes, or, where the device left, is discarded (R372, R374). -/
def State.endInstance (s : State) (i : Instance) (fin : CollEnd) : State :=
  let same := s.isl.ended.filter (fun e => e.key.grp = i.key.grp)
  let drop := same.drop 15
  let s1 := s.setIsl { s.isl with
    insts := s.isl.insts.filter (fun x => x.key ≠ i.key)
    ended := ⟨i.key, i.sig, fin⟩ :: s.isl.ended.filter (fun e => e.key ≠ i.key && !drop.any (fun d => d.key = e.key)) }
  let mine := s1.ops.colls.filter (fun o => o.key = i.key && o.st != .queued && o.st != .duplicate && !o.st.over)
  if mine = [] && i.parts.any (fun p => p.dev = s.pkg.device.toNat) then
    s1.setIsl { s1.isl with orphan := bump64 s1.isl.orphan }
  else mine.foldl (fun s o => s.collEnd o i.sig fin) s1

/-! ## Contribution (R280, R372) -/

/-- What a range reads as element values. -/
def elemsOf (t : ElemTy) : Nat → List Byte → List Nat
  | 0, _ => []
  | n + 1, bs => leNat (bs.take t.bytes) :: elemsOf t n (bs.drop t.size)

/-- A list cut into rows of a length. -/
def rowsOf (e : Nat) : Nat → List Nat → List (List Nat)
  | 0, _ => []
  | n + 1, l => l.take e :: rowsOf e n (l.drop e)

/-- Rows of its input that a collective's engine reads on this device. -/
def State.rowsRead (s : State) (o : CollOp) : Nat := if o.desc.reads (collKind o.op) s.pkg.device.toNat then o.desc.cnt else 0

/-- The ranges that it reads: its input, and RANK's observations (R280). -/
def State.inputRanges (s : State) (o : CollOp) (t : ElemTy) : List (Nat × Nat × Nat) :=
  cutAt 64 o.desc.src (s.rowsRead o * o.desc.e * t.size)
    ++ (if collKind o.op = .rank then cutAt 64 o.desc.param.toNat (o.desc.e * t.size) else [])

/-- This device's contribution of a collective, or the cause and the address at which its reading is refused. -/
def State.contribution (s : State) (o : CollOp) (t : ElemTy) : Except (BitVec 8 × Nat) Contribution :=
  let dev := s.pkg.device.toNat
  let d := o.desc
  let k := collKind o.op
  let n := s.rowsRead o
  match s.pagesRead o.core o.ctx o.pages (cutAt 64 d.src (n * d.e * t.size)) with
  | .error e => .error e
  | .ok bs =>
    let rows := rowsOf d.e n (elemsOf t (n * d.e) bs)
    if k = .rank then
      match s.pagesRead o.core o.ctx o.pages (cutAt 64 d.param.toNat (d.e * t.size)) with
      | .error e => .error e
      | .ok os => .ok ⟨dev, rows, elemsOf t d.e os⟩
    else .ok ⟨dev, rows, []⟩

/-- Everything that a multicast in class A goes to beyond this device, on the plane of the group's number (R366, R371).
DESIGN CHOICE: log entry 31. -/
def State.castEnd (s : State) (i : Instance) (fin : CollEnd) (dests : BitVec 512) : State :=
  let others := dests &&& ~~~devBit s.pkg.device.toNat
  if others = 0#512 then s else s.sendPacket (1024 + 2 * i.key.grp) 4 others i.key.grp (.ending i.key i.sig fin)

/-- The effective root ends an instance: here, and by one multicast at every other member (R371). -/
def State.endAtAll (s : State) (i : Instance) (fin : CollEnd) (dests : BitVec 512) : State := (s.endInstance i fin).castEnd i fin dests

/-- The collective at the head of its core's queue (R256, R257); a duplicate, which contributes nothing, stands in no queue (R279). -/
def State.collHead (s : State) (o : CollOp) : Bool :=
  (s.ops.colls.find? (fun x => x.core = o.core && !x.st.twin)).map CollOp.id == some o.id

def State.setColl (s : State) (o : CollOp) : State :=
  s.setOps { s.ops with colls := s.ops.colls.map (fun x => if x.id = o.id then o else x) }

/-- COLL_CONTRIBUTION (R255, R279, R280): the engine reads this device's input and contributes it, or meets an uncorrectable error
at a byte that it reads; an instance that has ended completes at once with its end, as a duplicate does with its own, behind no
other collective (R279). Input or result at a device that is not reached waits (R375). -/
def execCollContribution (x : EvContrib) (s : State) : Result :=
  match s.ops.colls.find? (fun o => o.id = x.op) with
  | none => notDue "COLL_CONTRIBUTION"
  | some o =>
    match elemTy o.desc.ty with
    | none => notDue "COLL_CONTRIBUTION"
    | some t =>
      match o.st with
      | .ended sig fin =>
        s.afterHold "COLL_CONTRIBUTION" (.op o.id) (s.resultFar o sig fin) (fun s => dueIf "COLL_CONTRIBUTION" x.bad.isNone (s.collFinish o sig fin))
      | _ =>
      if o.st = .duplicate then dueIf "COLL_CONTRIBUTION" (s.engineReady o.g o.threads o.id) (s.collEnd o none ⟨3, []⟩)
      else if o.st != .queued || !s.collHead o || !s.engineReady o.g o.threads o.id || s.qfenceHolds o.g 10 o.id || s.isl.st != .joined then
        notDue "COLL_CONTRIBUTION"
      else
        match s.endedInst? o.key with
        | some e =>
          .next ((s.setIsl { s.isl with colllate := bump64 s.isl.colllate }).collEnd o e.sig e.fin)
        | none =>
          s.afterHold "COLL_CONTRIBUTION" (.op o.id) (s.pagesFar o.pages (s.inputRanges o t)) (fun s =>
          let i := s.instFor o.key
          let s0 := s.pagesSeen o.core o.ctx o.pages (s.inputRanges o t)
          let fails (code : BitVec 8) (va : Nat) : Result :=
            let s1 := s0.putInst { i with absent := i.absent ||| devBit s.pkg.device.toNat }
            .next (((s1.setColl { o with st := .failed }).raiseAsync o.g code (BitVec.ofNat 64 va) true).sendUp o.key)
          match x.bad with
          | some va =>
            if (s.inputRanges o t).any (fun q => decide (q.1 ≤ va) && decide (va < q.1 + q.2.1)) then fails cMEM_UNCORRECTABLE va
            else notDue "COLL_CONTRIBUTION"
          | none =>
            match s.contribution o t with
            | .error (code, va) => fails code va
            | .ok c =>
              .next (((s0.putInst (i.combine (some (o.desc.sig o.op)) [c])).setColl { o with st := .contributed }).sendUp o.key))

/-- COLL_PARTIAL_RECEIVE (R370, R371, R372): it joins the instance and goes up; a sender whose entry differs from this device's
ends the instance with MISMATCH at every participant either names. DEDUCED: log entry 27. -/
def execCollPartialReceive (x : EvPartial) (s : State) : Result :=
  if s.isl.st = .off then notDue "COLL_PARTIAL_RECEIVE"
  else
    let discard : Result := .next (s.setIsl { s.isl with colllate := bump64 s.isl.colllate })
    match s.instGroup x.key with
    | none => discard
    | some g =>
      match s.endedInst? x.key with
      | some _ => discard
      | none =>
        let i := (s.instFor x.key).combine x.sig x.parts
        let j := { i with mismatch := i.mismatch || x.bad, absent := i.absent ||| x.absent, first := i.first.orElse (fun _ => some s.cycle) }
        if g.mask == x.mask && g.fanout == x.fanout && g.timeout == x.timeout then .next ((s.putInst j).sendUp x.key)
        else .next (s.endAtAll j ⟨2, j.parts⟩ (g.mask ||| x.mask))

/-- COLL_RESULT_DELIVERY (R371): the effective root ends the instance, or its end arrives from another device. -/
def execCollResultDelivery (x : EvCollEnd) (s : State) : Result :=
  if s.isl.st = .off then notDue "COLL_RESULT_DELIVERY"
  else
    match s.inst? x.key with
    | none => notDue "COLL_RESULT_DELIVERY"
    | some i =>
      match x.fromPeer with
      | some fin => .next (s.endInstance i fin)
      | none =>
        match s.instGroup x.key with
        | none => notDue "COLL_RESULT_DELIVERY"
        | some g =>
          if s.instRoot g = some s.pkg.device.toNat then
            match s.instEnd g i with
            | some fin => .next (s.endAtAll i fin g.mask)
            | none => notDue "COLL_RESULT_DELIVERY"
          else notDue "COLL_RESULT_DELIVERY"

/-- COLL_INSTANCE_TIMEOUT (R372): the root ends an instance over what arrived, TIMEOUT after its first partial. -/
def execCollInstanceTimeout (x : EvInst) (s : State) : Result :=
  match s.inst? x.key, s.instGroup x.key with
  | some i, some g =>
    if s.isl.st != .off && s.instRoot g = some s.pkg.device.toNat && (i.first.map (fun c => s.passed c g.timeout)).getD false then
      .next (s.endAtAll i ((s.instEnd g i).getD ⟨1, i.parts⟩) g.mask)
    else notDue "COLL_INSTANCE_TIMEOUT"
  | _, _ => notDue "COLL_INSTANCE_TIMEOUT"

end Sys2Proof.Machine
end

