-- ==== Sys2Proof/Machine/Fresh.lean ====
section
/-! DEFINITION. New threads, splits, groups, teams and contexts as they start (spec/09_scheduling_and_preemption.md
R201; spec/05_registers_private_memory_traps.md R111, R120, R123). -/

namespace Sys2Proof.Machine

/-- An accumulator's status word of zero, and its image (R262, R263). -/
def AccStatus.zero : AccStatus := ⟨0, false, false, false, false, false⟩
def Image.zero (wide : Bool) : Image := ⟨wide, 0, .zero⟩

/-- A thread at launch (R201). -/
def Thread.fresh (memberid origin wide narrow : Nat) : Thread :=
  { p := 0, fflags := 0, pend := 0, exited := false, parked := false, done := none, memberid := memberid, origin := origin
    acc := List.replicate wide (Image.zero true) ++ List.replicate narrow (Image.zero false) }

/-- a15 of a group whose private base and word count are given (R120). -/
def a15 (base words : Nat) : AReg := ⟨0, BitVec.ofNat 64 base, BitVec.ofNat 64 (4 * words), true, true, false, true⟩

/-- The split a group starts with (R90). -/
def Split.fresh (mask : Mask) (entry : Word64) (s : List Word64) (a : AReg) : Split :=
  { sid := 0, age := 0, mask := mask, pc := entry, st := .boundary, slot := 1, header := 0, code := [], s := s
    a := List.replicate 15 .zero ++ [a], sBusy := [], latch := [], region := some entry, regionAt := 0, defer := [] }

def TrapRec.fresh (tvec : Word64) : TrapRec :=
  { cause := 0, addr := 0, mask := 0, entry := 0, iaddr := 0, inst := 0, tvec := tvec, scr := List.replicate 4 0 }
def DrainRegs.zero : DrainRegs := ⟨0, 0, 0, 0, 0, 0, 0, 0, 0, 0, 0⟩

/-- A group at its start (R201). -/
def Group.fresh (key : GroupKey) (ctx core : Nat) (l : LRec) (threads : List Thread) (split : Split) : Group :=
  { key := key, ctx := ctx, core := core, w := l.w, m := l.m, floor := l.floor, threads := threads, v := [], wr := [], stale := 0
    splits := [split], nextSid := 1, nextAge := 1, flags := List.replicate 12 0, det := l.det, pairchk := l.pairchk, chk := l.pairchk
    priv := false, udiv := false, trap := .fresh l.tvec, msel := 0, dr := .zero, curbStalls := 0, curbCycles := 0, wd := 0
    stallRdy := 0, pauseEnd := 0, lastIssue := 0, lastSplit := 0, yieldHint := false, readyFor := 0, asyncs := [], handler := none
    haltReq := false, evictReq := false, seq := 0 }

/-- A team at its start: barriers at zero, write pointers at zero (R146, R156, R168). -/
def Team.fresh (key : TeamKey) (ctx core : Nat) (pair pairchk : Bool) (k x y z mb : Nat) (area : Option Nat) : Team :=
  { key := key, ctx := ctx, core := core, pair := pair, pairchk := pairchk, k := k, size := if pair && !pairchk then 2 * k else k
    x := x, y := y, z := z, mb := mb, area := area, spad := [], spad2 := [], bars := List.replicate 16 .zero, defers := []
    ptrs := [], regrouped := false, origin15 := [], bitSet := false, lost := none, degraded := false, resBase := 0, resCount := 0
    lostLive := 0, gone := [] }

/-- A launch record of zeros. -/
def LRec.zero : LRec :=
  { version := 1, det := false, pairchk := false, degrade := false, serial := false, w := 16, m := 1, groups := 1, curve := 0
    blk := 0, dep := 0, radius := 0, wide := 0, narrow := 0, spad := 0, floor := 0, priv := 0, pslots := 0, entry := 0, nx := 1
    ny := 1, nz := 1, nmb := 1, done := 0, privbase := 0, tvec := 0, depon := 0, table := 0, bitmap := 0, safe := 0
    safecount := 0, rescount := 0, resv := 0, live := 0, args := [] }

/-- A launch just taken. -/
def Launch.fresh (handle ctx q order : Nat) (r : LRec) : Launch :=
  { handle := handle, ctx := ctx, q := q, order := order, lrec := r, dispatched := [], ended := [], fault := none
    tableBad := false, aborted := false, invalid := false, complete := false, areas := [], resv := [] }

/-- A context just started (R215, R394, R395); the round-robin of each priority begins with its lowest-numbered queue. DESIGN CHOICE:
log entry 42. -/
def Context.fresh (id : Nat) : Context :=
  { id := id, gen := 1, tslice := 2000, root := 0, saveBase := 0, saveSize := 0, res := [], resAddr := 0, keys := 0, qbase := 0
    qdepth := 0, crdepth := 0, crbase := 0, wdlimit := 2 ^ 32, qtail := [], qhead := [], crhead := 0, crtail := 0, seq := 0
    touched := 0, dbg := false, lastQ := [15, 31, 47, 63], pre := [], posts := [], saves := [], slices := [] }

end Sys2Proof.Machine
end

