-- ==== Sys2Proof/Machine/Launching.lean ====
section
/-! DEFINITION. Launch records and queues (spec/09_scheduling_and_preemption.md R196 to R200, R401), and LAUNCH and TDONE
as they issue (spec/06_member_local_sync_instructions.md R160, R161). -/

namespace Sys2Proof.Machine

/-! ## The device's own reads and writes of virtual addresses (R401) -/

/-- A unit number that no core and no C-die has, for accesses of the device itself: they use no cached leaf. -/
def devUnit : Nat := 1000

/-- Ranges of a virtual range, translated on member 0, cut at 64 bytes. -/
def State.devParts (s : State) (ctx va n : Nat) (p : Perm) : Option (List (Nat × Nat × BitVec 10)) :=
  (cutAt 64 va n).mapM (fun q =>
    match s.translate devUnit ctx q.1 p 0 with
    | .ok (pa, at1) => some (pa, q.2.1, at1.key)
    | .error _ => none)

/-- Bytes the device reads at a virtual address of a context; none where the access fails. -/
def State.devRead (s : State) (ctx va n : Nat) : Option (List Byte) :=
  match s.devParts ctx va n .load with
  | none => none
  | some ps => (s.engineReads devUnit ctx ps).toOption

/-- The M-dies that a device access of a virtual range reaches, its walks' included, count as touched (R382). -/
def State.devTouch (s : State) (ctx va n : Nat) (p : Perm) : State :=
  ((cutAt 64 va n).zip ((s.devParts ctx va n p).getD [])).foldl (fun (s : State) q =>
      s.engineSeen devUnit ctx q.1.1 q.2.1 q.2.2.1 (if p = .store then .write else .read))
    ((cutAt 64 va n).foldl (fun (s : State) q => s.touchWalk devUnit ctx q.1) s)

/-- The first device that such an access needs and that is not reached (R375). -/
def State.devFar (s : State) (ctx va n : Nat) (p : Perm) : Option Nat := s.farOf (((s.devParts ctx va n p).getD []).map Prod.fst)

/-- Bytes the device writes at a virtual address of a context, which it has reached (`devTouch`); none where the access fails. -/
def State.devWrite (s : State) (ctx va : Nat) (bs : List Byte) : Option State :=
  match s.devParts ctx va bs.length .store with
  | none => none
  | some ps =>
    if ps.any (fun p => (s.deviceRefused p.1 p.2.1 p.2.2).isSome) then none
    else some (ps.foldl (fun (acc : State × List Byte) p =>
      (acc.1.engineWrite devUnit ctx p.1 p.2.2 (acc.2.take p.2.1), acc.2.drop p.2.1)) (s, bs)).1

/-- A device write that goes on where the access fails (R401). -/
def State.devStore (s : State) (ctx va : Nat) (bs : List Byte) : State :=
  let s1 := s.devTouch ctx va bs.length .store
  (s1.devWrite ctx va bs).getD s1

/-! ## The launch record (R198, R199) -/

/-- A record with its argument doublewords, and whether every reserved field and bit is zero and the version known. -/
def parseRec (raw : List Byte) : LRec × Nat × Bool :=
  let v := leNat (raw.take 1)
  let len := if v = 2 then 128 else 64
  let bs := raw.take len
  let f (o n : Nat) : Nat := leNat ((bs.drop o).take n)
  let w (o : Nat) : Word64 := BitVec.ofNat 64 (f o 8)
  let attr := f 1 1
  let cur := f 5 1
  let dep := f 6 1
  let acc := f 7 1
  let nargs := f 34 1
  ({ version := v, det := attr.testBit 0, pairchk := attr.testBit 1, degrade := attr.testBit 2, serial := attr.testBit 3
     w := f 2 1, m := f 3 1, groups := f 4 1, curve := cur % 4, blk := cur / 4 % 8, dep := dep % 8, radius := dep / 16
     wide := acc % 8, narrow := acc / 8 % 8, spad := f 8 2, floor := f 10 2, priv := f 12 2, pslots := f 14 2, entry := w 16
     nx := f 24 4, ny := f 28 2 + 1, nz := f 30 2 + 1, nmb := f 32 2 + 1, done := w 40, privbase := w 48, tvec := w 56
     depon := w 64, table := w 72, bitmap := w 80, safe := w 88, safecount := f 96 4, rescount := f 100 4, resv := w 104
     live := w 112
     args := (List.range nargs).map (fun k => BitVec.ofNat 64 (leNat ((raw.drop (len + 8 * k)).take 8))) },
   nargs,
   (v == 1 || v == 2) && attr < 16 && cur < 32 && dep % 16 < 8 && acc < 64 && f 35 5 == 0 && f 120 8 == 0)

/-- Teams of a launch (R84). -/
def LRec.teams (r : LRec) : Nat := r.nx * r.ny * r.nz * r.nmb
/-- Threads of a group. -/
def LRec.f (r : LRec) : Nat := r.w * r.m
/-- Groups of a team on its fullest core (R87). -/
def LRec.perCore (r : LRec) : Nat := min r.groups 16
/-- Register entries a group holds from its start (R112), and accumulator units of its images (R261). -/
def LRec.entries (r : LRec) : Nat := (r.floor + 4) * (r.f / 8)
def LRec.units (r : LRec) : Nat := (9 * r.wide + 2 * r.narrow) * r.f
/-- The team takes a core pair (R87, R106). -/
def LRec.pair (r : LRec) : Bool := r.pairchk || 16 < r.groups

/-- An address is a multiple of a number. -/
def isMult (x : Word64) (n : Nat) : Bool := x.toNat % n == 0

/-- DEPON names a launch of the context accepted with a bitmap. -/
def State.hasProducer (s : State) (ctx : Nat) (h : Nat) : Bool :=
  s.launches.any (fun l => l.handle = h && l.ctx = ctx && !l.invalid && l.lrec.bitmap != 0)
    || ((s.ctx? ctx).map (fun c => c.pre.any (fun p => p.handle = h && p.bitmap))).getD false

/-- The ATOMR counts of a launch's teams as read at acceptance (R401). DEDUCED: log entry 25. -/
def State.readResv (s : State) (ctx : Nat) (r : LRec) : Option (List Nat) :=
  if r.resv = 0 then some []
  else (s.devRead ctx r.resv.toNat (4 * r.teams)).map (fun bs => (List.range r.teams).map (fun i => leNat ((bs.drop (4 * i)).take 4)))

/-- The checks of R84, R199 and R388, but for the reading of the RESV counts. DEDUCED: log entry 25. -/
def State.recordOk (s : State) (ctx : Nat) (r : LRec) (nargs : Nat) (sound : Bool) : Bool :=
  let act (b : Nat) : Bool := bitAt s.pkg.featAct0 b
  sound && act (r.version - 1)
    && [16, 32, 64].contains r.w && [1, 2, 4, 8].contains r.m && decide (1 ≤ r.groups) && decide (r.groups ≤ 32)
    && [128, 192, 256, 320].contains r.spad && decide (r.floor ≤ 256) && decide (r.priv ≤ 4096) && decide (nargs ≤ 16)
    && (!r.pairchk || (decide (r.groups ≤ 16) && act 4)) && (!r.degrade || r.pairchk) && (!r.det || act 5)
    && r.dep != 7 && (if r.dep = 2 then decide (1 ≤ r.radius) else r.radius == 0)
    && decide (r.wide + r.narrow ≤ 4)
    && decide (1 ≤ r.nx) && decide (r.nx ≤ 2 ^ 24) && decide (r.nmb ≤ 4096) && decide (r.nmb * r.m ≤ 32768) && decide (r.teams ≤ 2 ^ 32)
    && isMult r.entry 64 && isMult r.tvec 64
    && (r.priv == 0 || r.pslots != 0) && isMult r.privbase 4096
    && (r.dep == 0 || s.hasProducer ctx r.depon.toNat)
    && (r.dep != 6 || isMult r.table 64) && isMult r.bitmap 128 && isMult r.safe 8 && isMult r.live 8 && isMult r.resv 4
    && decide (r.perCore * r.entries ≤ 16384) && decide (r.perCore * r.units ≤ 5184)

/-! ## Queues (R196, R394) -/

/-- Launches waiting in a queue. -/
def Context.waiting (c : Context) (q : Nat) : Nat := (countOf c.qtail q - countOf c.qhead q).toNat
/-- The virtual address of the entry for a count. -/
def Context.entryAt (c : Context) (q : Nat) (n : BitVec 32) : Nat :=
  c.qbase.toNat + q * c.qdepth * 256 + n.toNat % c.qdepth * 256

/-- The next handle of a context (R200). DEDUCED: log entry 25. -/
def Context.nextHandle (c : Context) (q : Nat) : Nat := c.id * 2 ^ 54 + q * 2 ^ 48 + (c.seq + 1) % 2 ^ 48

/-! ## LAUNCH (R160) -/

/-- Bytes of a range that the core reads through an a register for the lowest active thread, or the fault, and what it has
accessed. -/
def Iss.readThrough (i : Iss) (a : AReg) (o : Int) (n align : Nat) : Except (ThrFault × List Piece) (List Byte × List Piece) :=
  match i.access { perm := .load, allowed := AReg.rd, size := n, placed := fun _ x => decide (x % align = 0) } a o i.low with
  | .error e => .error (e, [])
  | .ok ps =>
    (sortBy Piece.at0 ps).foldl (fun acc p =>
      match acc with
      | .error e => .error e
      | .ok (bs, _) =>
        match i.s.engineRead i.core i.g0.ctx p.pa p.size p.attr.key with
        | .error c => .error (⟨i.low, c, BitVec.ofNat 64 (if c = cREMOTE_WINDOW then frameOff p.pa else if c = cENDPOINT_DOWN then frameDev p.pa else p.va), true, none⟩, ps)
        | .ok more => .ok (bs ++ more, ps)) (.ok ([], ps))

/-- The device that such a read needs and that is not reached, where it failed for that (R375). -/
def Iss.readFar (i : Iss) (e : ThrFault × List Piece) : Option Nat :=
  if e.1.code = cENDPOINT_DOWN then i.s0.farOf (e.2.map Piece.pa) else none

/-- The fault of such a read. -/
def Iss.readTrap (i : Iss) (e : ThrFault × List Piece) : Act :=
  .trap { i with s := (i.readFault e).unhold i.holdKey, g := i.g0, p := i.p0 }
    { i.p0.trapInfo e.1.code e.1.addr i.act with detail := if e.1.late then lateDetail .load else 0 }

/-- The record and its arguments, read through the a register (R160, step 2). -/
def Iss.readRecord (i : Iss) (a : AReg) : Except (ThrFault × List Piece) (List Byte × List Piece) :=
  let at0 := Int.ofNat a.ptr.toNat
  match i.readThrough a at0 64 64 with
  | .error e => .error e
  | .ok (b1, p1) =>
    let len := if leNat (b1.take 1) = 2 then 128 else 64
    match (if len = 128 then i.readThrough a at0 128 64 else .ok (b1, p1)) with
    | .error e => .error (e.1, p1 ++ e.2)
    | .ok (b2, p2) =>
      let nargs := leNat ((b2.drop 34).take 1)
      if nargs = 0 || 16 < nargs then .ok (b2, p2)
      else
        match i.readThrough a (at0 + len) (8 * nargs) 1 with
        | .error e => .error (e.1, p2 ++ e.2)
        | .ok (b3, p3) => .ok (b2 ++ b3, p2 ++ p3)

/-- LAUNCH issues. -/
def Iss.launch (i : Iss) (x : LaunchI) : Act :=
  let a := i.areg x.a
  let q := i.uniSrc x.q
  if !i.any then .ok i
  else if 64 ≤ q.toNat then i.fault cLAUNCH_INVALID a.ptr i.act
  else if i.k.shadow then .ok (i.writeS x.d (BitVec.ofNat 64 (i.shared.headD 0)))
  else if !i.released i.act .dev then .stall 0 none
  else
    match i.readRecord a with
    | .error e => i.awaitPeer (i.readFar e) (i.readTrap e)
    | .ok (raw, ps) =>
      let (r, nargs, sound) := parseRec raw
      let read (s : State) : State := (s.unhold i.holdKey).readSeen i.core i.g0.ctx ps
      let refused (s : State) : Act := .trap { i with s := s, g := i.g0, p := i.p0 } (i.p0.trapInfo cLAUNCH_INVALID a.ptr i.act)
      if i.owes ps then .stall 0 none
      else
      match i.s.ctx? i.g0.ctx with
      | none => refused (read i.s0)
      | some c =>
        let counted (s : State) : State := if r.resv = 0 then read s else (read s).devTouch c.id r.resv.toNat (4 * r.teams) .load
        if !i.s.recordOk c.id r nargs sound then refused (read i.s0)
        else
          i.awaitPeer (if r.resv = 0 then none else i.s.devFar c.id r.resv.toNat (4 * r.teams) .load)
          (match i.s.readResv c.id r with
          | none => refused (counted i.s0)
          | some counts =>
            if c.qdepth ≤ c.waiting q.toNat then .stall wLAUNCHDEP none
            else
              let n := countOf c.qtail q.toNat
              let reached (s : State) : State := (counted s).devTouch c.id (c.entryAt q.toNat n) raw.length .store
              i.awaitPeer (i.s.devFar c.id (c.entryAt q.toNat n) raw.length .store)
              (match (reached i.s).devWrite c.id (c.entryAt q.toNat n) raw with
              | none => refused (reached i.s0)
              | some s1 =>
                let h := c.nextHandle q.toNat
                let order := s1.sched.nextOrder
                let s2 := s1.setSched { s1.sched with nextOrder := order + 1 }
                let s3 := s2.modCtx c.id (fun c => { c with
                  seq := c.seq + 1, qtail := insertKey c.qtail q.toNat (n + 1)
                  pre := c.pre ++ [⟨q.toNat, n, h, order, r.bitmap != 0, counts⟩] })
                .ok (({ i with s := s3, shared := [h] } : Iss).spend.writeS x.d (BitVec.ofNat 64 h))))

/-- LAUNCH (R160). -/
def execLaunch (x : LaunchI) (s : State) : Result :=
  runCore
    { view := x.view
      nonIdem := fun _ => true
      cmp := some fun i =>
        let a := i.areg x.a
        let raw := match i.readRecord a with
          | .ok (bs, _) => bs
          | .error _ => []
        [(i.low, a.items ++ i.uniSrc x.q :: (List.range ((raw.length + 7) / 8)).map (fun n => BitVec.ofNat 64 (leNat ((raw.drop (8 * n)).take 8))))]
      whole := true
      body := fun i => i.launch x } s

/-! ## TDONE (R161) -/

/-- TDONE: each active thread is marked done, once; it is non-idempotent (R126). DEDUCED: log entry 20. -/
def execTdone (x : INone) (s : State) : Result :=
  runCore
    { view := x.view
      nonIdem := fun _ => true
      body := fun i =>
        .ok { i with g := i.g.mapThreads (fun t th =>
          if i.act.getLsbD t && th.done.isNone then { th with done := some i.s0.sched.nextId } else th) } } s

end Sys2Proof.Machine
end

