-- ==== Sys2Proof/Machine/Distrib.lean ====
section
/-! DEFINITION. The distributor (spec/09_scheduling_and_preemption.md R197 to R207, R214): taking a launch, dispatching
a team, the completion bitmap, and a launch's completion (spec/21_package_and_system.md R394). -/

namespace Sys2Proof.Machine

/-! ## Completion (R200, R394) -/

/-- The status of a launch, the first that applies (R200). -/
def Launch.status (l : Launch) : Nat :=
  if l.aborted then 4 else if l.invalid then 2 else if l.tableBad then 3 else if l.fault.isSome then 1 else 0

/-- A completion word. -/
def completionWord (team : Nat) (cause : BitVec 8) (status : Nat) : Word64 :=
  BitVec.ofNat 64 (team % 2 ^ 32 * 2 ^ 16 + cause.toNat * 2 ^ 8 + status)
def Launch.word (l : Launch) : Word64 :=
  match l.fault with
  | some (t, c) => completionWord t c l.status
  | none => completionWord 0 0 l.status

/-- A completion-ring entry is to be posted. -/
def State.post (s : State) (ctx : Nat) (handle : Nat) (w : Word64) : State :=
  s.modCtx ctx (fun c => { c with posts := c.posts ++ [(BitVec.ofNat 64 handle, w, s.cycle - s.born)] })

/-- Entries the completion ring can still take. -/
def Context.ringRoom (c : Context) : Nat := c.crdepth - (c.crtail - c.crhead).toNat

/-- Bytes of a ring entry, and where the next one lies. -/
def postSize (c : Context) : Nat := if c.gen = 2 then 32 else 16
def Context.ringAt (c : Context) : Nat := c.crbase.toNat + c.crtail.toNat % c.crdepth * postSize c

/-- The first waiting entry is written to the ring; where it cannot be written CRTAIL advances all the same (R401). -/
def State.postOne (s : State) (c : Context) : State :=
  match c.posts with
  | [] => s
  | (h, w, cyc) :: rest =>
    let bytes := leBytes 8 h.toNat ++ leBytes 8 w.toNat ++ (if c.gen = 2 then leBytes 8 cyc ++ leBytes 8 0 else [])
    let s1 := s.devStore c.id c.ringAt bytes
    s1.modCtx c.id (fun c => { c with posts := rest, crtail := c.crtail + 1 })

/-- COMPLETION_RING_POST (R394). -/
def execCompletionRingPost (x : EvCtx) (s : State) : Result :=
  match s.ctx? x.ctx with
  | none => notDue "COMPLETION_RING_POST"
  | some c =>
    if c.posts = [] || c.ringRoom = 0 then notDue "COMPLETION_RING_POST"
    else
      s.afterHold "COMPLETION_RING_POST" (.dev c.id c.ringAt) (s.devFar c.id c.ringAt (postSize c) .store) (fun s => .next (s.postOne c))

/-- The completion word goes to DONE, if the record names one, and to the ring. -/
def State.completeLaunch (s : State) (l : Launch) : State :=
  let s1 := s.putLaunch { l with complete := true }
  let s2 := if l.invalid || l.lrec.done = 0 then s1 else s1.devStore l.ctx l.lrec.done.toNat (leBytes 8 l.word.toNat)
  s2.post l.ctx l.handle l.word

/-- The device that holds a launch's DONE word, where it is not reached. -/
def State.doneFar (s : State) (l : Launch) : Option Nat :=
  if l.invalid || l.lrec.done = 0 then none else s.devFar l.ctx l.lrec.done.toNat 8 .store

/-- Nothing more of a launch will be dispatched. -/
def Launch.allDispatched (l : Launch) : Bool :=
  l.complete || l.tableBad || l.aborted || decide (l.lrec.teams ≤ l.dispatched.length)

/-- Every access of a launch's threads is performed as a device-scope release asks (R200, R218). -/
def State.launchReleased (s : State) (h : Nat) : Bool :=
  s.ops.mem.all (fun o => o.g.team.launch != h || o.meets .dev false o.active)
    && s.ops.remote.all (fun o => o.g.team.launch != h) && s.ops.copies.all (fun o => o.g.team.launch != h)
    && s.ops.colls.all (fun o => o.g.team.launch != h)

/-- LAUNCH_COMPLETE (R200). -/
def execLaunchComplete (x : EvLaunch) (s : State) : Result :=
  match s.launch? x.handle with
  | none => notDue "LAUNCH_COMPLETE"
  | some l =>
    if l.complete || !l.allDispatched || !l.dispatched.all (fun t => l.ended.contains t) || !s.launchReleased l.handle then
      notDue "LAUNCH_COMPLETE"
    else
      s.afterHold "LAUNCH_COMPLETE" (.dev l.ctx l.lrec.done.toNat) (s.doneFar l) (fun s => .next (s.completeLaunch l))

/-! ## Taking a launch (R197, R199) -/

/-- The launch taken last from a queue. -/
def State.prevOf (s : State) (ctx q : Nat) : Option Launch := (s.launches.filter (fun l => l.ctx = ctx && l.q = q)).getLast?

/-- The 256 bytes of a queue's first waiting entry. -/
def State.entryBytes (s : State) (c : Context) (q : Nat) : Option (List Byte) := s.devRead c.id (c.entryAt q (countOf c.qhead q)) 256

/-- The queue's first waiting launch can start. -/
def State.queueReady (s : State) (c : Context) (q : Nat) : Bool :=
  c.waiting q != 0 && (match s.prevOf c.id q with
    | none => true
    | some p => p.allDispatched && (p.complete || !((s.entryBytes c q).map (fun bs => (parseRec bs).1.serial)).getD false))

/-- How far a queue stands behind the one its priority served last. -/
def Context.turn (c : Context) (q : Nat) : Nat := (q % 16 + 15 - (c.lastQ.getD (q / 16) 15) % 16) % 16

/-- The queue the distributor serves next: the highest priority, round-robin among equals. -/
def State.serves (s : State) (c : Context) (q : Nat) : Bool :=
  q < 64 && s.queueReady c q && (List.range 64).all (fun r =>
    r == q || !s.queueReady c r || decide (q / 16 < r / 16) || (q / 16 == r / 16 && decide (c.turn q < c.turn r)))

/-- A queue's first waiting entry as LAUNCH left word of it (R160). -/
def Context.preOf (c : Context) (q : Nat) : Option Queued := c.pre.find? (fun p => p.q = q && p.n = countOf c.qhead q)

/-- A queue's first waiting entry is consumed, and takes its handle and its place in the order (R199, R200). -/
def State.takeEntry (s : State) (c : Context) (q : Nat) : State :=
  let n := countOf c.qhead q
  let pre := c.preOf q
  let s0 := s.devTouch c.id (c.entryAt q n) 256 .load
  let s1 := s0.modCtx c.id (fun c => { c with
    qhead := insertKey c.qhead q (n + 1), lastQ := c.lastQ.set (q / 16) q
    pre := c.pre.filter (fun p => !(p.q = q && p.n = n)), seq := if pre.isSome then c.seq else c.seq + 1 })
  s1.setSched { s1.sched with nextOrder := if pre.isSome then s1.sched.nextOrder else s1.sched.nextOrder + 1 }

/-- The record of a queue's first waiting entry, where its checks hold but for the reading of its RESV counts. -/
def State.entryRecord (s : State) (c : Context) (q : Nat) : Option LRec :=
  match s.entryBytes c q with
  | none => none
  | some raw =>
    let (r, nargs, sound) := parseRec raw
    if (c.preOf q).isSome || s.recordOk c.id r nargs sound then some r else none

/-- DISTRIBUTOR_TAKE_LAUNCH (R197, R199, R200): the entry, and the counts that its record names, are read first, and a device that is
not reached may hold up either (R375). -/
def execDistributorTakeLaunch (x : EvTake) (s : State) : Result :=
  match s.ctx? x.ctx with
  | none => notDue "DISTRIBUTOR_TAKE_LAUNCH"
  | some c =>
    let va := c.entryAt x.q (countOf c.qhead x.q)
    let pre := c.preOf x.q
    if !s.serves c x.q then notDue "DISTRIBUTOR_TAKE_LAUNCH"
    else
      s.afterHold "DISTRIBUTOR_TAKE_LAUNCH" (.dev c.id va) (s.devFar c.id va 256 .load) (fun s =>
        let handle := (pre.map Queued.handle).getD (c.nextHandle x.q)
        let order := (pre.map Queued.order).getD s.sched.nextOrder
        let refuse (s : State) : Result :=
          let l := { Launch.fresh handle c.id x.q order .zero with invalid := true }
          let t := s.takeEntry c x.q
          .next ({ t with launches := t.launches ++ [l] }.completeLaunch l)
        match s.entryRecord c x.q with
        | none => refuse s
        | some r =>
          let reads := pre.isNone && r.resv != 0
          s.afterHold "DISTRIBUTOR_TAKE_LAUNCH" (.dev c.id r.resv.toNat)
            (if reads then s.devFar c.id r.resv.toNat (4 * r.teams) .load else none) (fun s =>
            match (match pre with
              | some p => some p.resv
              | none => s.readResv c.id r) with
            | none => refuse s
            | some l =>
              let t := s.takeEntry c x.q
              let t1 := if reads then t.devTouch c.id r.resv.toNat (4 * r.teams) .load else t
              .next { t1 with launches := t1.launches ++ [{ Launch.fresh handle c.id x.q order r with resv := l }] }))

/-! ## Placement curves (R206) -/

/-- One level of the Hilbert curve after another: position and what is left of d. -/
def hilbertGo : Nat → Nat → Nat → Nat → Nat → Nat × Nat
  | 0, _, _, u, v => (u, v)
  | n + 1, s, t, u, v =>
    let rx := t / 2 % 2
    let ry := (t + rx) % 2
    let (u1, v1) :=
      if ry = 0 then
        let (a, b) := if rx = 1 then (s - 1 - u, s - 1 - v) else (u, v)
        (b, a)
      else (u, v)
    hilbertGo n (2 * s) (t / 4) (u1 + s * rx) (v1 + s * ry)

/-- Every second bit of a number, from bit 0. -/
def evenBits : Nat → Nat → Nat
  | 0, _ => 0
  | n + 1, d => d % 2 + 2 * evenBits n (d / 4)

/-- The position of d in a block of edge 2^k. -/
def curveAt (curve k d : Nat) : Nat × Nat :=
  let b := 2 ^ k
  match curve with
  | 0 => (d % b, d / b)
  | 1 => (if d / b % 2 = 1 then b - 1 - d % b else d % b, d / b)
  | 2 => (evenBits k d, evenBits k (d / 2))
  | _ => hilbertGo k 1 d 0 0

/-- A linear index (R84). -/
def LRec.lin (r : LRec) (x y z mb : Nat) : Nat := ((mb * r.nz + z) * r.ny + y) * r.nx + x

/-- Linear indices in curve order. -/
def LRec.curveOrder (r : LRec) : List Nat :=
  let b := 2 ^ r.blk
  (List.range r.nmb).flatMap (fun mb => (List.range r.nz).flatMap (fun z =>
    (List.range ((r.ny + b - 1) / b)).flatMap (fun by' => (List.range ((r.nx + b - 1) / b)).flatMap (fun bx =>
      (List.range (b * b)).filterMap (fun d =>
        let (u, v) := curveAt r.curve r.blk d
        let x := bx * b + u
        let y := by' * b + v
        if x < r.nx && y < r.ny then some (r.lin x y z mb) else none)))))

/-- The teams the distributor may dispatch next, in order (R207, R214). -/
def Launch.window (l : Launch) : List Nat :=
  if l.lrec.det then (if l.dispatched.length < l.lrec.teams then [l.dispatched.length] else [])
  else ((l.lrec.curveOrder).filter (fun t => !l.dispatched.contains t)).take 256

/-! ## Dependences (R203 to R205) -/

/-- Producer teams that team c of a consumer needs; none where its TABLE row is bad or cannot be read. -/
def State.needs (s : State) (l : Launch) (p : Launch) (c : Nat) : Option (List Nat) :=
  let r := l.lrec
  let pr := p.lrec
  let x := c % r.nx
  let y := c / r.nx % r.ny
  let z := c / (r.nx * r.ny) % r.nz
  let mb := c / (r.nx * r.ny * r.nz)
  let at1 (xs ys zs mbs : List Nat) : List Nat :=
    mbs.flatMap (fun m => zs.flatMap (fun z => ys.flatMap (fun y => xs.filterMap (fun x =>
      if x < pr.nx && y < pr.ny && z < pr.nz && m < pr.nmb then some (pr.lin x y z m) else none))))
  let near (a n : Nat) : List Nat := (List.range n).filter (fun b => decide (b ≤ a + r.radius) && decide (a ≤ b + r.radius))
  match r.dep with
  | 1 => some (at1 [x] [y] [z] [mb])
  | 2 => some (at1 (near x pr.nx) (near y pr.ny) [z] [mb])
  | 3 => some (at1 (List.range pr.nx) [y] [z] [mb])
  | 4 => some (at1 [x] (List.range pr.ny) [z] [mb])
  | 5 => some (List.range pr.teams)
  | 6 =>
    match s.devRead l.ctx (r.table.toNat + 64 * c) 64 with
    | none => none
    | some bs =>
      let ws := ((List.range 16).map (fun i => leNat ((bs.drop (4 * i)).take 4))).filter (fun w => w != 2 ^ 32 - 1)
      if ws.all (fun w => decide (w < pr.teams)) then some ws else none
  | _ => some []

/-- A producer team's bit is set (R204). -/
def State.bitOf (s : State) (p : Launch) (i : Nat) : Bool :=
  p.complete || (match s.devRead p.ctx (p.lrec.bitmap.toNat + i / 8) 1 with
    | some [b] => b.getLsbD (i % 8)
    | _ => false)

/-- Whether a team's dependences are met; none where its TABLE row stops the launch. -/
def State.depsMet (s : State) (l : Launch) (c : Nat) : Option Bool :=
  if l.lrec.dep = 0 then some true
  else
    match s.launch? l.lrec.depon.toNat with
    | none => some false
    | some p => (s.needs l p c).map (fun ts => ts.all (s.bitOf p))

/-! ## Fit (R87, R112, R170, R261) -/

/-- Teams that hold scratchpad on a core. -/
def State.teamsOn (s : State) (core : Nat) : List Team := s.teams.filter (fun t => t.core = core || (t.pair && t.core + 1 = core))

/-- Groups of a launch's team, as many as one core takes, fit a core beside what is resident there. -/
def State.fitsCore (s : State) (r : LRec) (n core : Nat) : Bool :=
  let here := s.groups.filter (fun g => g.core = core)
  decide (core < 384) && s.pkg.healthy.getLsbD (coreDie core) && !s.dieLost (coreDie core) && !s.pkg.badCores.contains core
    && decide (here.length + n ≤ 32) && decide ((here.map Group.f).sum + n * r.f ≤ 16384)
    && decide (s.poolUsed core + n * r.entries ≤ 16384) && decide ((here.map Group.units).sum + n * r.units ≤ 5184)
    && decide (((s.teamsOn core).map Team.k).sum + r.spad * 1024 ≤ 320 * 1024)
    && !(s.teamsOn core).any Team.pairchk && (!r.pairchk || (s.teamsOn core).isEmpty)
    && !s.saved.any (fun x => x.regpool && x.g.core == core)

/-- A team of a launch fits a core, or the pair that begins there. DEDUCED: log entry 25. -/
def State.fits (s : State) (r : LRec) (core : Nat) : Bool :=
  if r.pair then core % 2 == 0 && s.fitsCore r r.perCore core && s.fitsCore r (if r.pairchk then r.groups else r.groups - 16) (core + 1)
  else s.fitsCore r r.groups core

/-! ## Dispatch (R201, R205) -/

/-- Lines leave an L1 until it holds no more than the units left to it (R170): which lines stand in the units that a placed team
takes is not said, and while there is room for all of them none leaves. DESIGN CHOICE: log entry 42. -/
def State.l1Shrink (core : Nat) : Nat → State → State
  | 0, s => s
  | n + 1, s =>
    if (s.mem.l1.filter (fun l => l.core = core)).length ≤ s.l1Lines core then s else State.l1Shrink core n (s.l1Room core)
def State.l1Fit (s : State) (core : Nat) : State := State.l1Shrink core s.mem.l1.length s

/-- A group of a team at its start (R201). -/
def LRec.group (r : LRec) (key : GroupKey) (ctx core mb : Nat) (area : Nat) : Group :=
  let f := r.f
  let stride := (4 * r.priv * f + 4095) / 4096 * 4096
  let base := r.privbase.toNat + (area * r.groups + key.group) * stride
  let s := (List.range 64).map (fun n => r.args.getD n 0)
  Group.fresh key ctx core r
    ((List.range f).map (fun t => Thread.fresh (mb * r.m + t / r.w) (key.group * f + t) r.wide r.narrow))
    (Split.fresh (maskOf f (fun _ => true)) r.entry s (a15 base r.priv))

/-- The groups of a team on its core or cores, both copies of a check pair included. -/
def LRec.groupsOf (r : LRec) (key : TeamKey) (ctx core mb area : Nat) : List Group :=
  (List.range r.groups).flatMap (fun n =>
    let on := if r.pairchk || n < 16 then core else core + 1
    r.group ⟨key, n, false⟩ ctx on mb area :: (if r.pairchk then [r.group ⟨key, n, true⟩ ctx (core + 1) mb area] else []))

/-- A context's slice on a core begins where the context was not resident there (R209). -/
def State.startSlice (s : State) (ctx core : Nat) : State :=
  if s.groups.any (fun g => g.ctx = ctx && g.core = core) then s
  else s.modCtx ctx (fun c => { c with slices := insertKey c.slices core s.cycle })

/-- The lowest-numbered free private area (R201). -/
def Launch.freeArea (l : Launch) : Option Nat := (List.range l.lrec.pslots).find? (fun a => !l.areas.contains a)

/-- A team starts on a core. -/
def State.startTeam (s : State) (l : Launch) (lin core : Nat) (area : Option Nat) : State :=
  let r := l.lrec
  let key : TeamKey := ⟨l.handle, lin⟩
  let x := lin % r.nx
  let y := lin / r.nx % r.ny
  let z := lin / (r.nx * r.ny) % r.nz
  let mb := lin / (r.nx * r.ny * r.nz)
  let counts (i : Nat) : Nat := if r.resv = 0 then r.rescount else l.resv.getD i 0
  let t := { Team.fresh key l.ctx core r.pair r.pairchk (r.spad * 1024) x y z mb area with
    resCount := counts lin, resBase := if r.det then ((List.range lin).map counts).sum else 0 }
  let cores := if r.pair then [core, core + 1] else [core]
  let s1 := cores.foldl (fun s c => (s.startSlice l.ctx c).touch l.ctx (coreDie c)) s
  let s2 := { s1 with teams := s1.teams ++ [t] }
  let s3 := cores.foldl (fun s c => s.l1Fit c) s2
  let s4 := { s3 with groups := s3.groups ++ r.groupsOf key l.ctx core mb (area.getD 0) }
  let s5 := cores.foldl (fun s c => s.setMem (s.mem.acquire c l.ctx .dev false)) s4
  s5.putLaunch { l with dispatched := l.dispatched ++ [lin], areas := l.areas ++ area.toList }

/-- The first team of the window that goes on: its dependences are met, or its TABLE row stops the launch. -/
def State.firstGoing (s : State) (l : Launch) : Option (Nat × Bool) :=
  l.window.findSome? (fun c =>
    match s.depsMet l c with
    | none => some (c, false)
    | some true => some (c, true)
    | some false => none)

/-- The M-dies that the reading of a team's dependences reaches count as touched: its TABLE row and its producers' bitmap bytes
(R382). -/
def State.depTouch (s : State) (l : Launch) (c : Nat) : State :=
  match (if l.lrec.dep = 0 then none else s.launch? l.lrec.depon.toNat) with
  | none => s
  | some p =>
    let s1 := if l.lrec.dep = 6 then s.devTouch l.ctx (l.lrec.table.toNat + 64 * c) 64 .load else s
    if p.complete then s1
    else ((s.needs l p c).getD []).foldl (fun (s : State) i => s.devTouch p.ctx (p.lrec.bitmap.toNat + i / 8) 1 .load) s1

/-- TEAM_DISPATCH (R201 to R207, R214). -/
def execTeamDispatch (x : EvDispatch) (s : State) : Result :=
  match s.launch? x.handle with
  | none => notDue "TEAM_DISPATCH"
  | some l =>
    if l.allDispatched then notDue "TEAM_DISPATCH"
    else
      match s.firstGoing l with
      | none => notDue "TEAM_DISPATCH"
      | some (c, false) =>
        let va := l.lrec.table.toNat + 64 * c
        if c != x.team then notDue "TEAM_DISPATCH"
        else
          s.afterHold "TEAM_DISPATCH" (.dev l.ctx va) (if l.lrec.dep = 6 then s.devFar l.ctx va 64 .load else none) (fun s =>
            .next ((s.depTouch l c).putLaunch { l with tableBad := true }))
      | some (c, true) =>
        if c != x.team || !s.fits l.lrec x.core then notDue "TEAM_DISPATCH"
        else if l.lrec.priv = 0 then .next ((s.depTouch l c).startTeam l c x.core none)
        else
          match l.freeArea with
          | none => notDue "TEAM_DISPATCH"
          | some a => .next ((s.depTouch l c).startTeam l c x.core (some a))

/-! ## The completion bitmap (R161, R204) -/

/-- The group of a team, resident or saved. -/
def State.anyGroup (s : State) (k : GroupKey) : Option Group :=
  match s.group? k with
  | some g => some g
  | none => (s.saved.find? (fun x => x.g.key = k)).map Saved.g

/-- For each thread of a group, the number below which its operations count: all of them where it has ended, those
before its TDONE where it is done; none where it is neither, and is not parked. -/
def State.doneBefore (s : State) (k : GroupKey) (t : Nat) : Option Nat :=
  match (s.anyGroup k).bind (fun g => g.threads[t]?) with
  | none => some s.sched.nextId
  | some th =>
    match th.done with
    | some n => some n
    | none => if th.exited || th.parked then some s.sched.nextId else none

/-- The conditions of R161 hold for one group of f threads. -/
def State.groupDone (s : State) (k : GroupKey) (f : Nat) : Bool :=
  (List.range f).all (fun t =>
    match s.doneBefore k t with
    | none => false
    | some n =>
      s.earlierMet k (BitVec.twoPow 512 t) n .dev
        && s.ops.remote.all (fun o => !(o.g = k && decide (o.id < n) && o.mask.getLsbD t))
        && s.ops.copies.all (fun o => !(o.g = k && decide (o.id < n) && o.threads.getLsbD t))
        && s.ops.colls.all (fun o => !(o.g = k && decide (o.id < n) && o.threads.getLsbD t))
        && s.mtx.ops.all (fun o => !(o.g = k && decide (o.id < n) && o.threads.getLsbD t)))

/-- TEAM_BITMAP_SET (R161, R204): where the byte cannot be written the bit counts as set once the launch completes. DEDUCED: log entry 25. -/
def execTeamBitmapSet (x : EvTeam) (s : State) : Result :=
  match s.team? x.t, s.launch? x.t.launch with
  | some t, some l =>
    if t.bitSet || l.lrec.bitmap = 0 || !(List.range l.lrec.groups).all (fun n => s.groupDone ⟨x.t, n, false⟩ l.lrec.f) then
      notDue "TEAM_BITMAP_SET"
    else
      let va := l.lrec.bitmap.toNat + x.t.team / 8
      s.afterHold "TEAM_BITMAP_SET" (.dev l.ctx va) (s.devFar l.ctx va 1 .load) (fun s =>
        let s1 := (s.putTeam { t with bitSet := true }).devTouch l.ctx va 1 .load
        match s.devRead l.ctx va 1 with
        | some [b] => .next ((s1.devStore l.ctx va [b ||| BitVec.twoPow 8 (x.t.team % 8)]).endTeam x.t)
        | _ => .next (s1.endTeam x.t))
  | _, _ => notDue "TEAM_BITMAP_SET"

end Sys2Proof.Machine
end

