-- ==== Sys2Proof/Machine/Fetch.lean ====
section
/-! DEFINITION. Which instruction comes next: the slot of a split's fetched clause (spec/01_instruction_word.md
R14, R28, R33), the micro-word of the drain element in progress (spec/16_matrix_and_drain_instructions.md R320),
and a word placed where the next step fetches it. -/

namespace Sys2Proof.Machine

/-- What decoding a split's slot knows (R25, R138). -/
def Split.decodeEnv (p : Split) : DecodeEnv := ⟨p.header.extractLsb' 12 4, p.header.extractLsb' 16 4, p.slot == 1⟩

/-- The instruction in a split's current slot. -/
def Split.instr (p : Split) : Except DecodeFault Instr := decode p.decodeEnv p.word (p.code.getD p.slot 0)

/-- The split is in ISSUING (R97). -/
def Split.issuing (p : Split) : Bool :=
  match p.st with
  | .issuing => true
  | _ => false

/-- The micro-word of the element in progress. -/
def Matrix.runWord (m : Matrix) (r : DrainRun) : BitVec 32 :=
  match m.slots.find? (fun d => d.cluster = r.cluster && d.n = r.slot) with
  | some d => d.words.getD r.pc 0
  | none => 0

/-- A group of sixteen threads whose one split issues a word next. DEDUCED: log entry 1. -/
def placedGroup (w : Word64) : Group :=
  Group.fresh ⟨⟨0, 0⟩, 0, false⟩ 0 0 LRec.zero ((List.range 16).map (fun t => Thread.fresh 0 t 0 0))
    { Split.fresh (maskOf 16 (fun _ => true)) 0 (List.replicate 64 0) (a15 0 0) with
        st := .issuing, header := 0x210000#64, code := [w, 0], region := some 0 }

/-- A clause in its buffer whose slot 1 holds a word, with a group of one split that issues it next: COUNT 2 (a
literal of zero may follow), set-flags f0 and f1, a context, a launch and a team for the group. DEDUCED: log entry 1. -/
def State.placeSlot (s : State) (w : Word64) : State :=
  { s with
    sched := { s.sched with schedule := [], issue := [⟨⟨⟨0, 0⟩, 0, false⟩, 0⟩], cur := none }
    groups := [placedGroup w]
    teams := [Team.fresh ⟨0, 0⟩ 0 0 false false 0 0 0 0 0 none]
    launches := [Launch.fresh 0 0 0 0 LRec.zero]
    ctxs := [Context.fresh 0]
    mtx := { s.mtx with run := none } }

/-- A drain element in progress whose next micro-word is given. DEDUCED: log entry 1. -/
def State.placeMicro (s : State) (w : BitVec 32) : State :=
  s.setMtx { s.mtx with
    slots := [⟨0, 0, true, 1, some 0, [w]⟩]
    run := some { cluster := 0, op := 0, octet := 0, elem := 0, slot := 0, d := List.replicate 8 0, pc := 0, effs := []
                  fl := 0, met := none, first := none } }

end Sys2Proof.Machine
end

