-- ==== Sys2Proof/Machine/Home.lean ====
section
/-! DEFINITION. Accesses at their homes, at atomic units and at peers, and their answers
(spec/08_memory_hierarchy.md R166 to R195; spec/10_atomic_fence_remote_instructions.md R218 to R231;
spec/05_registers_private_memory_traps.md R119, R125, R400; spec/12_consistency_model.md R246, R258). -/

namespace Sys2Proof.Machine

/-! ## When a piece may be performed -/

/-- An operation that a later access of its thread must not pass. -/
def MemOp.orders (o : MemOp) : Bool :=
  match o.kind with
  | .pref _ => false
  | _ => true

/-- Two pieces of an instruction take the same bytes of a page without members of its own. -/
def Piece.alike (p q : Piece) : Bool := !p.attr.pm && !q.attr.pm && q.pa == p.pa && q.size == p.size

/-- Threads of one load that address the same bytes of a page without members of its own are served by one access (R183); on an
SC page, where a thread's parts are one access, every part must be alike (R258). -/
def MemOp.twins (o : MemOp) (p q : Piece) : Bool :=
  (o.kind == .load || o.kind == .ldra) && p.alike q && ((!p.attr.sc && !q.attr.sc) || (p.attr.sc && q.attr.sc &&
    (let mine := sortBy Piece.at0 (o.pieces.filter (fun r => r.thread = p.thread))
     let other := sortBy Piece.at0 (o.pieces.filter (fun r => r.thread = q.thread))
     mine.length == other.length && (mine.zip other).all (fun e => e.1.alike e.2))))

/-- The lowest thread that a piece's access serves. -/
def MemOp.lead (o : MemOp) (p : Piece) : Nat :=
  (o.pieces.filter (fun q => q.open' && o.twins p q)).foldl (fun n q => min n q.thread) p.thread

/-- An access that must come first is still open: an earlier one of the thread on some of the bytes, or on an SC page as
this one is; a lower-numbered thread's of the same instruction, where it stores the bytes or both are SC; a store that its core has
performed, which an earlier one is for any later access, and any one is for a store the core has not performed yet (R78, R188,
R218, R246, R249, R258). -/
def State.homeWaits (s : State) (o : MemOp) (p : Piece) : Bool :=
  s.ops.mem.any (fun q =>
    q.orders && q.pieces.any (fun r => r.open' &&
      (let meet := meetsRange p.pa p.size r.pa r.size
       let sc := p.attr.sc && r.attr.sc
       (q.g = o.g && decide (q.id < o.id) && r.thread == p.thread && (meet || sc))
        || (q.id = o.id && decide (r.thread < o.lead p) && (sc || (meet && o.kind == .store)))
        || (q.id != o.id && q.core = o.core && q.kind == .store && !q.late && (decide (q.id < o.id) || (o.kind == .store && o.late)) && meet))))

/-- A piece may be performed: it is on its way with its request entry, and nothing of R218, R246, R247 or R258 holds it back. -/
def State.homeDue (s : State) (o : MemOp) (p : Piece) : Bool :=
  p.st = .todo && s.passIssued o (passOf p.thread) && !(o.reads && s.fenceHolds o.g p.thread o.id (!isRemote p.pa)) && !s.acquireHolds o.g p.thread o.id && (o.args.isEmpty && o.kind != .store || !s.releaseHolds o.g p.thread o.id)
    && !s.homeWaits o p

/-! ## Bytes at a place -/

/-- What an access meets at its place: bytes, a cause, or an answer that does not fit it. -/
inductive Met
  | bytes (bs : List Byte)
  | refused (code : BitVec 8)
  | unfit
  deriving DecidableEq, Repr

/-- A peer's answer to a request for n bytes. -/
def metOf (r : PeerReply) (n : Nat) : Met :=
  match r with
  | .data bs => if bs.length = n then .bytes bs else .unfit
  | .fault c => if c = cREMOTE_WINDOW || c = cMEM_UNCORRECTABLE || c = cENDPOINT_DOWN then .refused c else .unfit

/-- A read at its place: the home here, a register, or the peer. -/
def State.readAt (s : State) (pa n : Nat) (key : BitVec 10) (reply : PeerReply) (bad : Bool) : Met :=
  if s.elsewhere pa then metOf reply n
  else if isDevReg pa then .bytes (s.regBytes pa n)
  else
    match s.placeOf pa n key .read with
    | none => .refused cREMOTE_WINDOW
    | some (a, k) =>
      match (if bad && isHbm a then none else s.homeRead a n k) with
      | some bs => .bytes bs
      | none => .refused cMEM_UNCORRECTABLE

/-- A write at its place, with the tag it leaves (R220); none of a peer's bytes are here. -/
def State.writeAt (s : State) (ctx pa : Nat) (bs : List Byte) (key : BitVec 10) (tag : Option Nat) : State :=
  if s.elsewhere pa then s
  else if isDevReg pa then s.regStore pa bs
  else
    match s.placeOf pa bs.length key .write with
    | none => s
    | some (a, k) =>
      if isRemote pa then (s.homeSeen ctx 0 a bs.length normalAttr).homeWrite a bs k none else s.homeWrite a bs k tag

/-! ## A line leaves a home L2 (R175, R176, R187, R220) -/

/-- The granules of a line that a mask names. -/
def granulesOf (line : Nat) (m : BitVec 2) : List Nat :=
  (if m.getLsbD 0 then [2 * line] else []) ++ (if m.getLsbD 1 then [2 * line + 1] else [])

/-- The line that leaves a home L2 for an access, where it is the one the home chooses: a write-back that fails poisons the
granules it wrote. None where it is not, or has nothing to write back. DEDUCED: log entry 18. -/
def State.evictLine (s : State) (e : Option LineEvict) (line : Nat) (cls : BitVec 2) (ways : BitVec 8) : Option State :=
  match e with
  | none => some s
  | some e =>
    match s.mem.hl2.any (fun h => h.line = line), (s.homeSlot line cls ways).bind Prod.snd with
    | false, some v =>
      if v.line ≠ e.line || (e.poison && v.dirty == 0#2) then none
      else some (s.setMem { s.mem with poison := if e.poison then (granulesOf e.line v.dirty).foldl addOnce s.mem.poison else s.mem.poison })
    | _, _ => none

/-! ## HOME_ACCESS (R246, R247) -/

/-- One piece of an operation changed. -/
def MemOp.setPiece (o : MemOp) (n : Nat) (p : Piece) : MemOp := { o with pieces := o.pieces.set n p }

/-- The tag an ordered store or atomic leaves (R220). -/
def MemOp.tag (o : MemOp) : Option Nat := if o.rel && (o.scope == .grp || o.scope == .team) then some o.core else none

/-- A line of a remote frame that a load may allocate (R177): its class and page allow it, and the access does not bypass
the RDC (R219, R229). -/
def MemOp.rdcAllocates (o : MemOp) (p : Piece) : Bool :=
  isRemote p.pa && !p.attr.sc && p.attr.cls != 1#2 && !o.acq && o.kind != .ldra

/-- The bytes of a line of this device reached by its own remote frame, where one window admits all of it. -/
def State.ownLine (s : State) (pa : Nat) : Option (List Byte) :=
  match s.frameAddr (frameOff pa / 128 * 128) 128 .read with
  | some (a, k) => s.homeRead a 128 k
  | none => none

/-- The RDC takes a line, with the stores the base die's cores have sent to it laid over it (R177); what atomics and ordered
stores still under way write is read at the peer. DEDUCED: log entry 18. -/
def State.rdcTake (s : State) (core ctx pa : Nat) (bs : List Byte) : State :=
  let base := pa / 128 * 128
  let mine := (s.ops.mem.filter (fun o => coreBase o.core = coreBase core && o.ctx = ctx && o.kind == .store && !o.late)).flatMap (fun o =>
    o.pieces.filter Piece.open')
  let past := (s.ops.mem.filter (fun o => coreBase o.core = coreBase core && o.ctx = ctx && (!o.args.isEmpty || (o.kind == .store && o.rel)))).flatMap
    (fun o => o.pieces.filter Piece.open')
  s.rdcFill (coreBase core) ctx (pa / 128) (mine.foldl (fun acc p => overlay base acc p.pa p.data) bs)
    (past.foldl (fun m p => m ||| skipBits (pa / 128) p.pa p.size) 0#128)

/-- A load piece meets its bytes: from a private line of its core's L1, from the RDC's line being filled, or at its place; a
line that holds a poisoned granule fills no RDC, and the piece is read alone (R176). -/
def State.loadPiece (s : State) (o : MemOp) (p : Piece) (reply : PeerReply) (bad : Bool) : Met × State :=
  let l1 := if p.cacheable && o.kind != .ldra then (s.mem.l1? o.core o.ctx (p.pa / 128)).filter L1Line.priv else none
  match l1 with
  | some l => (if l.bad then .refused cMEM_UNCORRECTABLE else .bytes (lineSlice l.data p.pa p.size), s)
  | none =>
    if o.rdcAllocates p && (s.mem.rdc? (coreBase o.core) o.ctx (p.pa / 128)).isNone then
      let line : Met := if s.elsewhere p.pa then metOf reply 128 else
        match s.ownLine p.pa with
        | some bs => .bytes bs
        | none => .unfit
      match line with
      | .bytes bs => (.bytes (lineSlice bs p.pa p.size), s.rdcTake o.core o.ctx p.pa bs)
      | _ => (s.readAt p.pa p.size p.attr.key reply bad, s)
    else
      let met := s.readAt p.pa p.size p.attr.key reply bad
      let fill : Bool := match met with
        | .bytes _ => p.cacheable && o.kind != .ldra && s.lineSound p.pa && !s.atomicPending o.core (p.pa / 128 * 128) 128
        | _ => false
      (met, if fill then s.l1Fill o.core o.ctx p o.priv else s)

/-- A prefetched piece: its line is brought to the level asked, where it may stand there (R75, R76). -/
def State.prefPiece (s : State) (o : MemOp) (p : Piece) (l1 : Bool) (reply : PeerReply) : State :=
  if isRemote p.pa then
    if o.rdcAllocates p then
      match (if s.elsewhere p.pa then metOf reply 128 else ((s.ownLine p.pa).map Met.bytes).getD .unfit) with
      | .bytes bs => s.rdcTake o.core o.ctx p.pa bs
      | _ => s
    else s
  else if l1 && p.cacheable && s.lineSound p.pa && !s.atomicPending o.core (p.pa / 128 * 128) 128 then
    s.l1Fill o.core o.ctx p o.priv
  else s

/-- The thread's other pieces would be refused where they go (R189: a thread performs all of its pieces or none). -/
def State.threadRefused (s : State) (o : MemOp) (t : Nat) : Option (BitVec 8) :=
  (o.pieces.filter (fun p => p.thread = t && p.open')).findSome? (fun p => s.writeRefused p.pa p.size p.attr.key)

/-- A store piece is performed for its core, where it waited, and at its home. -/
def State.storePiece (s : State) (o : MemOp) (p : Piece) (reply : PeerReply) : Met × State :=
  let (s1, q) := if o.late then s.storeNow o.core o.ctx o.priv o.rel p else (s, p)
  if q.st = .done then (.bytes [], s1)
  else if s.elsewhere p.pa then (metOf reply 0, s1)
  else
    match s.threadRefused o p.thread with
    | some c => (.refused c, s)
    | none => (.bytes [], s1.writeAt o.ctx p.pa p.data p.attr.key o.tag)

/-- An operation that leaves nothing behind goes when its last piece is closed: a prefetch. -/
def State.endPref (s : State) (o : MemOp) : State :=
  match o.kind with
  | .pref _ => if o.pieces.any Piece.open' then s else s.dropMemOp o.id
  | _ => s

/-- An LDRA's line names a core: a flush is sent to it (R229). -/
def State.noteFlush (s : State) (o : MemOp) (p : Piece) : MemOp :=
  match o.kind, (if s.elsewhere p.pa then none else s.placeOf p.pa p.size p.attr.key .read) with
  | .ldra, some (a, _) =>
    (match s.mem.tag? (a / 128) with
     | some c => { o with flush := addOnce o.flush (c, a / 128) }
     | none => o)
  | _, _ => o

/-- A piece and what its place has answered. -/
def Piece.closed (p : Piece) (store : Bool) (m : Met) : Option Piece :=
  match m with
  | .bytes bs => some { p with st := .done, data := if store then p.data else bs }
  | .refused c => some { p with st := .bad c }
  | .unfit => none

/-- A piece reaches its home: its line stands in the home L2 from then on (R175); a prefetch that keeps nothing reads nothing. -/
def State.pieceSeen (s : State) (o : MemOp) (p : Piece) : State :=
  if isRemote p.pa then
    match o.kind with
    | .store => s
    | .pref _ => if o.rdcAllocates p then s.frameSeen o.ctx p.pa p.size .read else s
    | _ => s.frameSeen o.ctx p.pa p.size .read
  else s.homeSeen o.ctx p.va p.pa p.size p.attr

/-- One piece meets its place. -/
def State.piecePerform (s : State) (o : MemOp) (p : Piece) (reply : PeerReply) (bad : Bool) : Met × State :=
  let s0 := s.pieceSeen o p
  match o.kind with
  | .store => s0.storePiece o p reply
  | .pref l1 => (.bytes [], s0.prefPiece o p l1 reply)
  | _ => s0.loadPiece o p reply bad

/-- The parts of a thread's SC access that a piece is one of, or the piece alone. -/
def MemOp.parts (o : MemOp) (n : Nat) (p : Piece) : List (Nat × Piece) :=
  (o.pieces.mapIdx (fun i q => (i, q))).filter (fun e => e.1 = n || (e.2.open' && p.attr.sc && e.2.attr.sc && e.2.thread = p.thread))

/-- The open pieces that are performed together with one (R183, R258): the parts of its thread's access, and their twins. -/
def MemOp.together (o : MemOp) (n : Nat) (p : Piece) : List (Nat × Piece) :=
  let mine := o.parts n p
  (o.pieces.mapIdx (fun i q => (i, q))).filter (fun e => mine.contains e || (e.2.open' && mine.any (fun x => o.twins x.2 e.2)))

/-- The part of a peer's answer that belongs to one of the pieces it answers. -/
def replyPart (r : PeerReply) (off n : Nat) : PeerReply :=
  match r with
  | .data bs => .data ((bs.drop off).take n)
  | .fault c => .fault c

/-- Bytes of a peer's answer to a piece. -/
def MemOp.answerLen (o : MemOp) (p : Piece) : Nat := if o.kind == .store then 0 else p.size

/-- The parts of one thread's SC access, one after another at one instant; the peer's answer holds the bytes of all of them. -/
def State.scPerform (s : State) (o : MemOp) (reply : PeerReply) (bad : Bool) :
    Nat → List (Nat × Piece) → Option (List (Nat × Piece) × State)
  | off, [] => if (match reply with
      | .data bs => decide (bs.length = off)
      | .fault _ => true) then some ([], s) else none
  | off, (n, p) :: rest =>
    let (met, s1) := s.piecePerform o p (replyPart reply off (o.answerLen p)) bad
    match p.closed (o.kind == .store) met with
    | none => none
    | some q =>
      match s1.scPerform o reply bad (if s.elsewhere p.pa then off + o.answerLen p else off) rest with
      | none => none
      | some (more, s2) => some ((n, q) :: more, s2)

/-- An operation with some of its pieces closed; a granule whose last byte a store wrote with them is sound again (R176). -/
def State.closePieces (s : State) (o : MemOp) (qs : List (Nat × Piece)) : State :=
  let o1 := { qs.foldl (fun (o : MemOp) e => o.setPiece e.1 e.2) o with heldAt := none, retries := 0 }
  let s1 := if o.kind == .store then s.cleanse (qs.map Prod.snd) o1.pieces else s
  (s1.putMemOp o1).endPref o1

/-- A piece reaches its place, with those performed together with it: what its thread's parts met, their twins meet. -/
def State.reachHome (s : State) (o : MemOp) (n : Nat) (p : Piece) (reply : PeerReply) (bad : Bool) : Option State :=
  let all := o.together n p
  let mine := o.parts n p
  if p.attr.sc && 1 < mine.length then
    (s.scPerform o (if s.elsewhere p.pa then reply else .data []) bad 0 mine).map (fun r =>
      r.2.closePieces (mine.foldl (fun o e => s.noteFlush o e.2) o) (all.map (fun e =>
        match r.1.find? (fun q => q.1 = e.1), r.1.find? (fun q => q.2.alike e.2) with
        | some q, _ => q
        | none, some q => (e.1, { e.2 with st := q.2.st, data := q.2.data })
        | none, none => e)))
  else
    let (met, s1) := s.piecePerform o p reply bad
    (p.closed (o.kind == .store) met).map (fun q =>
      s1.closePieces (s.noteFlush o p) (all.map (fun e => (e.1, { e.2 with st := q.st, data := q.data }))))

/-- HOME_ACCESS: one piece is performed at its home or peer; or it is evicted on its way (R192), or held for a peer that is
not reached (R375). -/
def execHomeAccess (x : EvHome) (s : State) : Result :=
  match s.memOp? x.op with
  | none => notDue "HOME_ACCESS"
  | some o =>
    match o.pieces[x.piece]? with
    | none => notDue "HOME_ACCESS"
    | some p =>
      let mine := match o.kind with
        | .load => true
        | .pref _ => true
        | .store => true
        | .ldra => true
        | _ => false
      let all := o.together x.piece p
      if !mine || !all.all (fun e => s.homeDue o e.2) then notDue "HOME_ACCESS"
      else if x.dropped then
        dueIf "HOME_ACCESS" (decide (p.drops < 3) && o.kind != .ldra)
          (s.putMemOp (all.foldl (fun (o : MemOp) e => o.setPiece e.1 { e.2 with st := .lost, drops := p.drops + 1 }) o))
      else if isRemote p.pa && !s.reachable (frameDev p.pa) then
        dueIf "HOME_ACCESS" o.heldAt.isNone (s.putMemOp { o with heldAt := some s.cycle })
      else
        let (cls, ways) := s.homeClass o.ctx p.va p.attr
        match (s.evictLine x.evict (p.pa / 128) cls ways).bind (fun s1 => s1.reachHome o x.piece p x.reply x.bad) with
        | none => notDue "HOME_ACCESS"
        | some s2 => .next s2

/-- PACKET_RESEND (R192): the source sends what was evicted once more. -/
def execPacketResend (x : EvOp) (s : State) : Result :=
  match s.memOp? x.op with
  | none => notDue "PACKET_RESEND"
  | some o =>
    dueIf "PACKET_RESEND" (o.pieces.any (fun p => p.st = .lost))
      (s.putMemOp { o with pieces := o.pieces.map (fun p => if p.st = .lost then { p with st := .todo } else p) })

/-- A line's tag is emptied, where it still names the core whose flush was answered. -/
def State.untag (s : State) (line core : Nat) : State := s.setMem (if s.mem.tag? line = some core then s.mem.setTag line none else s.mem)

/-- LDRA_FLUSH (R229): the core named answers once its stores and atomics are acknowledged, and the tag is emptied; a peer's LDRA
is answered with the bytes read. -/
def execLdraFlush (x : EvOp) (s : State) : Result :=
  match s.memOp? x.op with
  | none =>
    (match s.isl.ldras.find? (fun e => e.id = x.op) with
     | none => notDue "LDRA_FLUSH"
     | some e =>
       dueIf "LDRA_FLUSH" (s.flushReady e.core)
         (((s.untag e.line e.core).setIsl { s.isl with ldras := s.isl.ldras.filter (fun y => y.id ≠ e.id) }).sendPacket e.src 1 0 0
           (.reply e.id (.data e.bytes))))
  | some o =>
    match o.flush with
    | [] => notDue "LDRA_FLUSH"
    | (core, line) :: rest =>
      dueIf "LDRA_FLUSH" (s.flushReady core)
        ((s.putMemOp { o with flush := rest }).untag line core)

/-! ## ATOMIC_UNIT_OPERATION (R223, R224, R271) -/

/-- The lowest thread whose operation is still to be performed, and its pieces. -/
def MemOp.nextAtomic (o : MemOp) : Option (Nat × List Piece) :=
  match (o.args.map AtomArg.thread).find? (fun t => o.pieces.any (fun p => p.thread = t && p.open')) with
  | none => none
  | some t => some (t, o.pieces.filter (fun p => p.thread = t))

/-- What an atomic unit makes of a location's bytes for one thread: the new bytes and the flags raised. -/
def MemOp.atomResult (o : MemOp) (arg : AtomArg) (old : List Byte) : List Byte × BitVec 5 :=
  match o.kind with
  | .redla wide value =>
    let m := Image.ofNat wide (leNat old)
    let r := match arg.img, value with
      | some img, _ => (m.merge img, 0#5)
      | none, some f => m.take ((fmtOf f).unpack (arg.b.toNat % 2 ^ (fmtOf f).width))
      | none, none => (m, 0#5)
    (leBytes (imageBytes wide) r.1.toNat, 0)
  | .atomic op wide returns =>
    let r := atomNew op wide (BitVec.ofNat 64 (leNat old)) arg.b arg.c
    (leBytes (atomBytes wide) r.1.toNat, if returns then r.2 else 0)
  | _ => (old, 0)

/-- The pieces of one thread closed: done with the old bytes, or refused. -/
def MemOp.closeThread (o : MemOp) (t : Nat) (m : Met) : MemOp :=
  { o with pieces := o.pieces.map (fun p =>
      if p.thread = t then
        match m with
        | .bytes bs => { p with st := .done, data := (bs.drop p.at0).take p.size }
        | .refused c => { p with st := .bad c }
        | .unfit => p
      else p) }

/-- The flags a thread's FADD raises (R223), in both copies of a check pair. -/
def State.raiseFlags (s : State) (k : GroupKey) (t : Nat) (fl : BitVec 5) : State :=
  s.bothCopies k (fun g => g.mapThreads (fun u th => if u = t then th.raise fl else th))

/-- What a refused store or atomic raises for its group (R400): the cause, and the address of the lowest thread that met
it. DEDUCED: log entry 17. -/
def MemOp.asyncOf (o : MemOp) : Option (BitVec 8 × Word64) :=
  let bads := sortBy Piece.thread (o.pieces.filter (fun p => match p.st with
    | .bad _ => true
    | _ => false))
  match bads with
  | [] => none
  | p :: _ =>
    match p.st with
    | .bad c =>
      some (c, BitVec.ofNat 64 (if c = cREMOTE_WINDOW then frameOff p.pa else if c = cENDPOINT_DOWN then frameDev p.pa else p.va))
    | _ => none

/-- The class A trap of an operation whose threads some of them were refused. -/
def State.raiseRefused (s : State) (o : MemOp) : State :=
  match o.asyncOf with
  | some (c, a) => s.raiseAsync o.g c a true
  | none => s

/-- An operation that returns nothing is performed: its flag counts down, and it goes (R18, R119). -/
def State.finishOp (s : State) (o : MemOp) : State :=
  (((s.raiseRefused o).dropMemOp o.id).flagDown o.g o.flag).afterPerform o.g

/-- An atomic that returns no value has performed every thread. -/
def State.endReduction (s : State) (o : MemOp) : State :=
  match o.kind with
  | .atomic _ _ true => s
  | _ => if o.pieces.any Piece.open' then s else s.finishOp o

/-- One thread's operation at its executor. -/
def State.atomStep (s : State) (o : MemOp) (t : Nat) (p : Piece) (reply : PeerReply) (bad : Bool) : Option State :=
  match o.args.find? (fun a => a.thread = t) with
  | none => none
  | some arg =>
    let close (s : State) (m : Met) : Option State :=
      let o1 := { o.closeThread t m with heldAt := none, retries := 0 }
      some ((s.putMemOp o1).endReduction o1)
    if s.elsewhere p.pa then
      let returns := match o.kind with
        | .atomic _ _ r => r
        | _ => false
      match metOf reply (if returns then o.width else 0) with
      | .unfit => none
      | .refused c => close s (.refused c)
      | .bytes bs =>
        let fl := if returns then (o.atomResult arg bs).2 else 0
        close (s.raiseFlags o.g t fl) (.bytes bs)
    else
      match (if isRemote p.pa then s.frameAddr (frameOff p.pa) o.width .atomic else some (p.pa, p.attr.key)) with
      | none => close s (.refused cREMOTE_WINDOW)
      | some (a, k) =>
        let s0 := s.homeSeen o.ctx (if isRemote p.pa then 0 else p.va) a o.width (if isRemote p.pa then normalAttr else p.attr)
        match (if isDevReg a then some (s.regBytes a o.width) else if bad && isHbm a then none else s.homeRead a o.width k) with
        | none => close s0 (.refused cMEM_UNCORRECTABLE)
        | some old =>
          let (new, fl) := o.atomResult arg old
          let s1 := if isDevReg a then s.regStore a new else s0.homeWrite a new k (if isRemote p.pa then none else o.tag)
          close (s1.raiseFlags o.g t fl) (.bytes old)

/-- ATOMIC_UNIT_OPERATION: the next thread's operation, threads ascending (R223). -/
def execAtomicUnitOperation (x : EvAtomic) (s : State) : Result :=
  match (s.memOp? x.op).bind (fun o => o.nextAtomic.map (fun n => (o, n))) with
  | some (o, t, p :: ps) =>
    if !(p :: ps).all (fun q => s.homeDue o q) then notDue "ATOMIC_UNIT_OPERATION"
    else if x.dropped then
      dueIf "ATOMIC_UNIT_OPERATION" (decide (p.drops < 3))
        (s.putMemOp { o with pieces := o.pieces.map (fun q =>
          if q.thread = t then { q with st := .lost, drops := q.drops + 1 } else q) })
    else if isRemote p.pa && !s.reachable (frameDev p.pa) then
      dueIf "ATOMIC_UNIT_OPERATION" o.heldAt.isNone (s.putMemOp { o with heldAt := some s.cycle })
    else
      match s.atomStep o t p x.reply x.bad with
      | none => notDue "ATOMIC_UNIT_OPERATION"
      | some s1 => .next s1
  | _ => notDue "ATOMIC_UNIT_OPERATION"

/-! ## Answers that arrive (R119, R218, R400) -/

/-- An ordered store whose open pieces lie on remote frames, none of them held back: the island accepts them (R218, R219). -/
def State.acceptable (s : State) (o : MemOp) : Bool :=
  o.kind == .store && o.rel && o.pieces.any Piece.open' && o.pieces.all (fun p => !p.open' || (isRemote p.pa && s.homeDue o p))

/-- The island accepts an ordered store's pieces: it is performed for its core, and counts down (R219). -/
def State.acceptStore (s : State) (o : MemOp) : State :=
  let s1 := (o.pieces.filter Piece.open').foldl (fun (s : State) p => (s.storeNow o.core o.ctx o.priv true p).1) s
  ((s1.putMemOp { o with late := false, rel := false, flag := none }).flagDown o.g o.flag).afterPerform o.g

/-- STORE_ACKNOWLEDGEMENT: every piece of a store has been performed, and the store counts down (R218); ST.REL to remote frames
counts down when the island has accepted it (R219). -/
def execStoreAcknowledgement (x : EvOp) (s : State) : Result :=
  match s.memOp? x.op with
  | none => notDue "STORE_ACKNOWLEDGEMENT"
  | some o =>
    if s.acceptable o then .next (s.acceptStore o)
    else dueIf "STORE_ACKNOWLEDGEMENT" (o.kind == .store && !o.pieces.any Piece.open') (s.finishOp o)

/-- A split's fault in both copies of a check pair (R109). -/
def State.trapBoth (s : State) (k : GroupKey) (sid : Nat) (i : TrapInfo) (entry : Option Word64) : State :=
  (s.takeTrap { k with shadow := false } sid i entry).takeTrap { k with shadow := true } sid i entry

/-- The split that takes a fault which a response brings: the one that issued, or the one that holds the lowest faulting
thread now. -/
def Group.faultSplit (g : Group) (sid : Nat) (t : Nat) : Option Split :=
  match g.split? sid with
  | some p => if p.mask.getLsbD t then some p else g.splits.find? (fun q => q.mask.getLsbD t || q.defer.any (fun d => d.mask.getLsbD t))
  | none => g.splits.find? (fun q => q.mask.getLsbD t || q.defer.any (fun d => d.mask.getLsbD t))

/-- A class T fault that a response brings (R125, R127): taken where a faulting thread lives; none while its split is stopped
by another split's handler, and, for an operation issued before it, while a handler runs (R128; log entry 36). -/
def State.lateFault (s : State) (k : GroupKey) (sid op : Nat) (i : TrapInfo) (entry : Option Word64) : Option State :=
  match s.group? { k with shadow := false } with
  | none => some s
  | some g =>
    match lowestThread g.f (i.mask &&& ~~~g.exitedMask) with
    | none => some s
    | some t =>
      match g.faultSplit sid t with
      | none => some s
      | some p =>
        if g.stopped p.sid || g.handler.any (fun h => decide (op < h.since)) then none else some (s.trapBoth k p.sid i entry)

/-- The faults a load's responses brought, by thread. -/
def MemOp.lateFaults (o : MemOp) : List ThrFault :=
  o.pieces.filterMap (fun p => match p.st with
    | .bad c =>
      some ⟨p.thread, c, BitVec.ofNat 64 (if c = cREMOTE_WINDOW then frameOff p.pa else if c = cENDPOINT_DOWN then frameDev p.pa else p.va), true, none⟩
    | _ => none)

/-- Threads of an operation that met no fault. -/
def MemOp.sound (o : MemOp) : Mask :=
  o.active &&& ~~~((o.pieces.filter (fun p => match p.st with
    | .bad _ => true
    | _ => false)).foldl (fun m p => m ||| BitVec.twoPow 512 p.thread) 0#512)

/-- The octets of an operation that still await their data; a result for the whole split or for shared registers awaits all
of it at its lowest octet. -/
def MemOp.octetsLeft (o : MemOp) : List Nat :=
  let all := (List.range 64).filter (fun n => (List.range 8).any (fun i => o.active.getLsbD (8 * n + i)) && !o.arrived.getLsbD n)
  match o.dest with
  | .s _ => all.take 1
  | .w _ _ => all.take 1
  | _ => all

/-- Every piece that an octet's result needs is closed. -/
def MemOp.octetReady (o : MemOp) (n : Nat) : Bool :=
  o.flush.isEmpty && o.pieces.all (fun p => !p.open' || (match o.dest with
    | .s _ => false
    | .w _ _ => false
    | _ => p.thread / 8 != n))

/-- An octet's data is written where it is awaited. -/
def State.deliverOctet (s : State) (o : MemOp) (n : Nat) : State :=
  s.arriveBoth o.g o.id o.dest n o.sound (fun t => loadVal o.signed o.width (threadBytes o.pieces t))

/-- The last octet has arrived: the acquire action, the flag, the points of the issue order, and the fault of R400. -/
def State.loadDone (s : State) (o : MemOp) : Option State :=
  let s1 := if o.acq && o.sound != 0#512 then s.acquire o.g o.core o.ctx o.scope else s
  let s2 := ((s1.dropMemOp o.id).flagDown o.g o.flag).afterPerform o.g
  match o.args, faultOf o.lateFaults .load (o.sound != 0#512) o.iaddr o.inst with
  | [], some i => if o.quiet then some s2 else s2.lateFault o.g o.sid o.id i o.region
  | [], none => some s2
  | _, _ => some (s2.raiseRefused o)

/-- A response, or a wake, of a request issued before the island left JOINED is discarded and counted (R374). -/
def State.orphaned (s : State) (op : Nat) (wake : Bool) : Option State :=
  if s.isl.orphans.any (fun o => o.id = op && o.wake == wake) then
    some (s.setIsl { s.isl with
      orphan := bump64 s.isl.orphan
      orphans := (s.isl.orphans.map (fun o => if o.id = op && o.wake == wake then { o with left := o.left - 1 } else o)).filter (fun o => o.left != 0) })
  else none

/-- VARIABLE_LATENCY_RESULT_ARRIVAL (R119): an octet's data of a load or of an atomic's old values; after a leave, any
response still to come (R374). -/
def execVariableLatencyResultArrival (x : EvArrival) (s : State) : Result :=
  match s.memOp? x.op with
  | none =>
    match s.orphaned x.op false with
    | some s1 => .next s1
    | none => notDue "VARIABLE_LATENCY_RESULT_ARRIVAL"
  | some o =>
    let mine := match o.kind with
      | .load => true
      | .ldra => true
      | .atomic _ _ r => r
      | _ => false
    if !mine || !o.octetsLeft.contains x.octet || !o.octetReady x.octet then notDue "VARIABLE_LATENCY_RESULT_ARRIVAL"
    else
      let s1 := s.deliverOctet o x.octet
      let o1 := { o with arrived := o.arrived ||| BitVec.twoPow 64 x.octet }
      let last := match o.dest with
        | .s _ => true
        | .w _ _ => true
        | _ => o1.octetsLeft.isEmpty
      if last then
        match s1.loadDone o1 with
        | some s2 => .next s2
        | none => notDue "VARIABLE_LATENCY_RESULT_ARRIVAL"
      else .next ((s1.putMemOp o1).bothCopies o.g Group.returnEntries)

/-! ## Monitors (R231) -/

/-- Entries a home slice's table holds. -/
def Mem.monitorRoom (m : Mem) (die : Nat) : Bool :=
  decide ((m.monitors.filter (fun e => e.die = die && !e.held)).length < 4096)

/-- The home slice of a watched location; one beyond this device's HBM is numbered apart. -/
def State.slice (s : State) (pa a : Nat) : Nat := if s.elsewhere pa then 1024 + frameDev pa else if isHbm a then homeDie a else 1000

/-- The fault of a WAITC that its location's place refuses. -/
def State.monitorFault (s : State) (o : MemOp) (p : Piece) (c : BitVec 8) : Option State :=
  let info := faultOf ({ o with pieces := [{ p with st := .bad c }] } : MemOp).lateFaults .load false o.iaddr o.inst
  match info with
  | none => none
  | some i => (s.dropMemOp o.id).lateFault o.g o.sid o.id { i with mask := o.active } o.region

/-- What a WAITC's place answers: completion, an entry, or a fault. -/
def State.monitorAnswer (s : State) (o : MemOp) (p : Piece) (cc : Sys2Proof.Cond) (nat : Bool) (b : Word64) (reply : PeerReply) : Option State :=
  match s.readAt p.pa p.size p.attr.key reply false with
  | .unfit => none
  | .refused c => s.monitorFault o p c
  | .bytes bs =>
    let (a, k) := (s.placeOf p.pa p.size p.attr.key .read).getD (p.pa, p.attr.key)
    let s1 := s.pieceSeen o p
    if monitorTrue cc nat b bs then some (s1.putMemOp { o with heldAt := none } |>.wake o.id)
    else
      let die := s.slice p.pa a
      let m : Monitor := { op := o.id, die := die, pa := a, size := p.size, cc := cc, nat := nat, b := b, slot := k
                           held := !(isHbm a && !s.elsewhere p.pa) || !s.mem.monitorRoom die, seen := s.cycle, peer := none }
      some ((s1.setMem { s1.mem with monitors := s1.mem.monitors ++ [m] }).putMemOp { o with heldAt := none })

/-- MONITOR_REGISTER: the request reaches its slice, which reads the location and registers an entry, or holds the request
while its table is full. DEDUCED: log entry 21. -/
def execMonitorRegister (x : EvMonitor) (s : State) : Result :=
  match s.memOp? x.op with
  | some o =>
    match o.kind, o.pieces with
    | .monitor cc nat b, [p] =>
      if s.mem.monitors.any (fun m => m.op = o.id) || !s.homeDue o p then notDue "MONITOR_REGISTER"
      else if isRemote p.pa && !s.reachable (frameDev p.pa) then
        dueIf "MONITOR_REGISTER" o.heldAt.isNone (s.putMemOp { o with heldAt := some s.cycle })
      else
        match s.monitorAnswer o p cc nat b x.reply with
        | some s1 => .next s1
        | none => notDue "MONITOR_REGISTER"
    | _, _ => notDue "MONITOR_REGISTER"
  | none => notDue "MONITOR_REGISTER"

/-- A held request is evaluated again and its condition does not hold: it takes an entry where one is free. -/
def State.recheck (s : State) (m : Monitor) : State :=
  let e : Monitor := { m with held := !(isHbm m.pa && decide (m.die < 1024) && s.mem.monitorRoom m.die), seen := s.cycle }
  s.setMem { s.mem with monitors := s.mem.monitors.map (fun x => if x.op = m.op then e else x) }

/-- A slice evaluates a held request every 2,048 cycles (R231); of one held at a peer, the answer comes when the peer sends it. -/
def State.recheckDue (s : State) (m : Monitor) : Bool := decide (1024 ≤ m.die) || decide (m.seen + 2048 ≤ s.cycle)

/-- MONITOR_RECHECK: a request its slice holds is evaluated again; it completes, or takes an entry that is free. At a peer
the answer is the peer's. DEDUCED: log entry 21. -/
def execMonitorRecheck (x : EvMonitor) (s : State) : Result :=
  match s.memOp? x.op, s.mem.monitors.find? (fun m => m.op = x.op && m.held) with
  | some o, some m =>
    match o.pieces with
    | [p] =>
      if !s.recheckDue m then notDue "MONITOR_RECHECK"
      else
      match s.readAt p.pa p.size p.attr.key x.reply false with
      | .bytes bs => .next (if monitorTrue m.cc m.nat m.b bs then s.wake o.id else s.recheck m)
      | .refused c =>
        let s1 := s.setMem { s.mem with monitors := s.mem.monitors.filter (fun e => e.op ≠ o.id) }
        match s1.monitorFault o p c with
        | some s2 => .next s2
        | none => notDue "MONITOR_RECHECK"
      | .unfit => notDue "MONITOR_RECHECK"
    | _ => notDue "MONITOR_RECHECK"
  | none, some m =>
    dueIf "MONITOR_RECHECK" (m.peer.isSome && s.recheckDue m)
      (if monitorTrue m.cc m.nat m.b (s.watched m) then s.wake m.op else s.recheck m)
  | _, _ =>
    match s.orphaned x.op true with
    | some s1 => .next s1
    | none => notDue "MONITOR_RECHECK"

/-! ## TABLE_WALK (R179, R181, R193) -/

/-- TABLE_WALK: a core's walk of a page, whose leaf it keeps; a read that meets an uncorrectable error leaves the entry it
read unreadable. -/
def execTableWalk (x : EvWalk) (s : State) : Result :=
  match s.ctx? x.ctx with
  | none => notDue "TABLE_WALK"
  | some c =>
    if 384 ≤ x.core || 2 ^ 57 ≤ x.va || (s.tlbFind x.core x.ctx x.va).isSome then notDue "TABLE_WALK"
    else
      let (lvl, table) := s.walkStart x.core x.ctx x.va c.root
      let reads := walkReads s x.va lvl table
      let s1 := s.touchWalk x.core x.ctx x.va
      if x.bad then
        match reads.getLast? with
        | some pa => .next (s1.setMem { s1.mem with poison := addOnce s1.mem.poison (pa / 64) })
        | none => notDue "TABLE_WALK"
      else .next (s1.tlbFill x.core x.ctx x.va).freshFree.2

/-! ## Peers that are not reached (R234, R375) -/

/-- REMOTE_RETRY_RESEND and RETRY_PERIOD_EXPIRY for an access on a remote frame: the pieces that wait for the peer. -/
def MemOp.heldPieces (o : MemOp) (s : State) : Bool := o.pieces.any (fun p => p.open' && isRemote p.pa && !s.reachable (frameDev p.pa))

/-- The pieces that waited are answered ENDPOINT_DOWN. -/
def MemOp.answerDown (o : MemOp) (s : State) : MemOp :=
  { o with heldAt := none, retries := 0, pieces := o.pieces.map (fun p =>
      if p.open' && isRemote p.pa && !s.reachable (frameDev p.pa) then { p with st := .bad cENDPOINT_DOWN } else p) }

/-- An operation on a remote frame whose retry period has passed. -/
def State.memDown (s : State) (o : MemOp) : Option State :=
  let o1 := o.answerDown s
  match o.kind, o.pieces with
  | .monitor _ _ _, [p] => s.monitorFault o p cENDPOINT_DOWN
  | .atomic _ _ true, _ => some (s.putMemOp o1)
  | .atomic _ _ false, _ => some ((s.putMemOp o1).endReduction o1)
  | .redla _ _, _ => some ((s.putMemOp o1).endReduction o1)
  | .pref _, _ => some ((s.putMemOp o1).endPref o1)
  | _, _ => some (s.putMemOp o1)

end Sys2Proof.Machine
end

