-- ==== Sys2Proof/Machine/Sync.lean ====
section
/-! DEFINITION. Barriers as they issue (spec/06_member_local_sync_instructions.md R154 to R159,
spec/07_ensemble_stencil.md R162). -/

namespace Sys2Proof.Machine

/-- The wait of R157 on a token is over. -/
def Barrier.reached (b : Barrier) (token : BitVec 32) : Bool := decide ((b.gen - token).toNat < 2 ^ 31)

/-- A generation a team's arrival counts toward. -/
def Team.token (t : Team) (n : Nat) : BitVec 32 := (t.bar n).gen + 1

/-- Arrivals of an issue counted toward a team's barrier, and the generation completed where they reach its count. -/
def State.countArrivals (s : State) (k : TeamKey) (n count explicit : Nat) : State :=
  let live := s.teamLive k
  let det := s.teamDet k
  s.modTeam k (fun t => (t.arrive n count explicit).tryComplete live det n)

/-- The acquire at the end of a wait on a generation (R157). DEDUCED: log entry 20. -/
def Iss.barAcquire (i : Iss) : Iss :=
  if i.k.shadow then i else { i with s := i.s.acquire i.opKey i.core i.g0.ctx .team }

/-- The count operand of a barrier instruction. -/
def Iss.countOf (i : Iss) (b : Src) : Nat := (i.uniSrc b).toNat

/-- A count above 16,384 is illegal (R155); an s register is read only where some thread is active (R67). DEDUCED: log entry 13. -/
def Iss.badCount (i : Iss) (b : Src) : Bool := (i.any || b.reg?.isNone) && 16384 < i.countOf b

/-- An arriving instruction (R155, R156): its count is checked, its release awaited, its arrivals counted once for a
check pair; what follows has the token. -/
def Iss.arriveThen (i : Iss) (bar : BitVec 4) (b : Src) (last : Bool) (k : Iss → BitVec 32 → Act) : Act :=
  let count := i.countOf b
  if i.badCount b then i.illegal
  else if !i.any then .ok i
  else if i.k.shadow then k i (BitVec.ofNat 32 (i.shared.headD 0))
  else if !i.released i.act .team then .stall 0 none
  else
    match i.team with
    | none => .ok i
    | some t =>
      let n := bar.toNat
      let tok := t.token n
      let hi := ((maskThreads i.g0.f i.splitLive).getLast?).getD 0
      let s1 := if last then i.s.modTeam i.k.team (fun t =>
          t.putBar n { t.bar n with lasts := (t.bar n).lasts ++ [⟨tok, i.k.group, i.sid, hi⟩] })
        else i.s
      k { i with s := s1.countArrivals i.k.team n i.threads.length count, shared := [tok.toNat] } tok

/-- What R108 compares of a barrier arrival. -/
def Iss.barItems (i : Iss) (bar : BitVec 4) (b : Src) : List (Nat × List Word64) :=
  i.threads.map (fun t => (t, [bar.setWidth 64, i.uniSrc b]))

/-- BAR.ARR (R156). -/
def execBarArr (x : BarD) (s : State) : Result :=
  runCore
    { view := x.view [.s]
      lit := x.b.isLit
      nonIdem := fun _ => true
      cmp := some fun i => i.barItems x.bar x.b
      whole := true
      body := fun i => i.arriveThen x.bar x.b false (fun j tok => .ok (j.writeS x.d (tok.setWidth 64))) } s

/-- A wait on a token (R157): over at once, or the split blocks; `arrived` is what the instruction itself has counted. -/
def Iss.waitToken (i : Iss) (bar : BitVec 4) (tok : BitVec 32) (arrived : Nat) : Act :=
  if (i.team.map (fun t => (t.bar bar.toNat).reached tok)).getD true then .ok i.barAcquire
  else .ok { i with flow := .block (.barrier bar.toNat tok arrived) }

/-- BAR.WAIT (R157). DEDUCED: log entry 20. -/
def execBarWait (x : BarWait) (s : State) : Result :=
  runCore { view := x.view, body := fun i => if i.any then i.waitToken x.bar ((i.uni x.a).setWidth 32) 0 else .ok i } s
/-- BAR.SYNC (R157). -/
def execBarSync (x : BarSync) (s : State) : Result :=
  runCore
    { view := x.view
      lit := x.b.isLit
      nonIdem := fun _ => true
      cmp := some fun i => i.barItems x.bar x.b
      whole := true
      body := fun i => i.arriveThen x.bar x.b false (fun j tok => j.waitToken x.bar tok j.threads.length) } s

/-- The arrival elected in a generation is this split's (R159). -/
def Barrier.elects (b : Barrier) (tok : BitVec 32) (group sid : Nat) : Bool :=
  b.elected.any (fun l => l.gen = tok && l.group = group && l.sid = sid)

/-- The result of BAR.LAST in the threads of a mask, and the election is over (R159). -/
def State.lastResult (s : State) (k : GroupKey) (sid bar : Nat) (tok : BitVec 32) (p : BitVec 3) (m : Mask) : State :=
  let won := ((s.team? k.team).map (fun t => (t.bar bar).elects tok k.group sid)).getD false
  s.modGroup k (fun g => g.mapThreads (fun t th => if m.getLsbD t then th.setPred p won else th))

/-- An election's winner has been told. -/
def State.dropElected (s : State) (k : GroupKey) (sid bar : Nat) (tok : BitVec 32) : State :=
  s.modTeam k.team (fun t => t.putBar bar { t.bar bar with
    elected := (t.bar bar).elected.filter (fun l => !(l.gen = tok && l.group = k.group && l.sid = sid)) })

/-- BAR.LAST (R159): it waits as BAR.SYNC does; a wait that is over at once writes its predicate with the issue. -/
def execBarLast (x : BarD) (s : State) : Result :=
  runCore
    { view := x.view [.p]
      lit := x.b.isLit
      nonIdem := fun _ => true
      cmp := some fun i => i.barItems x.bar x.b
      whole := true
      body := fun i => i.arriveThen x.bar x.b true (fun j tok =>
        match j.team with
        | none => .ok j
        | some t =>
          let b := t.bar x.bar.toNat
          if b.reached tok then
            let won := b.elects tok j.k.group j.sid
            let j1 := j.barAcquire.writeP x.d j.act (fun _ => won)
            .ok (if j.g0.pairchk && !j.k.shadow then j1 else { j1 with s := j1.s.dropElected j.k j.sid x.bar.toNat tok })
          else .ok { j with flow := .block (.barLast x.bar.toNat tok (BitVec.ofNat 3 x.d.num) j.act) }) } s

/-- The arrivals that a blocked split's instruction has counted toward a generation (R157, R159). -/
def Wait.counted (w : Wait) (f : Nat) : Option (Nat × BitVec 32 × Nat) :=
  match w with
  | .barrier n tok k => if k = 0 then none else some (n, tok, k)
  | .barLast n tok _ m => some (n, tok, (maskThreads f m).length)
  | _ => none

/-- An arrival of a generation that has not completed is taken back: its instruction counts as not issued (R97, R130). Where
no arrival is left, the generation has no E again. DEDUCED: log entry 16. -/
def Team.takeBack (t : Team) (n : Nat) (tok : BitVec 32) (count group sid : Nat) : Team :=
  let b := t.bar n
  let left := b.arr - count
  t.putBar n { b with
    arr := left
    exp := if left = 0 && !t.defers.any (fun d => d.bar = n && d.gen = tok) then .unset else b.exp
    lasts := b.lasts.filter (fun l => !(l.gen = tok && l.group = group && l.sid = sid)) }

/-- What a blocked split waits for has not come: its arrivals can still be taken back. -/
def State.undone (s : State) (g : Group) (w : Wait) : Bool :=
  match w.counted g.f with
  | some (n, tok, _) => ((s.team? g.key.team).map (fun t => !(t.bar n).reached tok)).getD true
  | none => true

/-- The arrivals of a blocked split taken back. -/
def State.takeBack (s : State) (g : Group) (sid : Nat) (w : Wait) : State :=
  match w.counted g.f with
  | some (n, tok, c) => s.modTeam g.key.team (fun t => t.takeBack n tok c g.key.group sid)
  | none => s

/-- A blocked instruction that ends the region of its split when its wait is over (R126, R130). -/
def Wait.endsRegion (w : Wait) : Bool :=
  match w with
  | .barrier _ _ k => k != 0
  | .barLast _ _ _ _ => true
  | .corral _ _ _ _ _ => true
  | _ => false

/-- Copies of a group under way on the channels of a mask (R158). -/
def State.copiesOn (s : State) (k : GroupKey) (chans : BitVec 8) : List Nat :=
  (s.ops.copies.filter (fun o => o.g = k && chans.getLsbD o.ch)).map CopyOp.id

/-- BAR.DEFER (R158, R162): the arrivals are registered with the operations they are bound to, or counted at once. -/
def execBarDefer (x : BarDefer) (s : State) : Result :=
  runCore
    { view := x.view
      lit := x.b.isLit
      nonIdem := fun _ => true
      cmp := some fun i => i.barItems x.bar x.b
      whole := true
      body := fun i =>
        let count := i.countOf x.b
        if i.badCount x.b then i.illegal
        else if !i.any then .ok i
        else if i.k.shadow then .ok (i.writeS x.d (BitVec.ofNat 64 (i.shared.headD 0)))
        else
          match i.team with
          | none => .ok i
          | some t =>
            let n := x.bar.toNat
            let tok := t.token n
            let ops := i.s.copiesOn i.opKey x.chans
            let j : Iss := { i with shared := [tok.toNat] }
            if ops.isEmpty && i.released i.act .team then
              .ok (({ j with s := j.s.countArrivals j.k.team n j.threads.length count } : Iss).writeS x.d (tok.setWidth 64))
            else
              let first := j.s.sched.nextId
              let ds := j.threads.mapIdx (fun a th => (⟨first + a, n, tok, j.opKey, th, ops⟩ : DeferredArr))
              let s1 := j.s.setSched { j.s.sched with nextId := first + ds.length }
              let s2 := s1.modTeam j.k.team (fun t => { t.arrive n 0 count with defers := t.defers ++ ds })
              .ok (({ j with s := s2 } : Iss).writeS x.d (tok.setWidth 64)) } s

end Sys2Proof.Machine
end

