-- ==== Sys2Proof/Machine/Tiles.lean ====
section
/-! DEFINITION. The save pool of a context (spec/09_scheduling_and_preemption.md R211), and the entries and tiles of a matrix engine
as its arbiter sees them (spec/18_matrix_engine_and_drain.md R334 to R337, R341, R342). -/

namespace Sys2Proof.Machine

/-! ## The save pool (R211) -/

/-- The lowest place of a context's save pool that takes a record. -/
def Context.findRoom (c : Context) (n : Nat) : Option Nat :=
  let starts := sortBy (fun a => a) (c.saveBase :: c.saves.map (fun e => (e.1 + e.2 + 63) / 64 * 64))
  starts.find? (fun a => decide (c.saveBase ≤ a) && decide (a + n ≤ c.saveBase + c.saveSize)
    && c.saves.all (fun e => decide (a + n ≤ e.1) || decide (e.1 + e.2 ≤ a)))

/-- The device writes a record to physical memory, under no key (R382 counts its pages' homes). -/
def State.poolWrite (s : State) (ctx pa : Nat) (bs : List Byte) : State :=
  let pages := List.range ((pa % 4096 + bs.length + 4095) / 4096)
  let s1 := pages.foldl (fun (s : State) i => s.touchPa ctx (pa / 4096 * 4096 + 4096 * i)) s
  (s1.setMem ((s1.mem.writeUnder none pa bs).unpoison pa bs.length)).checkMonitors pa bs.length

/-- Room for a record is taken and the record written; none where the pool cannot take it. -/
def State.poolSave (s : State) (ctx : Nat) (bs : List Byte) : Option (Nat × State) :=
  match (s.ctx? ctx).bind (fun c => c.findRoom bs.length) with
  | none => none
  | some a => some (a, (s.poolWrite ctx a bs).modCtx ctx (fun c => { c with saves := c.saves ++ [(a, bs.length)] }))

/-- The room of a record is free again. -/
def State.poolFreeAt (s : State) (ctx addr : Nat) : State :=
  s.modCtx ctx (fun c => { c with saves := c.saves.filter (fun e => e.1 ≠ addr) })

/-! ## The fields of the format block (R310) -/

def fbAfmt (w0 : Word64) : Nat := field w0 0 4
def fbBfmt (w0 : Word64) : Nat := field w0 4 4
def fbCfmt (w0 : Word64) : Nat := field w0 8 2
/-- L, the length of a scale block. -/
def fbLen (w0 : Word64) : Nat := 16 * 2 ^ field w0 10 2
def fbScaled (w0 : Word64) : Bool := bitAt w0 12
def fbSparse (w0 : Word64) : Bool := bitAt w0 13
def fbSat (w0 : Word64) : Bool := bitAt w0 14
def fbKpos (w0 : Word64) : Nat := field w0 16 3
def fbSlot (w0 : Word64) : Nat := field w0 20 6
def fbRowv (w0 : Word64) : Nat := field w0 32 16 * 16
def fbColv (w0 : Word64) : Nat := field w0 48 16 * 16
def fbScaleA (w1 : Word64) : Nat := field w1 0 16 * 16
def fbScaleB (w1 : Word64) : Nat := field w1 16 16 * 16
def fbMeta (w1 : Word64) : Nat := field w1 32 16 * 16
def fbAreg (w1 : Word64) : Nat := field w1 48 4
def fbVout (w1 : Word64) : Nat := field w1 52 8
def fbVen (w1 : Word64) : Bool := bitAt w1 60
def fbV64 (w1 : Word64) : Bool := bitAt w1 61

/-! ## The queue (R334 to R336) -/

def Matrix.op? (m : Matrix) (id : Nat) : Option MatOp := m.ops.find? (fun o => o.id = id)
def Matrix.putOp (m : Matrix) (o : MatOp) : Matrix := { m with ops := m.ops.map (fun p => if p.id = o.id then o else p) }
/-- The oldest operation of a cluster's queue that has not been performed; a shadow's goes with its primary's. -/
def Matrix.head? (m : Matrix) (cluster : Nat) : Option MatOp := m.ops.find? (fun o => o.cluster = cluster && !(o.g.shadow && o.mate.isSome))
/-- An operation and the other copy's. -/
def Matrix.withMate (m : Matrix) (o : MatOp) : List MatOp := o :: (o.mate.bind m.op?).toList

/-! ## The tile store (R341, R342) -/

/-- A tile no one has written. -/
def blankTile : List Word32 := List.replicate 256 0

def Matrix.tile? (m : Matrix) (k : GroupKey) (octet n : Nat) : Option Tile := m.tiles.find? (fun t => t.g = k && t.octet = octet && t.k = n)
/-- A tile's words; one never written reads as zero (R309). -/
def Matrix.tileWords (m : Matrix) (k : GroupKey) (octet n : Nat) : List Word32 := ((m.tile? k octet n).map Tile.words).getD blankTile
def Matrix.putTile (m : Matrix) (t : Tile) : Matrix :=
  { m with tiles := t :: m.tiles.filter (fun u => !(u.g = t.g && u.octet = t.octet && u.k = t.k)) }
/-- A tile is released, with its place in the save pool. -/
def State.releaseTile (s : State) (ctx : Nat) (k : GroupKey) (octet n : Nat) : State :=
  let rooms := ((s.mtx.tile? k octet n).bind Tile.spilled).toList
  (s.modCtx ctx (fun c => { c with saves := c.saves.filter (fun e => !rooms.contains e.1) })).setMtx
    { s.mtx with tiles := s.mtx.tiles.filter (fun u => !(u.g = k && u.octet = octet && u.k = n)) }

/-- Tiles in a cluster's store. -/
def Matrix.stored (m : Matrix) (cluster : Nat) : List Tile := m.tiles.filter (fun t => t.cluster = cluster && t.spilled.isNone)

/-- The tile that was used longest ago. DEDUCED: log entry 30. -/
def oldestTile : List Tile → Option Tile
  | [] => none
  | t :: ts =>
    match oldestTile ts with
    | none => some t
    | some u => if u.used < t.used then some u else some t

/-- The least recently used tile of a group without an entry is spilled to its context's save pool; none where there is no such
tile or no room for it. -/
def State.spillTile (s : State) (cluster : Nat) : Option State :=
  let idle (t : Tile) : Bool := !s.mtx.ops.any (fun o => o.cluster = cluster && !o.granted && o.g = t.g)
  match oldestTile ((s.mtx.stored cluster).filter idle) with
  | none => none
  | some t =>
    match s.group? t.g with
    | none => none
    | some g =>
      match s.poolSave g.ctx (t.words.flatMap (fun w => leBytes 4 w.toNat)) with
      | none => none
      | some (a, s1) => some (s1.setMtx (s1.mtx.putTile { t with spilled := some a }))

/-- Room for some more tiles in a cluster's store of 4,096 (R341, R342). -/
def State.tileRooms (s : State) (cluster n : Nat) : Option State :=
  (List.range ((s.mtx.stored cluster).length + n - 4096)).foldlM (fun s _ => s.spillTile cluster) s
/-- Room for one more. -/
def State.tileRoom (s : State) (cluster : Nat) : Option State := s.tileRooms cluster 1

/-- An octet's tile stands in the store: taken at its first write, reloaded where it was spilled. -/
def State.needTile (s : State) (o : MatOp) (octet : Nat) : Option State :=
  match s.mtx.tile? o.g octet o.tile with
  | some t =>
    match t.spilled with
    | none => some (s.setMtx (s.mtx.putTile { t with used := s.cycle }))
    | some a =>
      (s.tileRoom o.cluster).map (fun s1 =>
        (s1.modCtx o.ctx (fun c => { c with saves := c.saves.filter (fun e => e.1 ≠ a) })).setMtx
          (s1.mtx.putTile { t with spilled := none, used := s.cycle }))
  | none =>
    (s.tileRoom o.cluster).map (fun s1 =>
      s1.setMtx (s1.mtx.putTile { g := o.g, cluster := o.cluster, octet := octet, k := o.tile, words := blankTile, spilled := none, used := s.cycle }))

/-- An octet's tile stands in the store where it has been written: a spilled one is reloaded before it is used (R342). -/
def State.reloadTile (s : State) (o : MatOp) (octet : Nat) : Option State :=
  if (s.mtx.tile? o.g octet o.tile).any (fun t => t.spilled.isSome) then s.needTile o octet else some s

/-- The same of every request of some operations. -/
def State.reloadTiles (s : State) (l : List MatOp) : Option State :=
  l.foldlM (fun (s : State) p => p.reqs.foldlM (fun (s : State) r => s.reloadTile p r.octet) s) s

/-- The tiles of every request of some operations. -/
def State.needTiles (s : State) (l : List MatOp) : Option State :=
  (l.flatMap (fun o => o.reqs.map (fun r => (o, r.octet)))).foldlM (fun (s : State) (e : MatOp × Nat) => s.needTile e.1 e.2) s

/-! ## The arbiter (R335, R337) -/

/-- The operation accumulates in the array. -/
def MatOp.needsPass (o : MatOp) : Bool :=
  match o.kind with
  | .mma => true
  | .mmad _ => true
  | _ => false
/-- The operation is on a tile. -/
def MatOp.onTile (o : MatOp) : Bool :=
  match o.kind with
  | .dpld _ => false
  | .dpinv _ => false
  | _ => true
/-- The two operations have requests of one octet on one tile, the first's not drained. -/
def MatOp.blocks (p o : MatOp) : Bool :=
  p.onTile && p.g = o.g && p.tile = o.tile && p.reqs.any (fun r => !r.drained && o.reqs.any (fun q => q.octet = r.octet))

/-- The operations before one in the table. -/
def Matrix.before (m : Matrix) (o : MatOp) : List MatOp := m.ops.takeWhile (fun p => p.id ≠ o.id)

/-- An entry may be granted (R335), with its mate. -/
def Matrix.eligible (m : Matrix) (o : MatOp) : Bool :=
  !o.granted && o.needsPass && (m.before o).all (fun p => p.cluster ≠ o.cluster || !p.blocks o)

/-- The level of an entry at a cycle: every 512 cycles at one level promote it (R337). -/
def MatOp.levelAtCycle (o : MatOp) (now : Nat) : Nat := o.level - (now - o.levelAt) / 512
/-- The arbiter's order: level, then posting cycle, then core (R337). -/
def MatOp.rank (now : Nat) (o : MatOp) : Nat := (o.levelAtCycle now * 2 ^ 64 + o.posted) * 1024 + o.core

/-- An entry may be granted and no QFENCE before it holds it (R228, R335). -/
def State.mayGrant (s : State) (o : MatOp) : Bool := s.mtx.eligible o && !s.qfenceHolds { o.g with shadow := false } 8 o.id

/-- The entry the arbiter grants next. -/
def State.matChoice (s : State) (cluster : Nat) : Option MatOp :=
  (sortBy (MatOp.rank s.cycle) (s.mtx.ops.filter (fun o => o.cluster = cluster && !(o.g.shadow && o.mate.isSome) && s.mayGrant o))).head?

/-- A later entry fuses with a granted one (R340). DEDUCED: log entry 30. -/
def MatOp.fuses (o p : MatOp) : Bool :=
  p.g = o.g && p.wb = o.wb && fbAfmt p.fmt0 = fbAfmt o.fmt0 && fbBfmt p.fmt0 = fbBfmt o.fmt0 && fbCfmt p.fmt0 = fbCfmt o.fmt0
    && fbSparse p.fmt0 == fbSparse o.fmt0 && fbLen p.fmt0 = fbLen o.fmt0 && decide (p.posted ≤ o.posted + 16)

/-- The entries of one pass: the granted one, and later ones while at most 64 octets take part. -/
def State.passOf (s : State) (o : MatOp) : List MatOp :=
  let later := (s.mtx.ops.filter (fun p => p.cluster = o.cluster && decide (o.id < p.id))).filter (fun p => s.mayGrant p && o.fuses p)
  (later.foldl (fun (acc : List MatOp × Nat) p =>
    if acc.2 + p.reqs.length ≤ 64 then (acc.1 ++ [p], acc.2 + p.reqs.length) else acc) ([o], o.reqs.length)).1

/-- An operation at the head of its queue that needs no pass cannot have its tiles: MZERO and MKLD write theirs; MDRAIN's next
request and MKST use those that have been written. -/
def State.headLacks (s : State) (o : MatOp) : Bool :=
  match o.kind with
  | .mzero => (s.needTiles (s.mtx.withMate o)).isNone
  | .mkld => (s.needTiles (s.mtx.withMate o)).isNone
  | .mkst => (s.reloadTiles (s.mtx.withMate o)).isNone
  | .mdrain _ =>
    (match o.reqs.find? (fun r => !r.drained) with
     | some r => ((s.mtx.withMate o).foldlM (fun (s : State) p => s.reloadTile p r.octet) s).isNone
     | none => false)
  | _ => false

/-- An operation whose turn it is cannot have the tiles it needs, or stands in a pass that cannot (R340, R342). -/
def State.lacksTile (s : State) (o : MatOp) : Bool :=
  !o.granted
    && ((match s.matChoice o.cluster with
        | some p => (s.passOf p).any (fun q => q.id = o.id) && (s.needTiles ((s.passOf p).flatMap s.mtx.withMate)).isNone
        | none => false)
      || ((s.mtx.head? o.cluster).any (fun h => h.id = o.id) && s.headLacks o))

end Sys2Proof.Machine
end

