-- ==== Sys2Proof/Machine/System.lean ====
section
/-! DEFINITION. Traps on request and the system registers (spec/02_core_instructions.md R71, R72;
spec/05_registers_private_memory_traps.md R123; spec/09_scheduling_and_preemption.md R215;
spec/18_matrix_engine_and_drain.md R349, R353; spec/21_package_and_system.md R387). -/

namespace Sys2Proof.Machine

/-- GSTAT (R72). -/
def Group.gstat (g : Group) : Word64 :=
  BitVec.ofNat 64 (g.udiv.toNat + 2 * g.priv.toNat + 4 * g.chk.toNat + 8 * g.det.toNat)

/-- The flags a header's WAIT mask names. -/
def waitFlags (h : Word64) : List Nat := (List.range 12).filter (fun n => h.getLsbD n)

/-- The flags a split with the FLAG code waits for: those of its clause, or the one its instruction selects (R17, R18). -/
def Split.flagsAwaited (p : Split) : List Nat :=
  match p.st with
  | .waiting => waitFlags p.header
  | _ =>
    match (p.word.extractLsb' 55 2).toNat with
    | 1 => [(p.header.extractLsb' 12 4).toNat]
    | 2 => [(p.header.extractLsb' 16 4).toNat]
    | _ => []

/-- The wait-reason code a split records (R212): a ready split of a group under PAUSE records PAUSE (DEDUCED: log entry 12), and one
that waits on the flag of an entry that lacks a tile records MATRIX (R342). -/
def State.waitCode (s : State) (g : Group) (p : Split) : BitVec 8 :=
  match p.st with
  | .boundary => if s.cycle < g.pauseEnd then wPAUSE else 0
  | .issuing => if s.cycle < g.pauseEnd then wPAUSE else 0
  | _ =>
    let c := p.waitCode
    let mine (o : MatOp) : Bool := o.g = { g.key with shadow := false } && (o.flag.map (fun n => p.flagsAwaited.contains n)).getD false
    if c = wFLAG && s.mtx.ops.any (fun o => mine o && s.lacksTile o) then wMATRIX else c

/-- The wait-reason code of a group's oldest waiting split (R212, R215). -/
def State.waitReason (s : State) (g : Group) : BitVec 8 :=
  match sortBy Split.age (g.splits.filter (fun p => s.waitCode g p != 0#8)) with
  | p :: _ => s.waitCode g p
  | [] => 0

/-- A count that saturates at 32 bits (R353). -/
def sat32 (n : Nat) : Nat := min n (2 ^ 32 - 1)

/-- CURBBUDGET as used: 0 as 1, and more than 1,024 as 1,024 (R386). -/
def curbInUse (b : BitVec 11) : Nat := if b = 0 then 1 else min b.toNat 1024

/-- A system register other than FFLAGS (R72). -/
def State.sysRead (s : State) (g : Group) (num : Nat) : Word64 :=
  let n (x : Nat) : Word64 := BitVec.ofNat 64 x
  let ctx (f : Context → Nat) : Nat := ((s.ctx? g.ctx).map f).getD 0
  let team (f : Team → Nat) : Nat := ((s.team? g.key.team).map f).getD 0
  let tmask (k : Nat) : Word64 := g.trap.mask.extractLsb' (64 * k) 64
  match num with
  | 0x001 => g.gstat
  | 0x010 => g.trap.cause
  | 0x011 => g.trap.addr
  | 0x012 => tmask 0
  | 0x013 => g.trap.entry
  | 0x014 => g.trap.iaddr
  | 0x015 => g.trap.tvec
  | 0x016 => g.trap.inst
  | 0x018 => tmask 1
  | 0x019 => tmask 2
  | 0x01A => tmask 3
  | 0x01B => tmask 4
  | 0x01C => tmask 5
  | 0x01D => tmask 6
  | 0x01E => tmask 7
  | 0x020 => g.trap.scr.getD 0 0
  | 0x021 => g.trap.scr.getD 1 0
  | 0x022 => g.trap.scr.getD 2 0
  | 0x023 => g.trap.scr.getD 3 0
  | 0x040 => g.dr.cause
  | 0x041 => g.dr.addr
  | 0x042 => g.dr.req
  | 0x043 => g.dr.pos
  | 0x044 => g.dr.fmt0
  | 0x045 => g.dr.fmt1
  | 0x046 => g.dr.aptr
  | 0x047 => g.dr.abase
  | 0x048 => g.dr.alim
  | 0x049 => g.dr.aperm
  | 0x04A => g.dr.rows
  | 0x050 => n (sat32 g.curbStalls * 2 ^ 32 + sat32 g.curbCycles)
  | 0x051 => n (curbInUse s.pkg.curbBudget)
  | 0x052 => n (((s.mtx.curb.find? (fun c => c.cluster = coreCluster g.core)).map CurbWin.used).getD 0 % 2048)
  | 0x100 => (s.waitReason g).setWidth 64
  | 0x101 => n g.wd
  | 0x102 => n (ctx Context.wdlimit)
  | 0x103 => n g.key.team.launch
  | 0x104 => n (team Team.resBase)
  | 0x105 => n (team Team.resCount % 2 ^ 32)
  | 0x106 => n g.stallRdy
  | 0x107 => n (ctx Context.tslice % 2 ^ 32)
  | 0x108 => n (g.key.team.team % 2 ^ 32)
  | 0x200 => n (s.pkg.device.toNat * 2 ^ 32 + s.pkg.healthy.toNat)
  | 0x201 => ((s.ctx? g.ctx).map (fun c => c.touched.setWidth 64)).getD 0
  | 0x202 => n (g.ctx % 1024)
  | 0x203 => s.pkg.featAct0
  | 0x204 => s.pkg.featAct1
  | 0x2F0 => g.msel
  | _ => 0

/-- A write of a system register other than FFLAGS by a group: each field by its access code (R9); only the
handler has the privileged view. -/
def Group.sysWrite (g : Group) (num : Nat) (v : Word64) : Group :=
  if num = 0x001 then { g with udiv := g.udiv && !v.getLsbD 0 }
  else if !g.priv then g
  else
    let scr (k : Nat) : Group := { g with trap := { g.trap with scr := g.trap.scr.set k v } }
    match num with
    | 0x015 => { g with trap := { g.trap with tvec := v &&& ~~~63#64 } }
    | 0x020 => scr 0
    | 0x021 => scr 1
    | 0x022 => scr 2
    | 0x023 => scr 3
    | 0x043 => { g with dr := { g.dr with pos := (g.dr.pos &&& ~~~(1#64 <<< 61)) ||| (v &&& (1#64 <<< 61)) } }
    | 0x046 => { g with dr := { g.dr with aptr := v } }
    | 0x047 => { g with dr := { g.dr with abase := v } }
    | 0x048 => { g with dr := { g.dr with alim := v } }
    | 0x049 => { g with dr := { g.dr with aperm := v &&& 15 } }
    | 0x2F0 => { g with msel := v &&& ((1#64 <<< 63) ||| 0x7FFF#64) }
    | _ => g

/-- RDSR (R72): FFLAGS into each active thread's v register, another register into an s register. -/
def execRdsr (x : Rdsr) (s : State) : Result :=
  runCore
    { view := x.view
      body := fun i =>
        if x.num = 0#18 then i.writeV x.d 1 (fun t => ((i.g0.threads[t]?.map Thread.fflags).getD 0).setWidth 64)
        else .ok (if i.any then i.writeS x.d (i.s0.sysRead i.g0 x.num.toNat) else i) } s

/-- WRSR (R72). -/
def execWrsr (x : Wrsr) (s : State) : Result :=
  runCore
    { view := x.view
      body := fun i =>
        if x.num = 0#18 then
          .ok { i with g := i.g.mapThreads (fun t th =>
            if i.act.getLsbD t then { th with fflags := (i.val x.a 1 t).setWidth 5 } else th) }
        else .ok (if i.any then { i with g := i.g.sysWrite x.num.toNat (i.uni x.a) } else i) } s

/-- TRAP (R71): precise, for the active threads; without one it has no effect. -/
def execTrap (x : Trap) (s : State) : Result :=
  runCore
    { view := x.view
      body := fun i =>
        if i.any then i.fault cSOFTWARE_TRAP (x.code.setWidth 64) i.act else .ok i } s

/-- A debugger is attached to the group's context (R397). -/
def Iss.debugged (i : Iss) : Bool := ((i.s0.ctx? i.g0.ctx).map Context.dbg).getD false

/-- BKPT (R71, R397): a debug halt before any effect where a debugger is attached, else BREAKPOINT. DEDUCED: log entry 16. With no
active thread it has no effect. DESIGN CHOICE: log entry 42. -/
def execBkpt (x : INone) (s : State) : Result :=
  runCore
    { view := x.view
      body := fun i =>
        if !i.any then .ok i
        else if i.debugged then
          .ok { i with
            flow := .own (fun st => st.modGroup i.k (fun g =>
              match g.split? i.sid with
              | some _ => { g.putSplit { i.p0 with st := .blocked .halted } with haltReq := true }
              | none => g)) }
        else i.fault cBREAKPOINT 0 i.act } s

end Sys2Proof.Machine
end

