-- ==== Sys2Proof/Machine/Schedule.lean ====
section
/-! DEFINITION. From clause to clause and cycle to cycle: the start of a clause (spec/01_instruction_word.md R14 to R19),
the end of waits (spec/04_groups_and_members.md R93, R97), the issue slots (spec/09_scheduling_and_preemption.md R208),
watchdog and PAUSE (R212, R213; R104), class A traps (spec/05_registers_private_memory_traps.md R130) and the end of a
group (spec/02_core_instructions.md R70). -/

namespace Sys2Proof.Machine

/-! ## Clauses (R14 to R17) -/

/-- An opcode that transfers control (R16): BRA to EXIT, and RTE. -/
def transfers (w : Word64) : Bool :=
  let o := (w.extractLsb' 0 10).toNat
  (decide (0x180 ≤ o) && decide (o ≤ 0x185)) || o == 0x191

/-- The slots of a clause keep the structure of R16: a control transfer stands last, and a literal lies within COUNT. -/
def slotsSound : List Word64 → Bool
  | [] => true
  | [w] => !w.getLsbD 62
  | w :: x :: rest =>
    if w.getLsbD 62 then (if transfers w then rest.isEmpty else slotsSound rest)
    else if transfers w then false
    else slotsSound (x :: rest)

/-- A set-flag field that R15 does not define. -/
def badSetFlag (f : BitVec 4) : Bool := decide (12 ≤ f.toNat) && f != 15#4

/-- A header that R16 allows. -/
def headerSound (h : Word64) : Bool :=
  let a := h.extractLsb' 12 4
  let b := h.extractLsb' 16 4
  h.extractLsb' 25 39 == 0#39 && !badSetFlag a && !badSetFlag b && h.extractLsb' 20 3 != 0#3 && !(a == b && a != 15#4)

/-- Words read one after another, or the first that cannot be (R181). -/
def State.fetchWords (s : State) (core ctx member va : Nat) : Nat → Except (BitVec 8 × Nat) (List Word64)
  | 0 => .ok []
  | n + 1 =>
    match s.fetchWord core ctx member va with
    | .error c => .error (c, va)
    | .ok w =>
      match s.fetchWords core ctx member (va + 8) n with
      | .error e => .error e
      | .ok ws => .ok (w :: ws)

/-- The header at an address, and slots 1 to COUNT. -/
def State.fetchClause (s : State) (core ctx member va : Nat) : Except (BitVec 8 × Nat) (Word64 × List Word64) :=
  match s.fetchWord core ctx member va with
  | .error c => .error (c, va)
  | .ok h =>
    match s.fetchWords core ctx member (va + 8) (h.extractLsb' 20 3).toNat with
    | .error e => .error e
    | .ok ws => .ok (h, ws)

/-- A clause is a region entry: its REGION bit is set, or it is the kernel's entry clause (R124). -/
def State.entersRegion (s : State) (g : Group) (pc h : Word64) : Bool :=
  h.getLsbD 23 || ((s.launch? g.key.team.launch).map (fun l => l.lrec.entry == pc)).getD false

/-- A split stands at a clause boundary, ready to start it as far as its state shows (R104). -/
def Split.atBoundary (p : Split) : Bool := p.st == .boundary

/-- Steps 2 to 4 of R17 on a group's split; the other splits that are ready are passed once more (R104). -/
def Group.startClause (g : Group) (sid : Nat) (h : Word64) (ws : List Word64) (entry : Bool) : Group :=
  match g.split? sid with
  | none => g
  | some p =>
    let g1 := (if entry then g.freePending sid else g).takePending p.mask (waitFlags h)
    let p1 : Split := { p with st := .issuing, slot := 1, header := h, code := ws }
    let p2 := if entry then { p1 with region := some p.pc, regionAt := g.seq, latch := [] } else p1
    { g1 with splits := g1.splits.map (fun q =>
        if q.sid = sid then { p2 with passed := 0 } else if q.atBoundary && !g1.stopped q.sid then { q with passed := q.passed + 1 } else q) }

/-- The ready splits that are left, once another has started a clause, can all start theirs before the group has started a fourth
from others (R104): the one passed most often first, each at most three times passed. -/
def canWait (ps : List Split) : Bool :=
  ((sortBy Split.passed ps).reverse.zipIdx).all (fun e => decide (e.1.passed + 1 + e.2 ≤ 3))

/-- The ready splits in round-robin order, beginning after the split the group issued from last (R93). -/
def Group.turns (g : Group) : List Split :=
  let ready := sortBy Split.sid (g.splits.filter (fun p => p.atBoundary && !g.stopped p.sid))
  ready.filter (fun p => decide (g.lastSplit < p.sid)) ++ ready.filter (fun p => decide (p.sid ≤ g.lastSplit))

/-- The split a group starts next: the first in round-robin order (R93) after which every other ready split still starts its clause
in time (R104); where none is, the one passed most often. DEDUCED: log entry 12. -/
def Group.nextSplit (g : Group) : Option Split :=
  match g.turns.find? (fun p => canWait (g.turns.filter (fun q => q.sid ≠ p.sid))) with
  | some p => some p
  | none => (sortBy Split.passed g.turns).getLast?

/-- The oldest split of a group (R130). -/
def Group.oldest (g : Group) : Option Split := (sortBy Split.age g.splits).head?

/-- A class A trap is to be taken before anything else at the oldest split's boundary. -/
def Group.trapPends (g : Group) : Bool := !g.asyncs.isEmpty && !g.priv

/-- A group that stops for a debug halt, or for an eviction outside deterministic mode that no handler holds, issues nothing
more (R131, R210, R397). -/
def Group.stopping (g : Group) : Bool := g.haltReq || (g.evictReq && !g.det && !g.priv)

/-- No split of the group is mid-clause (R93), those aside that a handler has stopped (R128). -/
def Group.noneIssuing (g : Group) : Bool := g.splits.all (fun p => !p.issuing || g.stopped p.sid)

/-- A fault met before the first slot of a clause, in both copies of a check pair. -/
def State.clauseFault (s : State) (g : Group) (p : Split) (i : TrapInfo) : State := s.trapBoth g.key p.sid i p.region

/-- The split waits for its flags (R97). -/
def Group.waitFlag (g : Group) (sid : Nat) (h : Word64) : Group :=
  match g.split? sid with
  | none => g
  | some p => g.putSplit { p with st := .waiting, header := h, passed := 0 }

/-- A split may start its clause as far as its group is concerned: it is the next in turn, and no trap or stop comes first. -/
def Group.mayStart (g : Group) (p : Split) : Bool :=
  (g.nextSplit.map Split.sid) == some p.sid && g.noneIssuing && !g.stopping && !(g.trapPends && (g.oldest.map Split.sid) == some p.sid)

/-- A region entry waits for the class T checks of the split's region (R125). -/
def State.entryHeld (s : State) (g : Group) (p : Split) (h : Word64) : Bool :=
  s.entersRegion g p.pc h && s.unchecked g.key p.sid p.region

/-- A split waits for flags that are clear: it stands at its boundary again with the next WAIT_SATISFIED (R97). -/
def Group.flagsCame (g : Group) (p : Split) : Bool := p.st == .waiting && (waitFlags p.header).all (fun n => g.flag n == 0)

/-- A group is ready (R104): a split is mid-clause, or its flags are clear, or it stands at a boundary whose clause it may start. -/
def State.isReady (s : State) (g : Group) : Bool :=
  g.splits.any (fun p => (p.issuing || g.flagsCame p) && !g.stopped p.sid)
    || (match g.nextSplit with
        | none => false
        | some p => g.mayStart p && (match s.fetchWord g.core g.ctx g.fetchMember p.pc.toNat with
            | .ok h => !s.entryHeld g p h
            | .error _ => true))

/-- CLAUSE_START (R17). DEDUCED: log entry 12. -/
def execClauseStart (x : EvSplit) (s : State) : Result :=
  match s.group? x.g with
  | none => notDue "CLAUSE_START"
  | some g =>
    match g.split? x.sid with
    | none => notDue "CLAUSE_START"
    | some p =>
      if x.g.shadow || !g.mayStart p then notDue "CLAUSE_START"
      else
        let s1 := (s.tlbFill g.core g.ctx p.pc.toNat)
        let s2 := match s1.translate g.core g.ctx p.pc.toNat .fetch g.fetchMember with
          | .ok (pa, _) => s1.touchPa g.ctx pa
          | .error _ => s1
        match s.fetchClause g.core g.ctx g.fetchMember p.pc.toNat with
        | .error (c, va) =>
          .next (s2.clauseFault g p
            { code := c, addr := BitVec.ofNat 64 va, mask := g.splitLive p, detail := lateDetail .fetch, iaddr := BitVec.ofNat 64 va, inst := 0 })
        | .ok (h, ws) =>
          if !headerSound h || !slotsSound ws then
            .next (s2.clauseFault g p { code := cILLEGAL_CLAUSE, addr := p.pc, mask := g.splitLive p, iaddr := p.pc, inst := h })
          else if (waitFlags h).any (fun n => g.flag n != 0) then .next (s2.bothCopies g.key (fun g => g.waitFlag p.sid h))
          else
            if s.entryHeld g p h then notDue "CLAUSE_START"
            else .next (s2.bothCopies g.key (fun g => g.startClause p.sid h ws (s.entersRegion g p.pc h)))

/-! ## The end of a wait (R97) -/

/-- A blocked split goes on after its instruction: the next slot or the next clause. The instruction has now issued, and a
non-idempotent one ends the region (R126, R130). -/
def State.passInstr (s : State) (k : GroupKey) (sid : Nat) : State :=
  match (s.group? k).bind (fun g => (g.split? sid).map (fun p => (g, p))) with
  | none => s
  | some (g, p) =>
    let adv := if p.word.getLsbD 62 then 2 else 1
    let region := match p.st with
      | .blocked w => if w.endsRegion then none else p.region
      | _ => p.region
    if p.count < p.slot + adv then
      (s.putGroup ((g.yields p.header).putSplit { p with pc := p.pc + 64, slot := 1, region := region })).reachBoundary k sid
    else s.putGroup (g.putSplit { p with slot := p.slot + adv, st := .issuing, region := region })

/-- The same in both copies of a check pair. -/
def State.passBoth (s : State) (k : GroupKey) (sid : Nat) : State :=
  (s.passInstr { k with shadow := false } sid).passInstr { k with shadow := true } sid

/-- An operation is under way in some queue (R119). -/
def State.underWay (s : State) (op : Nat) : Bool :=
  s.ops.mem.any (fun o => o.id = op) || s.ops.remote.any (fun o => o.inst = op) || s.ops.colls.any (fun o => o.id = op)

/-- The split is mid-clause again, and its group offers its instruction once more (R97, R208). -/
def State.resumeSplit (s : State) (k : GroupKey) (sid : Nat) : State :=
  s.bothCopies k (fun g =>
    match g.split? sid with
    | some p => g.putSplit { p with st := .issuing }
    | none => g)

/-- Curb has not yet admitted a stalled issue (R352). -/
def State.curbHolds (s : State) (k : SplitKey) (slot : Word64) : Bool :=
  s.mtx.curb.any (fun w => w.stalled.any (fun e => e.key = k && e.slot = slot && !e.admitted))

/-- The acquire at the end of a barrier wait (R157). -/
def State.barEnd (s : State) (g : Group) : State := s.acquire g.key g.core g.ctx .team

/-- WAIT_SATISFIED: what a split waits for has come. -/
def execWaitSatisfied (x : EvSplit) (s : State) : Result :=
  match (s.group? x.g).bind (fun g => (g.split? x.sid).map (fun p => (g, p))) with
  | none => notDue "WAIT_SATISFIED"
  | some (g, p) =>
    if x.g.shadow then notDue "WAIT_SATISFIED"
    else
      match p.st with
      | .waiting =>
        dueIf "WAIT_SATISFIED" ((waitFlags p.header).all (fun n => g.flag n == 0))
          (s.bothCopies g.key (fun g => (match g.split? x.sid with
            | some q => g.putSplit { q with st := .boundary }
            | none => g)))
      | .blocked w =>
        if g.stopped p.sid || g.stopping || (g.trapPends && (g.oldest.map Split.sid) == some p.sid && s.undone g w) || !g.noneIssuing then
          notDue "WAIT_SATISFIED"
        else
          match w with
          | .retry c op =>
            dueIf "WAIT_SATISFIED" (!(c == wCURB && s.curbHolds ⟨g.key, p.sid⟩ p.iaddr) && !(c == wREMOTE && s.heldIssue ⟨g.key, p.sid⟩ p.iaddr) && (op.map (fun o => !s.underWay o)).getD true)
              (s.resumeSplit g.key p.sid)
          | .barrier n tok _ =>
            dueIf "WAIT_SATISFIED" (((s.team? g.key.team).map (fun t => (t.bar n).reached tok)).getD true) ((s.barEnd g).passBoth g.key p.sid)
          | .barLast n tok pr m =>
            let done (k : GroupKey) (s : State) : State := s.lastResult k p.sid n tok pr m
            dueIf "WAIT_SATISFIED" (((s.team? g.key.team).map (fun t => (t.bar n).reached tok)).getD true)
              (((done { g.key with shadow := true } (done g.key (s.barEnd g))).dropElected g.key p.sid n tok).passBoth g.key p.sid)
          | .monitor op => dueIf "WAIT_SATISFIED" (s.memOp? op).isNone (s.passBoth g.key p.sid)
          | .corral _ _ _ _ _ => notDue "WAIT_SATISFIED"
          | .halted => notDue "WAIT_SATISFIED"
      | _ => notDue "WAIT_SATISFIED"

/-! ## The issue slots (R89, R93, R208) -/

/-- Pipe classes (R55, R133, R216, R266, R312). -/
inductive Pipe | fma | int | special | memory | scalar
  deriving DecidableEq, Repr

/-- The class of an opcode. -/
def pipeOf (opc : Nat) : Pipe :=
  if opc < 0x080 then .int
  else if opc < 0x088 then .fma
  else if opc < 0x090 then .special
  else if opc < 0x110 then .fma
  else if opc < 0x140 then .int
  else if opc < 0x1D0 then .scalar
  else if opc < 0x200 then .memory
  else if opc = 0x203 then .memory
  else if opc < 0x210 then .int
  else if opc < 0x240 then .scalar
  else if opc < 0x250 then .memory
  else if opc < 0x2C0 then .scalar
  else if opc < 0x2C2 then .memory
  else if opc = 0x2C2 then .int
  else if opc = 0x2D1 then .memory
  else if opc < 0x2E0 then .scalar
  else if opc < 0x300 then .memory
  else if opc = 0x305 || opc = 0x306 || opc = 0x310 then .memory
  else if opc < 0x340 then .int
  else if opc = 0x384 || opc = 0x385 then .memory
  else .scalar

/-- What a group offers for an issue slot. -/
structure Offer where
  key : SplitKey
  pipe : Pipe
  f : Nat
  /-- its place in the order of R208 -/
  rank : Nat

/-- A group's offer: the split that is mid-clause, where nothing holds it. -/
def Group.offer (g : Group) (cycle : Nat) : Option Offer :=
  match g.splits.find? (fun p => p.issuing && !g.stopped p.sid) with
  | none => none
  | some p =>
    let late := if cycle < g.pauseEnd then 2 else if g.yieldHint then 1 else 0
    some { key := ⟨g.key, p.sid⟩, pipe := pipeOf (p.word.extractLsb' 0 10).toNat, f := g.f, rank := late * 2 ^ 64 + g.lastIssue }

/-- Quarters of a slot a group takes (R89). -/
def quarters (f : Nat) : Nat := min 4 (max 1 (f / 32))

/-- A slot begun by an offer, with the narrow offers of its class that fit beside it. -/
def packSlot (o : Offer) (rest : List Offer) : List Offer :=
  if 64 < o.f then [o]
  else (rest.foldl (fun (acc : List Offer × Nat) x =>
    if x.pipe = o.pipe && decide (x.f ≤ 64) && decide (acc.2 + quarters x.f ≤ 4) then (acc.1 ++ [x], acc.2 + quarters x.f) else acc)
      ([o], quarters o.f)).1

/-- The offers that issue in one cycle of a core: two slots of different classes. -/
def slotIssues (offers : List Offer) : List Offer :=
  match sortBy Offer.rank offers with
  | [] => []
  | o :: rest =>
    let first := packSlot o rest
    match rest.filter (fun x => x.pipe ≠ o.pipe) with
    | [] => first
    | q :: more => first ++ packSlot q more

/-- The splits that issue in this cycle, core by core, ascending (R334). DEDUCED: log entry 12. -/
def State.selected (s : State) : List SplitKey :=
  let cores := sortBy id ((s.groups.map Group.core).foldl addOnce [])
  cores.flatMap (fun c =>
    (slotIssues ((s.groups.filter (fun g => g.core = c && !g.key.shadow)).filterMap (fun g => g.offer s.cycle))).map Offer.key)

/-! ## What a cycle counts (R119, R213) -/

/-- An operation's result a split awaits, where it names one. -/
def Split.opAwaited (p : Split) : Option Nat :=
  match p.st with
  | .blocked (.retry _ op) => op
  | _ => none

/-- The request that a split with the REMOTE code awaits is held for a peer that is down (R213); where it waits for room, any
request of its group. -/
def State.remoteHeld (s : State) (k : GroupKey) (p : Split) : Bool :=
  let mine (id : Nat) : Bool := (p.opAwaited.map (fun op => op == id)).getD true
  s.ops.remote.any (fun o => o.g = k && o.heldAt.isSome && mine o.inst) || s.ops.mem.any (fun o => o.g = k && o.heldAt.isSome && mine o.id)
    || s.heldIssue ⟨k, p.sid⟩ p.iaddr

/-- A collective that a split with the COLLECTIVE code awaits has a contributor whose device is in ISLAND-ONLY (R213). -/
def State.collHeld (s : State) (k : GroupKey) (p : Split) : Bool :=
  s.ops.colls.any (fun o => o.g = k && (p.opAwaited.map (fun op => op == o.id)).getD true &&
    (List.range 512).any (fun d => (s.collGroup o.desc.grp).mask.getLsbD d && s.peerState d == .islandOnly))

/-- The watchdog's freeze conditions (R213), each of the splits that wait with its code, and R330's: a drain of the group is stopped. -/
def State.frozen (s : State) (g : Group) : Bool :=
  let k : GroupKey := { g.key with shadow := false }
  s.mtx.ops.any (fun o => o.g.team = k.team && o.g.group = k.group && o.stopped) || g.splits.any (fun p =>
    let c := p.waitCode
    (c == wBARRIER && (s.saved.any (fun x => x.g.key.team = g.key.team) || s.groups.any (fun h => h.key.team = g.key.team && h.priv)))
      || (c == wREMOTE && s.remoteHeld k p)
      || (c == wCOLLECTIVE && s.collHeld k p))

/-- Some split is ready or issuing (R104). -/
def Group.readyOrIssuing (g : Group) : Bool := g.splits.any (fun p => (p.atBoundary || p.issuing) && !g.stopped p.sid)

/-- Some split waits with a nonzero code (R213). -/
def Group.waitsCoded (g : Group) : Bool := g.splits.any (fun p => p.waitCode != 0#8)

/-- A group's counters at the end of a cycle (R212, R213, R353). DESIGN CHOICE: log entry 6. -/
def State.countCycle (s : State) (g : Group) : Group :=
  let wd := if !g.readyOrIssuing && g.waitsCoded && !s.frozen g then g.wd + 1 else g.wd
  let rdy := g.splits.any (fun p => match p.st with
    | .blocked (.retry _ (some _)) => true
    | _ => false)
  let curb := (g.splits.filter (fun p => p.waitCode == wCURB)).length
  { g with wd := wd, stallRdy := if rdy then g.stallRdy + 1 else g.stallRdy, curbCycles := g.curbCycles + curb
           readyFor := if g.key.shadow || decide (s.cycle < g.pauseEnd) || !s.isReady g then 0 else g.readyFor + 1 }

/-- Cycles for which a ready group may offer no instruction. A group that offers one issues within 64 cycles, since each of the
31 others of its core goes before it once at most (R208), so that it issues within the 4,096 of R104. -/
def startBound : Nat := 4032

/-- Every ready group that is not under PAUSE offers an instruction in time to issue within 4,096 cycles (R104): where one does not,
no further cycle passes before it has started its clause. DEDUCED: log entry 12. -/
def State.prompt (s : State) : Bool :=
  s.groups.all (fun g => decide (g.readyFor < startBound) || decide (s.cycle < g.pauseEnd) || !s.isReady g || (g.offer s.cycle).isSome)

/-- What the outside brings with the next cycle: nothing where nothing is listed. -/
def State.cycleInput (s : State) : CycleInput := s.sched.inputs.headD ⟨none, none, none⟩

/-- A corrected error is counted by its M-die, where that is not lost; an uncorrectable one stays in its L1 line (R176). -/
def State.strike (s : State) (x : CycleInput) : Mem :=
  let m := s.mem
  { m with
    ecc := match x.soft with
      | some d => if 10 ≤ d ∧ d < 18 ∧ s.dieLost d = false then insertKey m.ecc d (lookupD m.ecc d 0 + 1) else m.ecc
      | none => m.ecc
    l1 := match x.hard with
      | some (core, ctx, line) => m.l1.map (fun l => if l.core = core && l.ctx = ctx && l.line = line then { l with bad := true } else l)
      | none => m.l1 }

/-- The next cycle begins a Curb window, which starts before anything issues in it (R352). -/
def State.windowTurns (s : State) : Bool := decide ((s.mtx.window + 1) * 1024 ≤ s.cycle + 1)

/-- ISSUE_SLOT_SELECTION (R208): once what the last cycle selected has issued, a cycle passes, and its slots are filled; soft
errors may strike in it (R176), and the hottest junction's temperature change (R386). -/
def execIssueSlotSelection (s : State) : Result :=
  let x := s.cycleInput
  let picked := s.selected
  let seen (g : Group) : Bool := (g.offer s.cycle).isSome
  let s1 := { s with
    groups := s.groups.map (fun g => { s.countCycle g with yieldHint := g.yieldHint && !seen g })
    cycle := s.cycle + 1
    mem := s.strike x
    pkg := s.pkg.heat (x.hot.getD s.pkg.tmax) s.cycle }
  dueIf "ISSUE_SLOT_SELECTION" (s.prompt && !s.windowTurns && s.sched.issue.isEmpty)
    (s1.setSched { s1.sched with issue := picked, inputs := s1.sched.inputs.tail })

/-- PAUSE_EXPIRY (R68, R104): a group's n cycles are over. -/
def execPauseExpiry (x : EvGroup) (s : State) : Result :=
  match s.group? x.g with
  | none => notDue "PAUSE_EXPIRY"
  | some g => dueIf "PAUSE_EXPIRY" (g.pauseEnd != 0 && decide (g.pauseEnd ≤ s.cycle)) (s.putGroup { g with pauseEnd := 0 })

/-- A context's watchdog limit. -/
def State.wdLimit (s : State) (ctx : Nat) : Nat := ((s.ctx? ctx).map Context.wdlimit).getD (2 ^ 32)

/-- WATCHDOG_EXPIRY (R213). -/
def execWatchdogExpiry (x : EvGroup) (s : State) : Result :=
  match s.group? x.g with
  | none => notDue "WATCHDOG_EXPIRY"
  | some g =>
    dueIf "WATCHDOG_EXPIRY" (!x.g.shadow && decide (s.wdLimit g.ctx ≤ g.wd))
      ((s.raiseAsync g.key cWATCHDOG ((s.waitReason g).setWidth 64) false).bothCopies g.key (fun h => { h with wd := 0 }))

/-! ## Class A traps (R130, R131) -/

/-- The class A trap taken first: the lowest code, the first raised among equals. -/
def firstAsync : List ClassA → Option ClassA
  | [] => none
  | a :: rest =>
    match firstAsync rest with
    | none => some a
    | some b => if b.code.toNat < a.code.toNat then some b else some a

/-- TAKE_CLASS_A_TRAP: the oldest split takes it at a clause boundary or at the instruction it is blocked on, which counts as
not issued: its arrivals are taken back. TIADDR is the address at which it is taken (R130), at a blocked instruction that
instruction's slot address. DEDUCED: log entries 16, 42. -/
def execTakeClassATrap (x : EvGroup) (s : State) : Result :=
  match s.group? x.g with
  | none => notDue "TAKE_CLASS_A_TRAP"
  | some g =>
    match firstAsync g.asyncs, g.oldest with
    | some a, some p =>
      let s1 := s.putGroup { g with asyncs := g.asyncs.erase a }
      let i : TrapInfo := { code := a.code, addr := a.addr, mask := g.splitLive p, iaddr := p.pc, inst := 0, async := true, nores := a.nores, again := false }
      match p.st with
      | .issuing => notDue "TAKE_CLASS_A_TRAP"
      | .blocked w =>
        dueIf "TAKE_CLASS_A_TRAP" (!g.priv && !x.g.shadow && s.undone g w)
          ((s1.takeBack g p.sid w).trapBoth g.key p.sid { i with iaddr := p.iaddr, again := true } p.region)
      | _ => dueIf "TAKE_CLASS_A_TRAP" (!g.priv && !x.g.shadow) (s1.trapBoth g.key p.sid i (some p.pc))
    | _, _ => notDue "TAKE_CLASS_A_TRAP"

/-! ## The end of a group and of a team (R70, R161, R168, R172, R200) -/

/-- A group that has ended goes: its private lines are written back, its tiles are released. -/
def State.removeGroup (s : State) (g : Group) : State :=
  let s1 := s.flushPrivate g.core g.ctx
  (s1.dropTiles g).dropGroup g.key

/-- Every thread has exited and every flag is clear. -/
def Group.ended (g : Group) : Bool := g.threads.all Thread.exited && g.flagsClear

/-- Nothing that a group has issued is still to be performed for it: its loads have brought their results back, so that no entry
awaits one (R114, R115), its stores and atomics stand at their homes (R82, R164, R172), and its copies have landed (R70). -/
def State.workDone (s : State) (g : Group) : Bool :=
  let k : GroupKey := { g.key with shadow := false }
  s.ops.mem.all (fun o => o.g ≠ k || (match o.kind with
    | .pref _ => true
    | _ => false))
    && s.ops.copies.all (fun o => o.g ≠ k) && g.v.all (fun e => e.busy.isNone) && g.wr.all (fun e => e.busy.isNone)

/-- An ended group's positions stay with its team, for a later sort (R99, R103). DEDUCED: log entry 24. -/
def State.keepGone (s : State) (gs : List Group) : State :=
  match gs with
  | [] => s
  | g :: _ =>
    s.modTeam g.key.team (fun t =>
      { t with gone := t.gone ++ gs.map (fun (h : Group) => { h with v := [], wr := [], splits := [], asyncs := [], handler := none }) })

/-- GROUP_END: a stopped drain is abandoned first (R348), and matrix work goes on to its end; both copies of a check pair end together;
a saved group all of whose threads have exited ends where it is. What the group issued without a flag is performed before (R70, R82,
R114). DEDUCED: log entry 41. -/
def execGroupEnd (x : EvGroup) (s : State) : Result :=
  let sh : GroupKey := { x.g with shadow := true }
  match s.group? x.g with
  | some g =>
    let other := s.group? sh
    let s1 := (match other with
      | some h => s.removeGroup h
      | none => s).removeGroup g
    let mine := s.mtx.ops.filter (fun o => o.g = x.g)
    if !x.g.shadow && g.threads.all Thread.exited && mine.any MatOp.stopped then .next (s.setMtx (s.mtx.abandon x.g))
    else if x.g.shadow || !g.ended || !(other.map Group.ended).getD true then notDue "GROUP_END"
    else dueIf "GROUP_END" (mine.isEmpty && s.workDone g && (other.map s.workDone).getD true) ((s1.keepGone (g :: other.toList)).endTeam x.g.team)
  | none =>
    match s.saved.find? (fun y => y.g.key = x.g) with
    | some y =>
      dueIf "GROUP_END" (!x.g.shadow && y.g.ended)
        ((({ s with saved := s.saved.filter (fun z => z.g.key ≠ x.g && z.g.key ≠ sh) }).keepGone
          ((s.saved.map Saved.g).filter (fun h => h.key = x.g || h.key = sh))).endTeam x.g.team)
    | none => notDue "GROUP_END"

end Sys2Proof.Machine
end

