-- ==== Sys2Proof/Machine/SaveRecord.lean ====
section
/-! DEFINITION. The save records of groups and teams, written and read back byte by byte
(spec/09_scheduling_and_preemption.md R211). -/

namespace Sys2Proof.Machine

/-! ## Bytes -/

def zeros (n : Nat) : List Byte := List.replicate n 0#8
/-- A list of bytes filled with zeros up to a multiple of 64. -/
def pad64 (l : List Byte) : List Byte := l ++ zeros ((64 - l.length % 64) % 64)
/-- A field of a record. -/
def bytesAt (l : List Byte) (off n : Nat) : Nat := leNat ((l.drop off).take n)
def dwords (l : List Word64) : List Byte := l.flatMap (fun w => leBytes 8 w.toNat)

/-- An a register in the layout of R73: PTR, BASE, LIMIT and the permissions. -/
def AReg.bytes (a : AReg) : List Byte := dwords [a.ptr, a.base, a.limit, a.permBits]
def AReg.ofBytes (l : List Byte) : AReg :=
  let p := bytesAt l 24 8
  { ptr := nat64 (bytesAt l 0 8), base := nat64 (bytesAt l 8 8), limit := nat64 (bytesAt l 16 8)
    rd := p % 2 = 1, wr := p / 2 % 2 = 1, atm := p / 4 % 2 = 1, pv := p / 8 % 2 = 1 }

/-! ## What a group's record holds -/

/-- Splits in record order: the oldest first. -/
def Group.recSplits (g : Group) : List Split := sortBy Split.age g.splits

/-- Deferral entries of a group in record order, with their splits' places. -/
def Group.recDefers (g : Group) : List Deferred := g.recSplits.flatMap Split.defer

/-- Entries of a latch view that a split may still read: those held within its last two issues (R23). -/
def Split.liveLatch (p : Split) : List (Nat × Held) := (p.latch.mapIdx (fun i h => (i, h))).filter (fun e => decide (e.2.age < 2))

/-- Names in the entry list: a mapped v entry of an octet, a pending one once for each split that holds it, or a w register's
lane octet. DEDUCED: log entry 26. -/
structure RecEnt where
  name : Nat
  octet : Nat
  /-- the owning split's place in record order, where the entry is pending -/
  owner : Option Nat
  vals : List Word32

/-- A split's place in record order. -/
def Group.place (g : Group) (sid : Nat) : Nat := g.recSplits.findIdx (fun p => p.sid = sid)

def Group.recEnts (g : Group) : List RecEnt :=
  g.v.flatMap (fun e =>
      if e.pend.isEmpty then [⟨e.name, e.octet, none, e.vals⟩] else e.pend.map (fun sid => ⟨e.name, e.octet, some (g.place sid), e.vals⟩))
    ++ g.wr.flatMap (fun e => (List.range (g.w / 8)).map (fun o => ⟨256 + e.name, o, none, (e.lanes.drop (8 * o)).take 8⟩))

/-- What a safe-point save marks (R44): the v, s, w, p and x masks; all of them in any other save. -/
structure LiveMask where
  v : BitVec 256
  s : BitVec 64
  w : BitVec 32
  p : BitVec 8
  x : BitVec 8

def LiveMask.all : LiveMask := ⟨~~~0, ~~~0, ~~~0, ~~~0, ~~~0⟩

/-- A register outside the masks is not preserved: what a group has of it after a safe-point save is free (R44, R210).
Every v name outside them is unmapped, as every pending entry is. The a registers, for which a .live entry has no mask, are
preserved, as the split record holds them (R211). DESIGN CHOICE: log entry 42. -/
def Group.keepLive (g : Group) (m : LiveMask) (free : Nat) : Group :=
  let sFree (k : Nat) (l : List Word64) : List Word64 :=
    l.mapIdx (fun n x => if m.s.getLsbD n then x else Config.freeWord (free + 2 ^ 18 + 64 * k + n))
  { g with
    v := g.v.filter (fun e => e.pend.isEmpty && m.v.getLsbD e.name)
    wr := g.wr.filter (fun e => m.w.getLsbD e.name)
    splits := g.splits.mapIdx (fun k p => { p with s := sFree k p.s, latch := [] })
    threads := g.threads.mapIdx (fun t th => { th with
      p := (th.p &&& m.p.setWidth 7) ||| ((Config.freeWord (free + 64 + t)).setWidth 7 &&& ~~~(m.p.setWidth 7))
      acc := th.acc.mapIdx (fun n a =>
        if m.x.getLsbD n then a else Image.ofNat a.wide ((List.range 35).foldl (fun acc i =>
          acc * 2 ^ 64 + (Config.freeWord (free + 1024 + 64 * (4 * t + n) + i)).toNat) 0)) }) }

/-! ## The record -/

/-- The operand of a split that waits on a write pointer (R153): the bound of CPYWAIT, or the operations that CPYWP.RST still
waits for. -/
def State.ptrOperand (s : State) (g : Group) (p : Split) : Nat :=
  match p.instr with
  | .ok (.cpywait x) =>
    (p.bound.getD (match x.b with
     | .reg o => p.s.getD o.num 0
     | .imm n => n.signExtend 64
     | .lit l => l)).toNat
  | .ok (.cpywp x) => (s.ops.copies.filter (fun o => o.g.team = g.key.team && o.core = g.core && o.ch = x.ch.toNat)).length
  | _ => 0

/-- The wait operand of a split: its token, the bound it waits for, or the count that remains (R211). DEDUCED: log entry 26. -/
def State.waitOperand (s : State) (g : Group) (p : Split) : Nat :=
  match p.st with
  | .blocked (.barrier _ tok _) => tok.toNat
  | .blocked (.barLast _ tok _ _) => tok.toNat
  | .blocked (.retry c _) => if c = wWRITEPTR then s.ptrOperand g p else 0
  | _ => if s.waitCode g p = wPAUSE then g.pauseEnd - s.cycle else 0

/-- The split waits on a write pointer (R153). -/
def Split.ptrBlocked (p : Split) : Bool :=
  match p.st with
  | .blocked (.retry c _) => c == wWRITEPTR
  | _ => false

/-- A group as it is kept beside its record, with the operand its record holds of each wait on a write pointer. -/
def State.noteOperands (s : State) (g : Group) : Group :=
  { g with splits := g.splits.map (fun p => if p.ptrBlocked then { p with bound := some (nat64 (s.waitOperand g p)) } else p) }

def Split.stateCode (p : Split) : Nat :=
  match p.st with
  | .boundary => 0
  | .waiting => 1
  | _ => 2

/-- A thread's record. -/
def Thread.bytes (th : Thread) : List Byte :=
  leBytes 1 th.p.toNat ++ leBytes 1 th.fflags.toNat ++ leBytes 8 th.pend.toNat
    ++ leBytes 1 (th.exited.toNat + 2 * th.parked.toNat + 4 * th.done.isSome.toNat) ++ zeros 5 ++ leBytes 4 th.memberid ++ leBytes 4 th.origin ++ zeros 8

def RecEnt.bytes (e : RecEnt) : List Byte :=
  leBytes 2 e.name ++ leBytes 1 e.octet ++ leBytes 1 (match e.owner with
    | some n => 1 + 16 * n
    | none => 0) ++ zeros 4 ++ (e.vals.flatMap (fun w => leBytes 4 w.toNat))

/-- An image in its slot's format (R264). -/
def Image.slotBytes (m : Image) : List Byte :=
  leBytes (imageBytes m.wide) m.toNat ++ zeros ((if m.wide then 384 else 64) - imageBytes m.wide)
def slotBytesOf (wide : Bool) : Nat := if wide then 384 else 64

/-- Tiles a group has in use, by octet and then by tile. -/
def State.recTiles (s : State) (k : GroupKey) : List Tile := sortBy (fun t => 16 * t.octet + t.k) (s.mtx.tiles.filter (fun t => t.g = k))

/-- The trap registers in the order of the header. -/
def TrapRec.words (r : TrapRec) : List Word64 :=
  let m (n : Nat) : Word64 := r.mask.extractLsb' (64 * n) 64
  [r.cause, r.addr, m 0, r.entry, r.iaddr, r.tvec, r.inst, m 1, m 2, m 3, m 4, m 5, m 6, m 7] ++ r.scr

/-- The drain-restart registers in the order of R349. -/
def DrainRegs.words (d : DrainRegs) : List Word64 := [d.cause, d.addr, d.req, d.pos, d.fmt0, d.fmt1, d.aptr, d.abase, d.alim, d.aperm, d.rows]

/-- The sections of a group's record and what its header says of the save. -/
structure SaveKind where
  safe : Bool
  regrouped : Bool
  halt : Bool
  live : Option Nat

/-- Sections 2 to 8 with the place of the latch images: splits, deferrals, latches, threads, entries, images, tiles. -/
def State.sections (s : State) (g : Group) (tiles : List Tile) : List Byte :=
  let ps := g.recSplits
  let fixed := 512 + 1152 * ps.length + (72 * g.recDefers.length + 63) / 64 * 64
  let offs := (ps.foldl (fun (acc : Nat × List (List Nat)) p =>
    let here := p.liveLatch.mapIdx (fun n _ => acc.1 + n * 8 * g.f)
    (acc.1 + p.liveLatch.length * 8 * g.f, acc.2 ++ [here])) (fixed, [])).2
  let split (rank : Nat) (p : Split) : List Byte :=
    let live := p.liveLatch
    let off (n : Nat) : Nat := ((live.mapIdx (fun j e => (e.1, ((offs.getD rank []).getD j 0)))).find? (fun e => e.1 = n)).map Prod.snd |>.getD 0
    let age (n : Nat) : Nat := ((live.find? (fun e => e.1 = n)).map (fun e => e.2.age)).getD 255
    leBytes 8 p.pc.toNat ++ leBytes 8 (p.region.getD 0).toNat ++ leBytes 1 p.stateCode ++ leBytes 1 (s.waitCode g p).toNat ++ leBytes 1 rank
      ++ leBytes 1 (if p.stateCode = 2 then p.slot else 0) ++ zeros 4 ++ leBytes 8 (s.waitOperand g p) ++ leBytes 64 p.mask.toNat
      ++ leBytes 8 (off 0) ++ leBytes 8 (off 1) ++ leBytes 8 (off 2) ++ leBytes 1 (age 0) ++ leBytes 1 (age 1) ++ leBytes 1 (age 2) ++ zeros 5
      ++ dwords p.s ++ p.a.flatMap AReg.bytes
  (ps.mapIdx split).flatten
    ++ pad64 (g.recDefers.flatMap (fun d => leBytes 64 d.mask.toNat ++ leBytes 8 d.pc.toNat))
    ++ ps.flatMap (fun p => p.liveLatch.flatMap (fun e => dwords e.2.vals))
    ++ pad64 (g.threads.flatMap Thread.bytes)
    ++ pad64 (g.recEnts.flatMap RecEnt.bytes)
    ++ g.threads.flatMap (fun th => th.acc.flatMap Image.slotBytes)
    ++ tiles.flatMap (fun t => t.words.flatMap (fun w => leBytes 4 w.toNat))

/-- A group's save record (R211). How many deferral entries each split holds is kept by the group itself. -/
def State.groupRecord (s : State) (g : Group) (tiles : List Tile) (k : SaveKind) : List Byte :=
  let body := s.sections g tiles
  let inUse := tiles.foldl (fun (m : Nat) t => m ||| 2 ^ (16 * t.octet + t.k)) 0
  leBytes 4 1 ++ leBytes 4 (512 + body.length) ++ leBytes 8 g.key.team.launch ++ leBytes 4 g.key.team.team ++ leBytes 1 g.key.group
    ++ leBytes 1 (k.safe.toNat + 2 * k.regrouped.toNat + 4 * k.halt.toNat) ++ leBytes 1 g.splits.length ++ leBytes 1 g.recDefers.length
    ++ leBytes 4 (k.live.getD (2 ^ 32 - 1)) ++ leBytes 4 g.recEnts.length ++ leBytes 8 g.gstat.toNat ++ leBytes 8 g.msel.toNat ++ leBytes 8 g.wd
    ++ leBytes 4 (g.pauseEnd - s.cycle) ++ zeros 4 ++ g.flags.flatMap (fun n => leBytes 1 n) ++ zeros 4 ++ dwords g.trap.words ++ zeros 32
    ++ leBytes 128 inUse ++ dwords g.dr.words ++ zeros (128 - 8 * g.dr.words.length) ++ body

/-! ## Reading a record back -/

/-- The offsets of a record's sections. -/
structure RecMap where
  splits : Nat
  defers : Nat
  threads : Nat
  ents : Nat
  accs : Nat
  tiles : Nat

def Group.recMap (g : Group) (raw : List Byte) : RecMap :=
  let ns := bytesAt raw 0x016 1
  let nd := bytesAt raw 0x017 1
  let ne := bytesAt raw 0x01C 4
  let defers := 512 + 1152 * ns
  let latches := defers + (72 * nd + 63) / 64 * 64
  let nl := ((List.range ns).map (fun i => ((List.range 3).filter (fun n => bytesAt raw (512 + 1152 * i + 0x60 + 8 * n) 8 ≠ 0)).length)).sum
  let threads := latches + nl * 8 * g.f
  let ents := threads + (32 * g.f + 63) / 64 * 64
  let accs := ents + (40 * ne + 63) / 64 * 64
  let per := ((g.threads.head?).map (fun th => (th.acc.map (fun a => slotBytesOf a.wide)).sum)).getD 0
  { splits := 512, defers := defers, threads := threads, ents := ents, accs := accs, tiles := accs + per * g.f }

/-- What a split is blocked on as its record now says: the wait it was saved in, with the token the record holds, or, where the
record names another reason, an instruction that issues again. DEDUCED: log entry 26. -/
def Split.restoreWait (p : Split) (code : BitVec 8) (tok : BitVec 32) : SplitSt :=
  if code ≠ p.waitCode then .blocked (.retry code none)
  else
    match p.st with
    | .blocked (.barrier n _ k) => .blocked (.barrier n tok k)
    | .blocked (.barLast n _ pr m) => .blocked (.barLast n tok pr m)
    | .blocked w => .blocked w
    | _ => .blocked (.retry code none)

/-- The wait operand that a wait on a write pointer goes on with: the record's; but where the count of CPYWP.RST had already come to 0
when it was saved, the wait looks at the channel again. DEDUCED: log entry 26. -/
def Split.restoreBound (p : Split) (code : BitVec 8) (operand : Word64) : Option Word64 :=
  if code = wWRITEPTR && !(operand == 0 && p.bound == some 0) then some operand else none

/-- A split as its record now says, over the split that was saved, with the ages of the group's splits in order. -/
def Split.restore (p : Split) (raw : List Byte) (off f : Nat) (ages : List Nat) : Split :=
  let at1 (o n : Nat) : Nat := bytesAt raw (off + o) n
  let region := at1 0x008 8
  let held (n : Nat) : Option Held :=
    if at1 (0x60 + 8 * n) 8 = 0 || at1 (0x78 + n) 1 = 255 then none
    else some { vals := (List.range f).map (fun t => nat64 (bytesAt raw (at1 (0x60 + 8 * n) 8 + 8 * t) 8)), age := at1 (0x78 + n) 1 }
  let dead : Held := { vals := List.replicate f 0, age := 255 }
  let tok : BitVec 32 := BitVec.ofNat 32 (at1 0x018 8)
  let st := match at1 0x010 1 with
    | 0 => SplitSt.boundary
    | 1 => .waiting
    | _ => p.restoreWait (BitVec.ofNat 8 (at1 0x011 1)) tok
  { p with
    age := ages.getD (at1 0x012 1) p.age
    pc := nat64 (at1 0 8)
    region := if region = 0 && p.region ≠ some 0 then none else some (nat64 region)
    st := st
    bound := if at1 0x010 1 ≤ 1 then none else p.restoreBound (BitVec.ofNat 8 (at1 0x011 1)) (nat64 (at1 0x018 8))
    slot := if at1 0x013 1 = 0 then 1 else at1 0x013 1
    mask := BitVec.ofNat 512 (at1 0x020 64)
    latch := (List.range 3).map (fun n => (held n).getD dead)
    s := (List.range 64).map (fun n => nat64 (at1 (0x080 + 8 * n) 8))
    a := (List.range 16).map (fun n => AReg.ofBytes ((raw.drop (off + 0x280 + 32 * n)).take 32)) }

def Thread.restore (th : Thread) (raw : List Byte) (off id : Nat) : Thread :=
  let b := bytesAt raw (off + 10) 1
  { th with
    p := BitVec.ofNat 7 (bytesAt raw off 1)
    fflags := BitVec.ofNat 5 (bytesAt raw (off + 1) 1)
    pend := BitVec.ofNat 60 (bytesAt raw (off + 2) 8)
    exited := b % 2 = 1
    parked := b / 2 % 2 = 1
    done := if b / 4 % 2 = 1 then some (th.done.getD id) else none
    memberid := bytesAt raw (off + 16) 4
    origin := bytesAt raw (off + 20) 4 }

/-- Images of a thread from its slots, one after another. -/
def restoreAcc (raw : List Byte) : Nat → List Image → List Image
  | _, [] => []
  | off, a :: rest => Image.ofNat a.wide (bytesAt raw off (imageBytes a.wide)) :: restoreAcc raw (off + slotBytesOf a.wide) rest

/-- A pending entry joined with one of the same entry for another split. -/
def joinEnt (acc : List VEnt) (e : VEnt) : List VEnt :=
  if !e.pend.isEmpty && acc.any (fun x => x.name = e.name && x.octet = e.octet && x.seq = e.seq && !x.pend.isEmpty) then
    acc.map (fun x => if x.name = e.name && x.octet = e.octet && x.seq = e.seq && !x.pend.isEmpty then { x with pend := x.pend ++ e.pend } else x)
  else acc ++ [e]

/-- The splits a record counts, over those that were saved; one that a debugger added is new. DEDUCED: log entry 26. -/
def Group.recBase (g : Group) (count : Nat) : List Split :=
  (g.recSplits ++ (List.range 4).map (fun n =>
    ({ Split.fresh 0 0 (List.replicate 64 0) .zero with sid := g.nextSid + n, age := g.nextAge + n, region := none, regionAt := g.seq } : Split))).take (min 4 count)

/-- The v entries a record's list names: in the places of the entries saved, each from the source it was taken from. -/
def Group.restoreV (g : Group) (raw : List Byte) (m : RecMap) : List VEnt :=
  ((List.range (bytesAt raw 0x01C 4)).filterMap (fun i =>
    let off := m.ents + 40 * i
    let name := bytesAt raw off 2
    let octet := bytesAt raw (off + 2) 1
    let kind := bytesAt raw (off + 3) 1
    let vals := (List.range 8).map (fun j => BitVec.ofNat 32 (bytesAt raw (off + 8 + 4 * j) 4))
    let owner := if kind % 2 = 1 then (((g.recBase (bytesAt raw 0x016 1))[kind / 16 % 4]?).map Split.sid).toList else []
    if 256 ≤ name then none
    else
      match g.v.find? (fun e => e.name = name && e.octet = octet && e.pend.isEmpty == owner.isEmpty && owner.all e.pend.contains) with
      | some e => some { e with vals := vals, pend := owner }
      | none => some ⟨name, octet, vals, .pool, g.seq, owner, none⟩)).foldl joinEnt []

/-- The w registers a record's list names. -/
def Group.restoreW (g : Group) (raw : List Byte) (m : RecMap) : List WEnt :=
  let lanes (name : Nat) : List Word32 := (List.range (g.w / 8)).flatMap (fun o =>
    ((List.range (bytesAt raw 0x01C 4)).findSome? (fun i =>
      let off := m.ents + 40 * i
      if bytesAt raw off 2 = 256 + name && bytesAt raw (off + 2) 1 = o then
        some ((List.range 8).map (fun j => BitVec.ofNat 32 (bytesAt raw (off + 8 + 4 * j) 4)))
      else none)).getD (List.replicate 8 0))
  ((List.range 32).filter (fun n => (List.range (bytesAt raw 0x01C 4)).any (fun i => bytesAt raw (m.ents + 40 * i) 2 = 256 + n))).map (fun n =>
    ⟨n, lanes n, none⟩)

/-- Splits with the deferral entries of a record: each takes as many as it was saved with, and the last those that are left. DEDUCED:
log entry 26. -/
def dealDefers : List Deferred → List Split → List Split
  | _, [] => []
  | ds, [p] => [{ p with defer := ds }]
  | ds, p :: ps => { p with defer := ds.take p.defer.length } :: dealDefers (ds.drop p.defer.length) ps

/-- The bits that the reserved fields of a restored register leave (R10): TCAUSE and DRCAUSE (R123), MSEL (R186) and DRPOS (R349). -/
def causeBits : Word64 := 0xFFFF07FF#64
def mselBits : Word64 := 0x8000000000007FFF#64
def drposBits : Word64 := 0xE0FFFFFFFFFFFFEF#64

/-- A mask's 512 bits from TMASK and TMASK1 to TMASK7. -/
def maskWords (l : List Word64) : Mask := BitVec.ofNat 512 (leNat (dwords l))

/-- A group as its record now says (R210, R397), over the group that was saved; reserved fields of its registers keep reading 0
(R10), a PAIRCHK written to 0 ends the comparisons, and a PRIV written to 0 its handler. DEDUCED: log entry 26. -/
def Group.restore (g : Group) (raw : List Byte) (cycle id : Nat) : Group :=
  let m := g.recMap raw
  let w (off : Nat) : Word64 := nat64 (bytesAt raw off 8)
  let tr (n : Nat) : Word64 := w (0x050 + 8 * n)
  let dr (n : Nat) : Word64 := w (0x180 + 8 * n)
  let stat := w 0x020
  let per := ((g.threads.head?).map (fun th => (th.acc.map (fun a => slotBytesOf a.wide)).sum)).getD 0
  let base := g.recBase (bytesAt raw 0x016 1)
  let splits := base.mapIdx (fun n p => p.restore raw (m.splits + 1152 * n) g.f (base.map Split.age))
  let defs := (List.range (min 32 (bytesAt raw 0x017 1))).map (fun n =>
    (⟨BitVec.ofNat 512 (bytesAt raw (m.defers + 72 * n) 64), nat64 (bytesAt raw (m.defers + 72 * n + 64) 8)⟩ : Deferred))
  { g with
    udiv := stat.getLsbD 0
    priv := stat.getLsbD 1
    chk := g.pairchk && stat.getLsbD 2
    det := stat.getLsbD 3
    handler := if stat.getLsbD 1 then g.handler else none
    msel := w 0x028 &&& mselBits
    wd := bytesAt raw 0x030 8
    pauseEnd := if bytesAt raw 0x038 4 = 0 then 0 else cycle + bytesAt raw 0x038 4
    flags := (List.range 12).map (fun n => bytesAt raw (0x040 + n) 1)
    trap := { cause := tr 0 &&& causeBits, addr := tr 1, mask := maskWords [tr 2, tr 7, tr 8, tr 9, tr 10, tr 11, tr 12, tr 13], entry := tr 3 &&& ~~~63#64, iaddr := tr 4 &&& ~~~7#64
              tvec := tr 5 &&& ~~~63#64, inst := tr 6, scr := [tr 14, tr 15, tr 16, tr 17] }
    dr := { cause := dr 0 &&& causeBits, addr := dr 1, req := dr 2 &&& 0xFFFF#64, pos := dr 3 &&& drposBits, fmt0 := dr 4, fmt1 := dr 5, aptr := dr 6, abase := dr 7, alim := dr 8
            aperm := dr 9 &&& 15#64, rows := dr 10 &&& 255#64 }
    splits := dealDefers defs splits
    nextSid := g.nextSid + 4
    nextAge := g.nextAge + 4
    threads := g.threads.mapIdx (fun t th =>
      { th.restore raw (m.threads + 32 * t) id with acc := restoreAcc raw (m.accs + per * t) th.acc })
    v := g.restoreV raw m
    wr := g.restoreW raw m }

/-- The tile images of a record. -/
def Group.restoreTiles (g : Group) (raw : List Byte) (used : Nat) : List Tile :=
  let m := g.recMap raw
  let inUse := bytesAt raw 0x100 128
  ((List.range 1024).filter (fun b => inUse / 2 ^ b % 2 = 1)).mapIdx (fun n b =>
    { g := g.key, cluster := coreCluster g.core, octet := b / 16, k := b % 16
      words := (List.range 256).map (fun i => BitVec.ofNat 32 (bytesAt raw (m.tiles + 1024 * n + 4 * i) 4)), spilled := none, used := used })

/-! ## Team records -/

/-- A barrier's sixteen bytes: G, E, A and the default mark; a default E is the team's live threads (R156). -/
def Barrier.bytes (b : Barrier) (live : Nat) : List Byte :=
  leBytes 4 b.gen.toNat ++ leBytes 4 (match b.exp with
    | .count n => n
    | .default => live
    | .unset => 0) ++ leBytes 4 b.arr ++ leBytes 4 (match b.exp with
    | .default => 1
    | _ => 0)

/-- A team's record, with its number of live threads. -/
def Team.record (t : Team) (live : Nat) : List Byte :=
  let cores := if t.pair then 2 else 1
  let image := cellRead t.spad 0 t.size ++ (if t.pairchk then cellRead t.spad2 0 t.size else [])
  let ptr (h c : Nat) : Word64 :=
    ((t.ptrs.find? (fun p => p.half = h && p.ch = c)).map (fun p => nat64 (p.count % 2 ^ 63 + (if p.failed then 2 ^ 63 else 0)))).getD 0
  leBytes 4 1 ++ leBytes 4 (0x400 + image.length) ++ leBytes 8 t.key.launch ++ leBytes 4 t.key.team ++ leBytes 2 (t.k / 1024) ++ leBytes 1 cores
    ++ leBytes 1 t.regrouped.toNat ++ leBytes 8 (t.area.getD 0) ++ t.bars.flatMap (fun b => b.bytes live)
    ++ dwords ((List.range 16).map (fun n => ptr (n / 8) (n % 8))) ++ zeros 96
    ++ dwords ((List.range 32).flatMap (fun n =>
        match t.origin15.find? (fun o => o.group = n) with
        | some o => [o.base, o.limit]
        | none => [0, 0])) ++ image

/-- A team as its record now says. -/
def Team.restore (t : Team) (raw : List Byte) : Team :=
  let half := t.size
  let body := raw.drop 0x400
  let exp (b : Barrier) (e d : Nat) : Expect :=
    if d % 2 = 1 then .default else if e = 0 then (match b.exp with
      | .count 0 => .count 0
      | _ => .unset) else .count e
  { t with
    bars := t.bars.mapIdx (fun n b =>
      let off := 0x020 + 16 * n
      { b with gen := BitVec.ofNat 32 (bytesAt raw off 4), exp := exp b (bytesAt raw (off + 4) 4) (bytesAt raw (off + 12) 4), arr := bytesAt raw (off + 8) 4 })
    ptrs := (List.range 16).filterMap (fun n =>
      let w := bytesAt raw (0x120 + 8 * n) 8
      if w = 0 then none else some ⟨n / 8, n % 8, 2 ^ 63 ≤ w, w % 2 ^ 63⟩)
    origin15 := t.origin15.map (fun o => { o with
      base := nat64 (bytesAt raw (0x200 + 16 * o.group) 8), limit := nat64 (bytesAt raw (0x208 + 16 * o.group) 8) })
    spad := cellWrite [] 0 (body.take half)
    spad2 := if t.pairchk then cellWrite [] 0 ((body.drop half).take half) else t.spad2 }

end Sys2Proof.Machine
end

