-- ==== Sys2Proof/Machine/Evict.lean ====
section
/-! DEFINITION. Eviction, pre-emption, debug halts and resumption (spec/05_registers_private_memory_traps.md R116, R131;
spec/09_scheduling_and_preemption.md R209 to R211, R214; spec/12_consistency_model.md R260;
spec/21_package_and_system.md R397). -/

namespace Sys2Proof.Machine

/-! ## Saving a group (R210, R260) -/

/-- The resident copies of a group. -/
def State.copiesOf (s : State) (k : GroupKey) : List Group := s.groups.filter (fun g => g.key.team = k.team && g.key.group = k.group)

/-- Nothing of a group is under way: no split is mid-clause, every result has arrived, its flags are zero, its matrix-queue
operations are performed, where a stopped drain counts as drained (R350), and its stores and atomics acknowledged; a WAITC's
entry is kept. DEDUCED: log entry 26. -/
def State.quiet (s : State) (g : Group) : Bool :=
  let k : GroupKey := { g.key with shadow := false }
  let held (f : Nat) : Nat := (s.mtx.ops.filter (fun o => o.g = k && o.stopped && o.flag = some f)).length
  g.noneIssuing && (List.range 12).all (fun f => g.flag f == held f) && g.v.all (fun e => e.busy.isNone || s.mtx.ops.any (fun o => e.busy = some o.id && o.stopped)) && g.wr.all (fun e => e.busy.isNone)
    && g.splits.all (fun p => p.sBusy.isEmpty) && s.mtx.ops.all (fun o => o.g ≠ k || o.stopped)
    && s.ops.mem.all (fun o => o.g ≠ k || (match o.kind with
      | .monitor _ _ _ => true
      | _ => false))
    && s.ops.remote.all (fun o => o.g ≠ k) && s.ops.copies.all (fun o => o.g ≠ k) && s.ops.colls.all (fun o => o.g ≠ k)

/-- How a group is saved. -/
structure SaveAs where
  kind : SaveKind
  regpool : Bool

/-- The groups whose allocations wait when another is evicted under R116: those of its core that stay, each with the cycle of
its last issue. -/
def State.poolFirst (s : State) (g : Group) : List (GroupKey × Nat) :=
  (s.groups.filter (fun h => h.core = g.core && !(h.key.team = g.key.team && h.key.group = g.key.group))).map (fun h => (h.key, h.lastIssue))

/-- One copy is saved and is resident no more: its private lines go back to their homes, its record is written, and its
entries and tiles are free. -/
def State.saveOne (s : State) (g : Group) (h : SaveAs) : Option State :=
  let s0 := s.flushPrivate g.core g.ctx
  let bs := s0.groupRecord g (s0.recTiles g.key) h.kind
  match s0.poolSave g.ctx bs with
  | none => none
  | some (a, s1) =>
    let s2 := s1.dropGroup g.key
    let s3 := s2.dropTiles g
    some { s3 with saved := s3.saved ++
      [{ g := { s0.noteOperands g with evictReq := false, haltReq := false }, addr := a, size := bs.length, safe := h.kind.safe, halted := h.kind.halt
         regpool := h.regpool, first := if h.regpool then s.poolFirst g else [] }] }

/-- Every copy of a group is saved, or none. -/
def State.saveGroup (s : State) (k : GroupKey) (h : SaveAs) : Option State :=
  (s.copiesOf k).foldlM (fun s g => s.saveOne g h) s

/-- The launch of a group, and its place in the order of youth: launch, team, group (R116). -/
def State.youth (s : State) (g : Group) : Nat :=
  ((s.launch? g.key.team.launch).map Launch.order).getD 0 * 2 ^ 40 + g.key.team.team * 64 + g.key.group

/-- Groups on a core, the youngest first. -/
def State.youngest (s : State) (core : Nat) : List Group :=
  (sortBy s.youth (s.groups.filter (fun g => g.core = core))).reverse

def State.teamRegrouped (s : State) (k : TeamKey) : Bool := ((s.team? k).map Team.regrouped).getD false

/-! ## REGPOOL_EVICTION (R116) -/

/-- A split that waits for entries. -/
def Split.poolBlocked (p : Split) : Bool :=
  match p.st with
  | .blocked (.retry c _) => c = wREGPOOL
  | _ => false
/-- A group is blocked with REGPOOL: a split of it waits for entries and none is ready or issuing. DEDUCED: log entry 26. -/
def Group.poolBlocked (g : Group) : Bool := g.splits.any Split.poolBlocked && !g.readyOrIssuing

/-- The threads of a blocked instruction that are active. -/
def Group.blockedMask (g : Group) (p : Split) : Mask :=
  match p.instr with
  | .ok i =>
    match i.view with
    | some w => g.activeMask p w.c
    | none => g.splitLive p
  | .error _ => g.splitLive p

/-- REG_EXHAUSTED at the instruction of a group's oldest split that waits for entries. -/
def State.exhaust (s : State) (g : Group) : State :=
  match (sortBy Split.age (g.splits.filter Split.poolBlocked)).head? with
  | none => s
  | some p => s.trapBoth g.key p.sid (p.trapInfo cREG_EXHAUSTED 0 (g.blockedMask p)) p.region

/-- REGPOOL_EVICTION: every resident group of a core is blocked with REGPOOL, and the youngest is evicted; where its record
finds no room it raises REG_EXHAUSTED. -/
def execRegpoolEviction (x : EvCore) (s : State) : Result :=
  match s.youngest x.core with
  | g :: h :: rest =>
    let k : GroupKey := { g.key with shadow := false }
    if !(g :: h :: rest).all Group.poolBlocked || !(s.copiesOf k).all s.quiet then notDue "REGPOOL_EVICTION"
    else
      match s.saveGroup k ⟨⟨false, s.teamRegrouped k.team, false, none⟩, true⟩ with
      | some s1 => .next s1
      | none => .next (s.exhaust g)
  | _ => notDue "REGPOOL_EVICTION"

/-! ## Who is evicted (R209) -/

/-- The priority of a queue: 0 is the highest (R196). -/
def prioOf (q : Nat) : Nat := q / 16

/-- The priority of a context on a core: that of its most urgent launch resident there. -/
def State.prioOn (s : State) (ctx core : Nat) : Option Nat :=
  ((s.groups.filter (fun g => g.ctx = ctx && g.core = core)).filterMap (fun g => (s.launch? g.key.team.launch).map (fun l => prioOf l.q))).foldl
    (fun (acc : Option Nat) p =>
      match acc with
      | none => some p
      | some q => some (min p q)) none

/-- Some core or pair takes a team of a launch as it is. -/
def State.fitsSome (s : State) (r : LRec) : Bool := (List.range 384).any (fun c => s.fits r c)

/-- Launches of other contexts with a team that waits and fits no core, the most urgent first. -/
def State.waitingLaunches (s : State) (ctx : Nat) : List Launch :=
  sortBy (fun l => prioOf l.q) (s.launches.filter (fun l =>
    l.ctx ≠ ctx && !l.allDispatched && (match s.firstGoing l with
      | some (_, true) => true
      | _ => false) && (l.lrec.priv = 0 || l.freeArea.isSome) && !s.fitsSome l.lrec))

/-- Evicted teams of other contexts that wait to resume: their launches (R210). -/
def State.waitingTeams (s : State) (ctx : Nat) : List Launch :=
  sortBy (fun l => prioOf l.q) (s.launches.filter (fun l =>
    l.ctx ≠ ctx && s.savedTeams.any (fun t => t.t.key.launch = l.handle) && !s.fitsSome l.lrec))

/-- The group's launch lets pre-emption take it: one in deterministic mode needs safe points (R210); a halted group's slice
does not expire (R397). -/
def State.preemptible (s : State) (g : Group) : Bool :=
  !g.haltReq && (!g.det || ((s.launch? g.key.team.launch).map (fun l => l.lrec.safecount != 0)).getD false)

/-- The state with some groups evicted: their contexts, entries and images are free, and the scratchpad of a team that has
none left. -/
def State.without (s : State) (ks : List GroupKey) : State :=
  let gone (k : GroupKey) : Bool := ks.contains { k with shadow := false }
  let left := s.groups.filter (fun g => !gone g.key)
  let stays (t : Team) : Bool := left.any (fun g => g.key.team = t.key) || s.saved.any (fun x => x.g.key.team = t.key && (x.halted || x.regpool))
    || !ks.any (fun k => k.team = t.key)
  { s with groups := left, teams := s.teams.filter stays }

/-- The slice of a context on a core has expired. -/
def State.sliceSpent (s : State) (ctx core : Nat) : Bool :=
  ((s.ctx? ctx).map (fun c => ((c.slices.find? (fun e => e.1 = core)).map (fun e => s.passed e.2 c.tslice)).getD false)).getD false

/-- A waiting team of a launch may take the place of a context on a core: it is more urgent, or as urgent and the context's slice
there has expired. -/
def State.yieldsTo (s : State) (l : Launch) (ctx core : Nat) : Bool :=
  ctx != l.ctx && (match s.prioOn ctx core with
    | some p => decide (prioOf l.q < p) || (decide (prioOf l.q = p) && s.sliceSpent ctx core)
    | none => false)

/-- The cores a team of a launch would take: the core, or the pair it belongs to. -/
def LRec.coresAt (r : LRec) (core : Nat) : List Nat := if r.pair then [core / 2 * 2, core / 2 * 2 + 1] else [core]

/-- The shortest list of groups after whose eviction a team of a launch fits a core or its pair: those of the pre-empted context,
youngest first, and after them those of the other contexts that the team may take the place of there. -/
def State.victims (s : State) (ctx core : Nat) (l : Launch) : Option (List GroupKey) :=
  let here := (sortBy s.youth (s.groups.filter (fun g =>
    !g.key.shadow && (l.lrec.coresAt core).contains g.core && s.preemptible g && s.yieldsTo l g.ctx g.core))).reverse
  let cand := (here.filter (fun g => g.ctx = ctx) ++ here.filter (fun g => g.ctx ≠ ctx)).map Group.key
  ((List.range (cand.length + 1)).map (fun n => cand.take n)).find? (fun ks => (s.without ks).fits l.lrec ((l.lrec.coresAt core).headD core))

/-- Groups on a core are chosen for eviction. DEDUCED: log entry 26. -/
def State.chooseVictims (s : State) (ctx core : Nat) (ls : List Launch) : Option State :=
  match ls.findSome? (fun l => s.victims ctx core l) with
  | none => none
  | some ks =>
    let fresh (g : Group) : Bool := ks.contains { g.key with shadow := false } && !g.evictReq
    if s.groups.any fresh then some { s with groups := s.groups.map (fun g => if fresh g then { g with evictReq := true } else g) } else none

/-- TIME_SLICE_EXPIRY: a context's slice on a core is over and another's team of equal or higher priority waits. -/
def execTimeSliceExpiry (x : EvCtxCore) (s : State) : Result :=
  match s.prioOn x.ctx x.core with
  | some p =>
    let ls := (s.waitingLaunches x.ctx ++ s.waitingTeams x.ctx).filter (fun l => decide (prioOf l.q ≤ p))
    if !s.sliceSpent x.ctx x.core then notDue "TIME_SLICE_EXPIRY"
    else
      match s.chooseVictims x.ctx x.core ls with
      | some s1 => .next s1
      | none => notDue "TIME_SLICE_EXPIRY"
  | none => notDue "TIME_SLICE_EXPIRY"

/-- PRIORITY_PREEMPTION: a waiting team is more urgent than a resident context. -/
def execPriorityPreemption (x : EvCtxCore) (s : State) : Result :=
  match s.prioOn x.ctx x.core with
  | some p =>
    match s.chooseVictims x.ctx x.core ((s.waitingLaunches x.ctx ++ s.waitingTeams x.ctx).filter (fun l => decide (prioOf l.q < p))) with
    | some s1 => .next s1
    | none => notDue "PRIORITY_PREEMPTION"
  | none => notDue "PRIORITY_PREEMPTION"

/-! ## Safe points (R44, R210) -/

/-- The entries of a .safe table. -/
def State.safeTable (s : State) (ctx : Nat) (r : LRec) : Option (List (Nat × Nat)) :=
  (s.devRead ctx r.safe.toNat (8 * r.safecount)).map (fun bs =>
    (List.range r.safecount).map (fun i => (leNat ((bs.drop (8 * i)).take 4), leNat ((bs.drop (8 * i + 4)).take 4))))

/-- The .live index of a clause that is a safe point: its one entry stands in ascending order. A clause's offset from ENTRY is
compared modulo 2^32, so that one below ENTRY, or 4 GiB or more beyond it, has an offset too. DESIGN CHOICE: log entry 40. -/
def State.safeIndex (s : State) (ctx : Nat) (r : LRec) (pc : Word64) : Option Nat :=
  let off := (pc - r.entry).toNat % 2 ^ 32
  match s.safeTable ctx r with
  | none => none
  | some es =>
    match (es.mapIdx (fun i e => (i, e))).filter (fun e => e.2.1 = off) with
    | [(i, e)] => if (es.take i).all (fun x => decide (x.1 < off)) && (es.drop (i + 1)).all (fun x => decide (off < x.1)) then some e.2 else none
    | _ => none

/-- A .live entry. -/
def State.liveEntry (s : State) (ctx : Nat) (r : LRec) (n : Nat) : Option LiveMask :=
  (s.devRead ctx (r.live.toNat + 48 * n) 48).map (fun bs =>
    ⟨BitVec.ofNat 256 (bytesAt bs 0 32), BitVec.ofNat 64 (bytesAt bs 32 8), BitVec.ofNat 32 (bytesAt bs 40 4), BitVec.ofNat 8 (bytesAt bs 44 1),
     BitVec.ofNat 8 (bytesAt bs 45 1)⟩)

/-- DEDUCED: log entry 26. -/
def LiveMask.join (a b : LiveMask) : LiveMask := ⟨a.v ||| b.v, a.s ||| b.s, a.w ||| b.w, a.p ||| b.p, a.x ||| b.x⟩

/-- Every split stands at a safe point: the .live index of the oldest, and what the splits' entries mark. DEDUCED: log entry 26. -/
def State.safePoint (s : State) (g : Group) (r : LRec) : Option (Nat × LiveMask) :=
  match (sortBy Split.age g.splits).mapM (fun p =>
    match p.st with
    | .boundary => (s.safeIndex g.ctx r p.pc).bind (fun n => (s.liveEntry g.ctx r n).map (fun m => (n, m)))
    | _ => none) with
  | some (e :: es) => some (e.1, es.foldl (fun m x => m.join x.2) e.2)
  | _ => none

/-- The M-dies that the reading of the .safe table and of a .live entry reaches count as touched (R382). -/
def State.safeTouch (s : State) (g : Group) (r : LRec) (n : Nat) : State :=
  (s.devTouch g.ctx r.safe.toNat (8 * r.safecount) .load).devTouch g.ctx (r.live.toNat + 48 * n) 48 .load

/-! ## GROUP_EVICTION (R210) -/

/-- A team whose last resident group is saved goes with it: its record is written and its scratchpad is free. None where a
deferred arrival or a channel operation is outstanding, or the pool has no room. -/
def State.evictTeam (s : State) (k : TeamKey) : Option State :=
  match s.team? k with
  | none => some s
  | some t =>
    if s.groups.any (fun g => g.key.team = k) || s.saved.any (fun x => x.g.key.team = k && (x.halted || x.regpool)) then some s
    else if !t.defers.isEmpty || s.ops.copies.any (fun o => o.g.team = k) then none
    else
      match s.poolSave t.ctx (t.record (s.teamLive k)) with
      | none => none
      | some (a, s1) =>
        some { s1 with teams := s1.teams.filter (fun u => u.key ≠ k), savedTeams := s1.savedTeams ++ [⟨t, a, (t.record (s.teamLive k)).length⟩] }

/-- Both copies keep only what a .live entry marks; the pending entries are freed. -/
def State.keepBoth (s : State) (k : GroupKey) (m : LiveMask) : State :=
  let s1 := s.bothCopies k (fun g => g.keepLive m s.sched.free)
  s1.setSched { s1.sched with free := s1.sched.free + 2 ^ 19 }

/-- GROUP_EVICTION: a group chosen for it is saved at an allowed point. -/
def execGroupEviction (x : EvGroup) (s : State) : Result :=
  match s.group? x.g with
  | none => notDue "GROUP_EVICTION"
  | some g =>
    let k := x.g
    if k.shadow || !g.evictReq || g.priv || g.haltReq || !g.asyncs.isEmpty || !(s.copiesOf k).all s.quiet then notDue "GROUP_EVICTION"
    else
      let as (live : Option Nat) : SaveAs := ⟨⟨live.isSome, s.teamRegrouped k.team, false, live⟩, false⟩
      let done (s1 : Option State) : Result :=
        match s1.bind (fun t => t.evictTeam k.team) with
        | some t => .next t
        | none => notDue "GROUP_EVICTION"
      if !g.det then done (s.saveGroup k (as none))
      else
        match s.launch? k.team.launch with
        | none => notDue "GROUP_EVICTION"
        | some l =>
          if l.lrec.safecount = 0 || ((s.team? k.team).map (fun t => t.defers.any (fun d => d.g = k))).getD false then notDue "GROUP_EVICTION"
          else
            match s.safePoint g l.lrec with
            | none => notDue "GROUP_EVICTION"
            | some (n, m) => done (((s.safeTouch g l.lrec n).keepBoth k m).saveGroup k (as (some n)))

/-! ## DEBUG_HALT (R397) -/

/-- The completion entry of a debug halt. -/
def State.postHalt (s : State) (g : Group) : State :=
  let atBkpt := g.splits.any (fun p => match p.st with
    | .blocked .halted => true
    | _ => false)
  let cause := if atBkpt then cBREAKPOINT else if g.priv then g.trap.cause.setWidth 8 else 0
  s.post g.ctx g.key.team.launch (completionWord g.key.team.team cause 5)

/-- A group that eviction had saved counts as halted: the header's bit is set. -/
def State.haltSaved (s : State) (k : GroupKey) : State :=
  let sh : GroupKey := { k with shadow := true }
  let mine (y : Saved) : Bool := y.g.key = k || y.g.key = sh
  let s1 := (s.saved.filter mine).foldl (fun (s : State) y =>
    s.poolWrite y.g.ctx (y.addr + 0x15) [(cellGet s.mem.cells (y.addr + 0x15)) ||| 4#8]) s
  { s1 with saved := s1.saved.map (fun y => if mine y then { y with g := { y.g with haltReq := false }, halted := true } else y) }

/-- DEBUG_HALT: a group that is to halt stands at its boundary, and is saved and reported. -/
def execDebugHalt (x : EvGroup) (s : State) : Result :=
  match s.group? x.g with
  | some g =>
    if x.g.shadow || !g.haltReq || g.trapPends || !(s.copiesOf x.g).all s.quiet then notDue "DEBUG_HALT"
    else
      match s.saveGroup x.g ⟨⟨false, s.teamRegrouped x.g.team, true, none⟩, false⟩ with
      | some s1 => .next (s1.postHalt g)
      | none => notDue "DEBUG_HALT"
  | none =>
    match s.saved.find? (fun y => y.g.key = x.g) with
    | some y => dueIf "DEBUG_HALT" (!x.g.shadow && y.g.haltReq && !y.halted) ((s.haltSaved x.g).postHalt y.g)
    | none => notDue "DEBUG_HALT"

/-! ## GROUP_RESUME (R116, R210, R260, R397) -/

/-- A group as it is saved fits a core beside what is resident there. -/
def State.takesBack (s : State) (g : Group) (core : Nat) : Bool :=
  let here := s.groups.filter (fun h => h.core = core)
  decide (core < 384) && s.pkg.healthy.getLsbD (coreDie core) && !s.dieLost (coreDie core) && !s.pkg.badCores.contains core
    && decide (here.length + 1 ≤ 32) && decide ((here.map Group.f).sum + g.f ≤ 16384)
    && decide (s.poolUsed core + g.need ≤ 16384) && decide ((here.map Group.units).sum + g.units ≤ 5184)

/-- An evicted team fits a core, or the pair that begins there. -/
def State.takesTeam (s : State) (t : Team) (core : Nat) : Bool :=
  let room (c : Nat) : Bool :=
    decide (c < 384) && s.pkg.healthy.getLsbD (coreDie c) && !s.dieLost (coreDie c) && !s.pkg.badCores.contains c
      && decide (((s.teamsOn c).map Team.k).sum + t.k ≤ 320 * 1024) && !(s.teamsOn c).any Team.pairchk && (!t.pairchk || (s.teamsOn c).isEmpty)
  if t.pair then core % 2 == 0 && room core && room (core + 1) else room core

/-- The core of one copy of a group, in a team that begins at a core. -/
def Team.coreFor (t : Team) (core : Nat) (k : GroupKey) : Nat :=
  if !t.pair then core else if t.pairchk then (if k.shadow != (t.lost == some core) then core + 1 else core) else if k.group < 16 then core else core + 1

/-- An evicted team is resident again: its record is read back. -/
def State.resumeTeam (s : State) (v : SavedTeam) (core : Nat) : State :=
  let t := { v.t.restore (cellRead s.mem.cells v.addr v.size) with core := core }
  let cores := if t.pair then [core, core + 1] else [core]
  let s1 := { s.poolFreeAt t.ctx v.addr with teams := s.teams ++ [t], savedTeams := s.savedTeams.filter (fun u => u.t.key ≠ t.key) }
  cores.foldl (fun (s : State) c => (s.touch t.ctx (coreDie c)).l1Fit c) s1

/-- A split whose record names another clause than the one it stopped in: it fetches that clause, and where it is not blocked, or
the clause cannot be read or does not reach its slot, it starts it anew. DEDUCED: log entry 26. -/
def State.refetch (s : State) (g : Group) (was : List (Nat × Word64)) (p : Split) : Split :=
  if was.contains (p.sid, p.pc) then p
  else
    match p.st, s.fetchClause g.core g.ctx g.fetchMember p.pc.toNat with
    | .blocked _, .ok (h, ws) => if p.slot ≤ ws.length then { p with header := h, code := ws } else { p with st := .boundary, slot := 1 }
    | _, _ => { p with st := .boundary, slot := 1 }

/-- One copy is resident again: its record is read back, its tiles with it, and its waits go on. -/
def State.resumeOne (s : State) (y : Saved) (core : Nat) : State :=
  let raw := cellRead s.mem.cells y.addr y.size
  let g0 := y.g.restore raw s.cycle s.sched.nextId
  let g1 := if y.safe then { g0 with splits := g0.splits.map (fun p => { p with region := some p.pc, regionAt := g0.seq }) } else g0
  let g2 : Group := { g1 with
    core := core
    splits := g1.splits.map ((s.startSlice g1.ctx core).refetch { g1 with core := core } (y.g.splits.map (fun (p : Split) => (p.sid, p.pc)))) }
  let k : GroupKey := { g2.key with shadow := false }
  let s1 := s.startSlice g2.ctx core
  let s2 := { s1 with
    groups := s1.groups ++ [g2]
    saved := s1.saved.filter (fun z => z.g.key ≠ y.g.key)
    mtx := { s1.mtx with tiles := s1.mtx.tiles ++ g2.restoreTiles raw s.cycle } }
  let s3 := if y.g.key.shadow then s2
    else s2.setOps { s2.ops with mem := s2.ops.mem.map (fun o => if o.g = k then { o with core := core } else o) }
  let s4 := (s3.poolFreeAt g2.ctx y.addr).acquire k core g2.ctx (if core = y.g.core then .dev else .sys)
  let held := g2.splits.filter (fun p => match p.st with
    | .blocked .halted => true
    | _ => false)
  held.foldl (fun (s : State) p => s.passInstr g2.key p.sid) s4

/-- The context's slices begin anew, on every core where it has one, when its last evicted group has resumed (R209). -/
def State.restartSlices (s : State) (ctx core : Nat) : State :=
  if s.saved.any (fun y => y.g.ctx = ctx && !y.halted && !y.regpool) then s
  else s.modCtx ctx (fun c => { c with slices := (insertKey c.slices core s.cycle).map (fun e => (e.1, s.cycle)) })

/-- The copies of a group take their cores again, where each fits and its tiles find room (R341, R342, R350). -/
def State.resumeCopies (s : State) (t : Team) (core : Nat) (ys : List Saved) : Option State :=
  ys.foldlM (fun s y =>
    let c := t.coreFor core y.g.key
    if s.takesBack y.g c then
      (s.tileRooms (coreCluster c) (y.g.restoreTiles (cellRead s.mem.cells y.addr y.size) 0).length).map (fun s => s.resumeOne y c)
    else none) s

/-- GROUP_RESUME: an evicted group takes a core again, the lowest team of its launch first. -/
def execGroupResume (x : EvResume) (s : State) : Result :=
  let ys := s.saved.filter (fun y => y.g.key.team = x.g.team && y.g.key.group = x.g.group)
  match ys with
  | [] => notDue "GROUP_RESUME"
  | y :: _ =>
    let before (z : Saved) : Bool := !z.halted && z.g.key.team.launch = x.g.team.launch && decide (z.g.key.team.team < x.g.team.team)
    let owed (z : Saved) : Bool := z.regpool && z.g.core = x.core && z.g.key.team ≠ x.g.team && !y.regpool
    if x.g.shadow || ys.any Saved.halted || s.saved.any before || s.saved.any owed then notDue "GROUP_RESUME"
    else
      match s.team? x.g.team with
      | some t =>
        if x.core ≠ t.coreFor t.core x.g then notDue "GROUP_RESUME"
        else
          match s.resumeCopies t t.core ys with
          | some s1 => .next (s1.restartSlices y.g.ctx x.core)
          | none => notDue "GROUP_RESUME"
      | none =>
        match s.savedTeams.find? (fun v => v.t.key = x.g.team) with
        | none => notDue "GROUP_RESUME"
        | some v =>
          let first := if v.t.pair then x.core / 2 * 2 else x.core
          if x.core ≠ v.t.coreFor first x.g || !s.takesTeam v.t first then notDue "GROUP_RESUME"
          else
            match (s.resumeTeam v first).resumeCopies v.t first ys with
            | some s1 => .next (s1.restartSlices y.g.ctx x.core)
            | none => notDue "GROUP_RESUME"

end Sys2Proof.Machine
end

