-- ==== Sys2Proof/Machine/Ends.lean ====
section
/-! DEFINITION. What ends from outside: the loss of a core (spec/05_registers_private_memory_traps.md R132;
spec/04_groups_and_members.md R110) and of a die (spec/21_package_and_system.md R381, R383), the island's leave
(spec/20_fabric_and_island.md R373, R374), and the end of a context (R395). -/

namespace Sys2Proof.Machine

/-! ## Groups that vanish -/

/-- Everything that some groups have under way is gone. -/
def State.purge (s : State) (gone : GroupKey → Bool) : State :=
  let mems := s.ops.mem.filter (fun o => gone o.g)
  let mats := (s.mtx.ops.filter (fun o => gone o.g)).map MatOp.id
  { s with
    ops := { mem := s.ops.mem.filter (fun o => !gone o.g), pts := s.ops.pts.filter (fun o => !gone o.g)
             remote := s.ops.remote.filter (fun o => !gone o.g), copies := s.ops.copies.filter (fun o => !gone o.g)
             colls := s.ops.colls.filter (fun o => !gone o.g) }
    mem := { s.mem with monitors := s.mem.monitors.filter (fun m => !mems.any (fun o => o.id = m.op)) }
    mtx := { s.mtx with
      ops := s.mtx.ops.filter (fun o => !gone o.g)
      tiles := s.mtx.tiles.filter (fun t => !gone t.g)
      curb := s.mtx.curb.map (fun w => { w with stalled := w.stalled.filter (fun e => !gone e.key.g) })
      run := s.mtx.run.filter (fun r => !mats.contains r.op)
      drains := s.mtx.drains.filter (fun d => !mats.contains d.op) }
    isl := { s.isl with holds := s.isl.holds.filter (fun h => match h.key with
      | .issue k _ => !gone k.g
      | .op id => !(mats.contains id || s.ops.colls.any (fun o => o.id = id && gone o.g))
      | .dev _ _ => true) }
    sched := { s.sched with issue := s.sched.issue.filter (fun k => !gone k.g), cur := s.sched.cur.filter (fun k => !gone k.g) } }

/-- Groups are gone, resident and saved, with all they had under way. -/
def State.vanish (s : State) (gone : GroupKey → Bool) : State :=
  let s1 := (s.saved.filter (fun y => gone y.g.key)).foldl (fun (s : State) y => s.poolFreeAt y.g.ctx y.addr) (s.purge gone)
  { s1 with
    groups := s1.groups.filter (fun g => !gone g.key)
    saved := s1.saved.filter (fun y => !gone y.g.key)
    teams := s1.teams.map (fun t => { t with defers := t.defers.filter (fun d => !gone d.g) }) }

/-- What a core's caches hold of it is lost. -/
def State.dropCore (s : State) (core : Nat) : State :=
  s.setMem { s.mem with l1 := s.mem.l1.filter (fun l => l.core ≠ core), tlb := s.mem.tlb.filter (fun e => e.unit ≠ core) }

/-- A team ends with its core: its launch reports DIE_LOST (R383). -/
def State.loseTeam (s : State) (t : Team) : State :=
  ((s.vanish (fun k => k.team = t.key)).modLaunch t.key.launch (fun l => l.report t.key.team cDIE_LOST)).endTeam t.key

/-! ## CORE_UNCORRECTABLE_ERROR (R110, R132) -/

/-- The groups of a team that are resident on a core. -/
def State.onCore (s : State) (t : Team) (core : Nat) : List Group := s.groups.filter (fun g => g.key.team = t.key && g.core = core)

/-- The survivor of a check pair runs as the primary copy. -/
def Group.asPrimary (g : Group) : Group := { g with key := { g.key with shadow := false } }

/-- The matrix work of a check pair's surviving copy goes on as the primary's (R110, R351), under the primary's request ids, which
the restart registers of a stopped drain name (R348); an element in progress begins anew. -/
def Matrix.losePair (m : Matrix) (t : TeamKey) (first : Bool) : Matrix :=
  let lost (k : GroupKey) : Bool := k.team = t && k.shadow != first
  let keep (k : GroupKey) : GroupKey := if k.team = t then { k with shadow := false } else k
  let stays (o : MatOp) : Bool := !lost o.g || o.mate.isNone
  let was (o : MatOp) (f : MatOp → Bool) : Bool := m.ops.any (fun p => some p.id = o.mate && f p)
  let ids (o : MatOp) (r : MatReq) : BitVec 16 := ((m.ops.find? (fun p => p.g.team = t && !p.g.shadow && some p.id = o.mate)).bind (fun p => p.reqs.find? (fun q => q.octet = r.octet))).elim r.id MatReq.id
  let at1 (d : DrainAt) : DrainAt := match m.ops.find? (fun o => o.id = d.op && !stays o) with
    | some o => { d with op := o.mate.getD d.op }
    | none => d
  { m with
    ops := (m.ops.filter stays).map (fun o =>
      if o.g.team = t then { o with
        g := keep o.g, mate := none, reqs := o.reqs.map (fun r => { r with id := ids o r })
        stopped := o.stopped || was o MatOp.stopped, cut := o.cut || was o MatOp.cut } else o)
    tiles := (m.tiles.filter (fun e => !lost e.g)).map (fun e => { e with g := keep e.g })
    curb := m.curb.map (fun w => { w with stalled := (w.stalled.filter (fun e => !lost e.key.g)).map (fun e => { e with key := { e.key with g := keep e.key.g } }) })
    run := m.run.filter (fun r => !m.ops.any (fun o => o.id = r.op && o.g.team = t))
    drains := m.drains.map at1 }

/-- A check pair loses a core: the surviving copy goes on alone, on its core. -/
def State.losePair (s : State) (t : Team) (core : Nat) : State :=
  let first := core == t.core
  let rest := s.groups.filter (fun g => !(g.key.team = t.key && g.core = core))
  { s with
    groups := rest.map (fun g => if g.key.team = t.key then g.asPrimary else g)
    saved := (s.saved.filter (fun y => !(y.g.key.team = t.key && y.g.key.shadow != first))).map (fun y =>
      if y.g.key.team = t.key then { y with g := y.g.asPrimary } else y)
    teams := s.teams.map (fun u => if u.key = t.key then { u with
      spad := if first then u.spad2 else u.spad, lost := some core
      gone := (u.gone.filter (fun g => g.key.shadow = first)).map Group.asPrimary } else u)
    mtx := s.mtx.losePair t.key first
    ops := { s.ops with
      mem := s.ops.mem.map (fun o => if o.g.team = t.key && o.core = core then { o with core := if first then core + 1 else core - 1 } else o)
      remote := s.ops.remote.map (fun o => if o.g.team = t.key && o.core = core then { o with core := if first then core + 1 else core - 1 } else o)
      copies := s.ops.copies.map (fun o => if o.g.team = t.key && o.core = core then { o with core := if first then core + 1 else core - 1 } else o)
      colls := s.ops.colls.map (fun o => if o.g.team = t.key && o.core = core then { o with core := if first then core + 1 else core - 1 } else o) } }

/-- A team of 17 to 32 groups loses a core: the groups there are gone, and the barriers still count their threads. -/
def State.loseHalf (s : State) (t : Team) (core : Nat) : State :=
  let upper := core != t.core
  let gone (k : GroupKey) : Bool := k.team = t.key && (decide (16 ≤ k.group) == upper)
  let live := (((s.teamGroups t.key).filter (fun g => gone g.key)).map (fun g => (g.threads.filter (fun th => !th.exited && !th.parked)).length)).sum
  (s.vanish gone).modTeam t.key (fun u => { u with lost := some core, lostLive := u.lostLive + live })

/-- What one team loses with a core: all of it, or a half whose survivors raise PAIR_LOST. -/
def State.loseShare (s : State) (t : Team) (core : Nat) : State :=
  if !t.pair || t.lost.isSome then s.loseTeam t
  else
    let s1 := if t.pairchk then s.losePair t core else s.loseHalf t core
    { s1 with
      groups := s1.groups.map (fun g => if g.key.team = t.key then { g with asyncs := g.asyncs ++ [⟨cPAIR_LOST, BitVec.ofNat 64 core, false⟩] } else g)
      saved := s1.saved.map (fun y =>
        if y.g.key.team = t.key then { y with g := { y.g with asyncs := y.g.asyncs ++ [⟨cPAIR_LOST, BitVec.ofNat 64 core, false⟩] } } else y) }

/-- A core suffers an uncorrectable error: its teams lose it, and no team is placed there again. -/
def State.loseCore (s : State) (core : Nat) : State :=
  let s1 := (s.teamsOn core).foldl (fun (s : State) t => s.loseShare t core) s
  let s2 := s1.dropCore core
  s2.setPkg { s2.pkg with badCores := addOnce s2.pkg.badCores core }

/-- CORE_UNCORRECTABLE_ERROR. -/
def execCoreUncorrectableError (x : EvCore) (s : State) : Result :=
  dueIf "CORE_UNCORRECTABLE_ERROR" (decide (x.core < 384) && !s.pkg.badCores.contains x.core) (s.loseCore x.core)

/-! ## The island leaves JOINED (R374) -/

/-- Requests to other devices that have not been answered: their responses and wakes are still to come. -/
def State.requestsOut (s : State) : List Orphan :=
  let dev := s.pkg.device.toNat
  let open' (o : MemOp) : Nat := (o.pieces.filter (fun p => p.open' && s.elsewhere p.pa)).length
  (s.ops.remote.filter (fun o => o.peer ≠ dev)).map (fun o => ⟨o.id, 1, false⟩)
    ++ ((s.ops.mem.filter (fun o => !s.mem.monitors.any (fun m => m.op = o.id) && open' o != 0)).map (fun o => ⟨o.id, open' o, false⟩))
    ++ (s.mem.monitors.filter (fun m => decide (1024 ≤ m.die))).map (fun m => ⟨m.op, 1, true⟩)

/-- An instance to which this device has not contributed counts it absent. -/
def State.absentFrom (s : State) (d : Nat) (i : Instance) : Instance :=
  if i.parts.any (fun p => p.dev = d) || !(s.collGroup i.key.grp).mask.getLsbD d then i
  else { i with absent := i.absent ||| BitVec.twoPow 512 d }

/-- Retained lines of some contexts become normal (R187). -/
def Mem.unretain (m : Mem) (which : HomeLine → Bool) : Mem :=
  { m with hl2 := m.hl2.map (fun h => if h.cls = 2#2 && which h then { h with cls := 0, ways := 0 } else h) }

/-- The compute dies are reset: every context ends, and with it all that ran (step 5). DEDUCED: log entry 32. -/
def State.resetCompute (s : State) : State :=
  let m := s.mem.unretain (fun _ => true)
  { s with
    groups := [], teams := [], launches := [], ctxs := [], past := [], saved := [], savedTeams := []
    mem := { m with l1 := [], rdc := [], tlb := [], monitors := m.monitors.filter (fun e => e.peer.isSome) }
    ops := .reset
    mtx := .reset
    sched := { s.sched with issue := [], cur := none }
    born := s.cycle }

/-- A change of the island's state is announced on channel 5: to every device that stands in an entry of the group table with this
one, and to the plane switch of each port, with the instances whose contributions from here are kept (R373, R374). DESIGN CHOICE:
log entries 27, 31. -/
def State.announce (s : State) : State :=
  let me := s.pkg.device.toNat
  let kept := (s.isl.insts.filter (fun i => i.parts.any (fun p => p.dev = me))).map Instance.key
  let dests := (s.isl.colls.filter (fun g => g.member me)).foldl (fun m g => m ||| g.mask) 0#512 &&& ~~~devBit me
  let s1 := if dests = 0#512 then s else s.sendPacket 1025 5 dests 0 (.island s.isl.st kept)
  (List.range 32).foldl (fun (s : State) p => s.sendPacket (512 + p) 5 0 0 (.island s.isl.st kept)) s1

/-- The leave sequence: kept contributions and absences go on up the tree. DEDUCED: log entry 32. -/
def State.leave (s : State) : State :=
  let i := { s.isl with
    st := .islandOnly
    orphans := s.isl.orphans ++ s.requestsOut
    insts := s.isl.insts.map (s.absentFrom s.pkg.device.toNat)
    holds := [] }
  (s.setIsl i).announce.sendUps.resetCompute

/-- The island goes to OFF: its ports stop, and its registers and buffers are gone; compute leaves first. -/
def State.islandOff (s : State) : State :=
  let s1 := if s.isl.st = .joined then s.leave else s
  s1.setIsl { Island.reset with st := .off }

/-! ## A die is lost (R381, R383) -/

/-- The dies lost with a die. -/
def lostWith (die : Nat) : List Nat :=
  if die = 8 then [8, 0, 1, 2, 3, 10, 11, 12, 13] else if die = 9 then [9, 4, 5, 6, 7, 14, 15, 16, 17] else [die]

/-- The lowest healthy die. -/
def lowestHealthy (h : BitVec 19) : Nat := ((List.range 19).find? (fun d => h.getLsbD d)).getD 0

/-- A die is listed as lost, and its healthy bit falls. -/
def Package.loseDie (p : Package) (die : Nat) : Package :=
  let dies := if p.dies.any (fun d => d.id = die) then p.dies.map (fun d => if d.id = die then { d with lost := true } else d)
    else p.dies ++ [⟨die, false, 0, true⟩]
  { p with dies := dies, healthy := p.healthy &&& ~~~(BitVec.twoPow 19 die) }

/-- The master is elected again where it is lost (R381). -/
def Package.reelect (p : Package) : Package :=
  if p.healthy.getLsbD p.master.toNat || p.healthy = 0 then p else { p with master := BitVec.ofNat 8 (lowestHealthy p.healthy) }

/-- Groups of each context whose mask holds a lost die raise DIE_LOST, saved ones at their resumption. DEDUCED: log entry 33. -/
def State.raiseLost (s : State) (die : Nat) : State :=
  let hit (ctx : Nat) : Bool := ((s.ctx? ctx).map (fun c => c.touched.getLsbD die)).getD false
  let add (g : Group) : Group := if hit g.ctx then { g with asyncs := g.asyncs ++ [⟨cDIE_LOST, BitVec.ofNat 64 die, false⟩] } else g
  { s with groups := s.groups.map add, saved := s.saved.map (fun y => { y with g := add y.g }) }

/-- Teams with a core on a C-die end; a pair lies within one die. -/
def State.loseCDie (s : State) (die : Nat) : State :=
  let s1 := (s.teams.filter (fun t => coreDie t.core = die)).foldl (fun (s : State) t => s.loseTeam t) s
  let unitOf (u : Nat) : Nat := if u < 384 then coreDie u else u - 384
  s1.setMem { s1.mem with l1 := s1.mem.l1.filter (fun l => coreDie l.core ≠ die), tlb := s1.mem.tlb.filter (fun e => unitOf e.unit ≠ die) }

/-- A base die's RDC goes with it. -/
def State.loseBDie (s : State) (die : Nat) : State := s.setMem { s.mem with rdc := s.mem.rdc.filter (fun l => l.bdie ≠ die), walks := s.mem.walks.filter (fun e => e.bdie ≠ die) }

/-- Every C-die is lost. -/
def Package.noCompute (p : Package) : Bool := (List.range 8).all (fun d => p.dies.any (fun x => x.id = d && x.lost))

/-- The steps of R383 for a die and those lost with it. -/
def State.loseDie (s : State) (die : Nat) : State :=
  let new := (lostWith die).filter (fun d => !s.dieLost d)
  let s1 := s.setPkg (new.foldl Package.loseDie s.pkg).reelect
  if die = 18 then (s1.raiseLost 18).islandOff
  else if s1.isl.st = .joined && s1.pkg.noCompute then s1.leave
  else
    let s2 := (new.filter (fun d => decide (d < 8))).foldl (fun (s : State) d => s.loseCDie d) s1
    let s3 := if 8 ≤ die && die < 10 then s2.loseBDie die else s2
    new.foldl (fun (s : State) d => s.raiseLost d) s3

/-- DIE_FAULT_REPORT: a die reports an uncorrectable fault. -/
def execDieFaultReport (x : EvDie) (s : State) : Result :=
  dueIf "DIE_FAULT_REPORT" (decide (x.die < 19) && !s.dieLost x.die) (s.loseDie x.die)

/-- HEARTBEAT_MISS: a die misses the master's heartbeat for 100 microseconds. -/
def execHeartbeatMiss (x : EvDie) (s : State) : Result :=
  dueIf "HEARTBEAT_MISS" (decide (x.die < 19) && s.pkg.windowClosed && s.pkg.healthy.getLsbD x.die && !s.dieLost x.die) (s.loseDie x.die)

end Sys2Proof.Machine
end

