-- ==== Sys2Proof/Machine/Link.lean ====
section
/-! DEFINITION. Ports, flits and link keys (spec/20_fabric_and_island.md R360 to R367, R377 to R379). -/

namespace Sys2Proof.Machine

/-! ## Ports -/

/-- One direction of a port before any key is loaded. DESIGN CHOICE: log entry 8. -/
def PortDir.fresh : PortDir := { keys := [(false, 0), (false, 0)], slot := false, counter := 0, seq := 0 }
/-- A port that is down, at its limits of 64 flits a channel. DESIGN CHOICE: log entry 8. -/
def Port.fresh (n : Nat) : Port :=
  { port := n, up := false, trained := false, tx := .fresh, rx := .fresh, replay := [], fails := 0, nakSeq := none
    unfreed := List.replicate 8 0, limits := List.replicate 8 64, recvd := List.replicate 8 0, owed := List.replicate 8 0
    period := 0, periodAt := 0, stalledAt := none, part := none }

def slotIx (b : Bool) : Nat := if b then 1 else 0
/-- A slot holds a key that has not been spent. -/
def PortDir.holds (d : PortDir) (slot : Bool) : Bool := ((d.keys[slotIx slot]?).map Prod.fst).getD false
def PortDir.key (d : PortDir) : BitVec 256 := ((d.keys[slotIx d.slot]?).map Prod.snd).getD 0
/-- A key change (R378): the new slot from counter 0, the old key spent. DEDUCED: log entry 31. -/
def PortDir.change (d : PortDir) (slot : Bool) : PortDir :=
  { d with slot := slot, counter := 0, keys := d.keys.mapIdx (fun i k => if i = slotIx slot then k else (false, k.2)) }
/-- One flit more has been sent or accepted for the first time (R361, R377). -/
def PortDir.advance (d : PortDir) : PortDir := { d with seq := d.seq + 1, counter := d.counter + 1 }

/-- A port of this device that may be up. -/
def State.portOr (s : State) (n : Nat) : Port := (s.port? n).getD (.fresh n)
def State.putPort (s : State) (p : Port) : State :=
  s.setIsl { s.isl with ports := insertBy Port.port p (s.isl.ports.filter (fun q => q.port ≠ p.port)) }

/-! ## Flits as they travel (R361, R377) -/

/-- A flit's TYPE codes. -/
def tyIdle : BitVec 4 := 0
def tyData : BitVec 4 := 1
def tyLending : BitVec 4 := 2
def tyMarker : BitVec 4 := 3

/-- The eight header bytes. -/
def headerBytes (f : Flit) : List Byte :=
  leBytes 8 ((f.ty ++ f.ch ++ BitVec.ofBool f.slot ++ f.seq ++ f.ack ++ BitVec.ofBool f.nak ++ f.crch ++ f.cred ++ f.resv : BitVec 64).toNat)
/-- The 232 payload bytes before encryption. -/
def payloadBytes (f : Flit) : List Byte := (f.payload ++ List.replicate 232 0#8).take 232
/-- The port field of an IV, and the IV. -/
def portField (dev port : Nat) (fromSwitch slot : Bool) : BitVec 32 :=
  BitVec.ofNat 32 (dev % 512 * 2 ^ 23 + port % 32 * 2 ^ 18 + fromSwitch.toNat * 2 ^ 17 + slot.toNat * 2 ^ 16)
def flitIv (dev port : Nat) (fromSwitch slot : Bool) (counter : Nat) : BitVec 96 := portField dev port fromSwitch slot ++ BitVec.ofNat 64 counter

/-- The 256 bytes of a flit this device sends: the header in clear, then the ciphertext and the tag. -/
def State.wire (s : State) (p : Port) (f : SentFlit) : List Byte :=
  let iv := flitIv s.pkg.device.toNat p.port false f.flit.slot f.counter
  let key := ((p.tx.keys[slotIx f.flit.slot]?).map Prod.snd).getD 0
  headerBytes f.flit ++ (List.range 248).map (Config.flitCipher key iv (headerBytes f.flit ++ payloadBytes f.flit))

/-- A flit of this port's transmitter, with the acknowledgement and the credits it returns (R361, R364). -/
def Port.makeFlit (p : Port) (ty : BitVec 4) (ch : BitVec 3) (packet : Option Packet) (payload : List Byte) : Flit :=
  let c := ((List.range 8).find? (fun i => p.owed.getD i 0 != 0)).getD 0
  { ty := ty, ch := ch, slot := p.tx.slot, seq := p.tx.seq, ack := p.rx.seq - 1, nak := p.nakSeq.isSome, crch := BitVec.ofNat 3 c
    cred := BitVec.ofNat 8 (min 255 (p.owed.getD c 0)), resv := 0, packet := packet, payload := payload }

/-- A flit goes out for the first time: it is kept for replay, and its credits are spent. -/
def Port.sendFirst (p : Port) (f : Flit) : Port :=
  { p with
    tx := p.tx.advance
    replay := p.replay ++ [⟨f, p.tx.counter, false⟩]
    owed := p.owed.set f.crch.toNat (p.owed.getD f.crch.toNat 0 - f.cred.toNat)
    unfreed := if f.ty = tyData then p.unfreed.set f.ch.toNat (p.unfreed.getD f.ch.toNat 0 + 1) else p.unfreed }

/-- A port may send something new: its buffer has room, nothing is to be resent, and it is not stalled. DEDUCED: log entry 31. -/
def Port.maySend (p : Port) : Bool := p.up && decide (p.replay.length < 128) && !p.replay.any SentFlit.resend && p.stalledAt.isNone

/-- The first port that is up, from a number on and round (R360, R366). -/
def State.upFrom (s : State) (n : Nat) : Option Nat := ((List.range 32).map (fun i => (n + i) % 32)).find? (fun n => (s.portOr n).up)

/-- The port a packet takes: for a unicast packet the next one up, round-robin (R360); for one to a plane switch that plane's
(R373); for a multicast the lowest-numbered one up at or above its queue's number modulo 32 (R366). -/
def State.portFor (s : State) (k : Packet) : Option Nat :=
  if k.dst < 512 then s.upFrom s.isl.nextPort else if k.dst < 1024 then some (k.dst - 512) else s.upFrom (k.queue % 32)

/-- The flits a packet takes: eight at most (R364). -/
def packetFlits (k : Packet) : Nat := max 1 ((k.data.length + 231) / 232)

/-- The channel of a kind of traffic (R364). -/
def trafficChannel : Traffic → BitVec 3
  | .request => 0
  | .response => 1
  | .urgent => 2
  | .broadcast => 5
  | .atomic => 6
  | .management => 7

/-- The channel of what a packet is about (R192, R364). -/
def noteChannel : Note → BitVec 3
  | .bytes t => trafficChannel t
  | .request _ _ t => trafficChannel t
  | .reply _ _ => 1
  | .wake _ _ => 2
  | .part _ => 3
  | .ending _ _ _ => 4
  | .island _ _ => 5

/-- A packet travels on the channel of its traffic (R364); a multicast is on channel 4 or 5 (R366). DEDUCED: log entry 31. -/
def channelOk (k : Packet) : Bool :=
  k.ch == noteChannel k.note && (decide (k.dst < 1024) || k.ch == 4#3 || k.ch == 5#3)

/-! ## Requests of this device as packets (R192, R364) -/

/-- The traffic that a piece of a memory operation is: urgent what is about a monitor or an LDRA, and what was evicted three times. -/
def MemOp.traffic (o : MemOp) (p : Piece) : Traffic :=
  if 3 ≤ p.drops then .urgent
  else
    match o.kind with
    | .ldra => .urgent
    | .monitor _ _ _ => .urgent
    | .atomic _ _ _ => .atomic
    | .redla _ _ => .atomic
    | _ => .request

/-- What an operation asks of another device now, and the traffic it is: a pass of a remote queue, the n-th piece of a memory
operation, the n-th unit of a copy, the n-th octet of a matrix move. DEDUCED: log entry 31. -/
def State.asks (s : State) (id n dst : Nat) : Option Traffic :=
  let at1 (pas : List (Nat × Nat × Nat × BitVec 10)) : Bool := pas.any (fun p => s.elsewhere p.2.2.1 && frameDev p.2.2.1 == dst)
  let passes := s.ops.remote.filter (fun o => o.id = id && n == 0 && o.peer == dst && o.peer != s.pkg.device.toNat)
  let pieces := ((s.memOp? id).bind (fun o => (o.pieces[n]?).map (fun p => (o, p)))).filter (fun e =>
    s.homeDue e.1 e.2 && s.elsewhere e.2.pa && frameDev e.2.pa == dst)
  let units := s.ops.copies.any (fun o => o.id = id && o.done = n && ((o.units[n]?).map (fun u => at1 u.pas)).getD false)
  let moves := s.mtx.ops.any (fun o => o.id = id && o.granted && ((o.reqs[n]?).map (fun r => at1 r.pas)).getD false)
  match passes.head?, pieces with
  | some o, _ => some (match o.kind with
    | .atomic _ _ => .atomic
    | _ => .request)
  | none, some (o, p) => some (o.traffic p)
  | none, none => if units || moves then some .request else none

/-! ## FLIT_TRANSMISSION (R360, R362, R364, R377, R379) -/

/-- The first flit marked for resending goes out once more, byte for byte. -/
def Port.resendNext : List SentFlit → List SentFlit
  | [] => []
  | f :: fs => if f.resend then { f with resend := false } :: fs else f :: resendNext fs

/-- What a port has of a destination, not acknowledged or still going out. -/
def Port.carries (p : Port) (dst : Nat) : Bool :=
  p.replay.any (fun f => (f.flit.packet.map (fun k => k.dst == dst)).getD false) || (p.part.map (fun k => k.1.dst == dst)).getD false

/-- Nothing of its source's order goes before a packet: a multicast is the first of its queue and class that waits, and no other port
has one on its way (R366, R367). -/
def State.inTurn (s : State) (port : Nat) (k : Packet) : Bool :=
  decide (k.dst < 1024)
    || (((s.isl.outbox.find? (fun x => x.dst = k.dst)).map (fun x => x == k)).getD true && !s.isl.ports.any (fun p => p.port != port && p.carries k.dst))

/-- A packet may go out: one that waits, or a new one with the next number for its destination (R363), of bytes that the island is
handed, or of a request that has not gone yet. -/
def State.packetDue (s : State) (k : Packet) : Bool :=
  s.isl.outbox.contains k || (k.src = s.pkg.device.toNat && k.num == lookupD s.isl.nums k.dst 0
    && (match k.note with
      | .bytes t => (t == .broadcast) == decide (1024 ≤ k.dst)
      | .request op n t => s.asks op n k.dst == some t && !s.isl.asked.contains (op, n, k.dst)
      | _ => false))

/-- A packet as it goes out names the device as it then is (R402). -/
def State.stamp (s : State) (k : Packet) : Packet := if k.src = unsentSrc then { k with src := s.pkg.device.toNat } else k

/-- A packet leaves for a port. -/
def State.takePacket (s : State) (n : Nat) (p : Packet) : State :=
  let next := if p.dst < 512 then (n + 1) % 32 else s.isl.nextPort
  if s.isl.outbox.contains p then s.setIsl { s.isl with outbox := s.isl.outbox.erase p, nextPort := next }
  else
    let asked := match p.note with
      | .request op m _ => (op, m, p.dst) :: s.isl.asked.filter (fun e => (s.asks e.1 e.2.1 e.2.2).isSome)
      | _ => s.isl.asked
    s.setIsl { s.isl with nums := insertKey s.isl.nums p.dst (p.num + 1), nextPort := next, asked := asked }

/-! ## OFF after a reset request (R373) -/

/-- A packet that a port can send waits, or is going out. -/
def State.sending (s : State) : Bool :=
  s.isl.ports.any (fun p => p.up && p.part.isSome) || s.isl.outbox.any (fun k => ((s.portFor k).map (fun n => (s.portOr n).up)).getD false)

/-- An island whose reset request met JOINED turns OFF once what it had accepted is sent. -/
def State.offIfSent (s : State) : State := if s.isl.offAfter && !s.sending then s.islandOff else s

/-- How many flits of a packet a port has sent: none of one it may begin now, where no other is going out there. -/
def State.flitsSent (s : State) (p : Port) (k : Packet) : Option Nat :=
  match p.part with
  | some (q, n) => if q = k then some n else none
  | none => if s.packetDue k && s.portFor k == some p.port && s.inTurn p.port k && decide (packetFlits k ≤ 8) && channelOk k then some 0 else none

/-- The next flit of a packet goes out; the last names the packet, which is then complete at the receiver. -/
def Port.sendNext (p : Port) (k : Packet) (n : Nat) : Port :=
  let last := n + 1 = packetFlits k
  { p.sendFirst (p.makeFlit tyData k.ch (if last then some k else none) ((k.data.drop (232 * n)).take 232)) with
    part := if last then none else some (k, n + 1) }

/-- FLIT_TRANSMISSION: a resent flit first, then the next flit of a packet, where its channel's limit admits it, or an idle flit;
a port stalled for a key sends nothing (R379). -/
def execFlitTransmission (x : EvSend) (s : State) : Result :=
  let p := s.portOr x.port
  if 32 ≤ x.port || !p.up || s.isl.st = .off || p.stalledAt.isSome then notDue "FLIT_TRANSMISSION"
  else if p.replay.any SentFlit.resend then
    dueIf "FLIT_TRANSMISSION" x.packet.isNone (s.putPort { p with replay := Port.resendNext p.replay })
  else if !p.maySend || decide (s.isl.rekeyth - 1 ≤ p.tx.counter) then notDue "FLIT_TRANSMISSION"
  else
    match x.packet with
    | none => .next (s.putPort (p.sendFirst (p.makeFlit tyIdle 0 none [])))
    | some k =>
      match s.flitsSent p k with
      | none => notDue "FLIT_TRANSMISSION"
      | some n =>
        dueIf "FLIT_TRANSMISSION" (x.ch == k.ch && decide (p.unfreed.getD k.ch.toNat 0 < p.limits.getD k.ch.toNat 0))
          ((if n = 0 then s.takePacket x.port k else s).putPort (p.sendNext (s.stamp k) n)).offIfSent

/-! ## A port goes down (R363) -/

/-- The packets of a replay buffer, and one whose flits have not all gone out, wait for other ports, before what waits already. -/
def State.portDown (s : State) (p : Port) : State :=
  let s1 := s.putPort { p with up := false, trained := false, replay := [], fails := 0, nakSeq := none, stalledAt := none, part := none }
  s1.setIsl { s1.isl with outbox := p.replay.filterMap (fun f => f.flit.packet) ++ (p.part.map Prod.fst).toList ++ s.isl.outbox }

/-- PORT_DOWN. -/
def execPortDown (x : EvPort) (s : State) : Result :=
  dueIf "PORT_DOWN" (s.isl.st != .off && (s.portOr x.port).up) (s.portDown (s.portOr x.port)).offIfSent

/-- PORT_UP (R360): the link has trained and both slots of both directions hold keys. -/
def execPortUp (x : EvPort) (s : State) : Result :=
  let p := s.portOr x.port
  dueIf "PORT_UP" (decide (x.port < 32) && s.isl.st != .off && !p.up && p.tx.holds false && p.tx.holds true && p.rx.holds false && p.rx.holds true)
    (s.putPort { p with
      up := true, trained := true, tx := { p.tx with seq := 0 }, rx := { p.rx with seq := 0 }, unfreed := List.replicate 8 0
      limits := List.replicate 8 64, recvd := List.replicate 8 0, owed := List.replicate 8 0, period := 0, periodAt := s.cycle, part := none })

/-! ## FLIT_RECEIVE (R361 to R365) -/

/-- Flits that an ACK covers leave the replay buffer. -/
def Port.acked (p : Port) (ack : BitVec 12) : Port :=
  match p.replay.findIdx? (fun f => f.flit.seq = ack) with
  | some i => { p with replay := p.replay.drop (i + 1) }
  | none => p

/-- The flit of a SEQ and every later one are sent again. -/
def Port.naked (p : Port) (seq : BitVec 12) : Port :=
  match p.replay.findIdx? (fun f => f.flit.seq = seq) with
  | some i => { p with replay := (p.replay.drop i).map (fun f => { f with resend := true }) }
  | none => p

/-- Credits return (R364). -/
def Port.freed (p : Port) (ch : BitVec 3) (n : Nat) : Port := { p with unfreed := p.unfreed.set ch.toNat (p.unfreed.getD ch.toNat 0 - n) }

/-- A flit authenticates in order. DEDUCED: log entry 31. -/
def Port.accept (p : Port) : Port := { p with rx := p.rx.advance, nakSeq := none, fails := 0 }

/-- What an accepted header says to this port's transmitter. -/
def Port.hear (p : Port) (f : Flit) : Port :=
  let q := (p.acked f.ack).freed f.crch f.cred.toNat
  if f.nak then q.naked (f.ack + 1) else q

/-- New limits are applied to what is sent from now on (R365). -/
def Port.lend (p : Port) (limits : List Nat) : Port := { p with limits := limits }

/-- A packet is taken once (R363). DEDUCED: log entry 31. -/
def State.acceptPacket (s : State) (p : Packet) : State :=
  if s.isl.accepted.contains (p.src, p.num) || p.dst ≠ s.pkg.device.toNat then s
  else s.setIsl { s.isl with accepted := s.isl.accepted ++ [(p.src, p.num)], inbox := s.isl.inbox ++ [p] }

def State.countAuthfail (s : State) : State := s.setIsl { s.isl with authfail := bump64 s.isl.authfail }

/-- A flit fails its check: it and those after it are discarded until its SEQ comes again; the eighth failure of one SEQ in a
row takes the port down (R362). DEDUCED: log entry 4. -/
def State.flitFails (s : State) (p : Port) : State :=
  let q := { p with nakSeq := some p.rx.seq, fails := p.fails + 1 }
  if 8 ≤ q.fails then (s.countAuthfail.portDown q).offIfSent else s.countAuthfail.putPort q

/-- The limits a lending flit carries. -/
def lentLimits (payload : List Byte) : List Nat := (List.range 8).map (fun i => leNat ((payload.drop (4 + 2 * i)).take 2))

/-- A flit that authenticated in SEQ order. -/
def State.takeFlit (s : State) (p : Port) (f : Flit) : State :=
  if 4 ≤ f.ty.toNat || f.resv != 0 then s.countAuthfail.putPort p.accept
  else
    let q := p.accept.hear f
    if f.ty = tyData then
      let r := { q with
        recvd := q.recvd.set f.ch.toNat (q.recvd.getD f.ch.toNat 0 + 1), owed := q.owed.set f.ch.toNat (q.owed.getD f.ch.toNat 0 + 1) }
      match f.packet with
      | some k => (s.putPort r).acceptPacket k
      | none => s.putPort r
    else if f.ty = tyLending then s.putPort (q.lend (lentLimits f.payload))
    else if f.ty = tyMarker then s.putPort { q with rx := q.rx.change ((f.payload.getD 0 0).getLsbD 0) }
    else s.putPort q

/-- FLIT_RECEIVE. -/
def execFlitReceive (x : EvFlit) (s : State) : Result :=
  let p := s.portOr x.port
  if 32 ≤ x.port || !p.up || s.isl.st = .off then notDue "FLIT_RECEIVE"
  else if x.flit.seq ≠ p.rx.seq then .next s
  else if !x.ok || x.flit.slot != p.rx.slot then .next (s.flitFails p)
  else .next (s.takeFlit p x.flit)

/-- NAK_RECEIVE (R362). -/
def execNakReceive (x : EvNak) (s : State) : Result :=
  let p := s.portOr x.port
  dueIf "NAK_RECEIVE" (p.up && p.replay.any (fun f => f.flit.seq = x.seq)) (s.putPort (p.naked x.seq))

/-! ## Lending (R365) -/

/-- The limits for a period in which u flits came on each channel. -/
def lendLimits (u : List Nat) : List Nat :=
  let total := u.sum
  if total = 0 then List.replicate 8 64
  else
    let parts := (List.range 8).map (fun c => 448 * u.getD c 0 / total)
    let more := 448 - parts.sum
    parts.mapIdx (fun c f => 8 + f + (if c < more then 1 else 0))

/-- Core cycles in a lending period: 640 ns. -/
def lendingCycles : Nat := 1440

/-- LENDING_PERIOD: the receiver announces its new limits. -/
def execLendingPeriod (x : EvPort) (s : State) : Result :=
  let p := s.portOr x.port
  let limits := lendLimits p.recvd
  let payload := leBytes 4 p.period ++ limits.flatMap (leBytes 2)
  dueIf "LENDING_PERIOD" (decide (x.port < 32) && s.isl.st != .off && p.maySend && decide (p.periodAt + lendingCycles ≤ s.cycle)
      && decide (p.tx.counter < s.isl.rekeyth - 1))
    (s.putPort { p.sendFirst (p.makeFlit tyLending 7 none payload) with
      recvd := List.replicate 8 0, period := p.period + 1, periodAt := s.cycle })

/-- LENDING_FLIT_RECEIVE: the next flit in order is a lending flit. -/
def execLendingFlitReceive (x : EvLend) (s : State) : Result :=
  let p := s.portOr x.port
  dueIf "LENDING_FLIT_RECEIVE" (s.isl.st != .off && p.up && p.nakSeq.isNone && x.limits.length == 8) (s.putPort (p.accept.lend x.limits))

/-! ## Keys (R377 to R379) -/

/-- LINK_KEY_LOAD: firmware loads a key into a slot that is not in use. -/
def execLinkKeyLoad (x : EvLinkKey) (s : State) : Result :=
  let p := s.portOr x.port
  let load (d : PortDir) : PortDir := { d with
    keys := d.keys.set (slotIx x.slot) (true, x.key), counter := if d.slot = x.slot then 0 else d.counter }
  let q := if x.tx then { p with tx := load p.tx, stalledAt := none } else { p with rx := load p.rx }
  dueIf "LINK_KEY_LOAD" (decide (x.port < 32) && s.isl.st != .off && (!p.up || x.slot != (if x.tx then p.tx.slot else p.rx.slot)))
    (s.putPort q)

/-- The marker goes out under the old slot, and the transmitter changes keys. -/
def Port.sendMarker (p : Port) : Port :=
  let new := !p.tx.slot
  let q := p.sendFirst (p.makeFlit tyMarker 0 none [if new then 1#8 else 0#8])
  { q with tx := q.tx.change new, stalledAt := none }

/-- KEY_CHANGE_MARKER. -/
def execKeyChangeMarker (x : EvMarker) (s : State) : Result :=
  let p := s.portOr x.port
  dueIf "KEY_CHANGE_MARKER" (decide (x.port < 32) && s.isl.st != .off && p.maySend && x.slot != p.tx.slot && x.seq == p.tx.seq && p.tx.holds x.slot)
    (s.putPort p.sendMarker)

/-- MARKER_RECEIVE: the next flit in order is a marker, and the receiver changes keys. -/
def execMarkerReceive (x : EvMarker) (s : State) : Result :=
  let p := s.portOr x.port
  let q := p.accept
  dueIf "MARKER_RECEIVE" (s.isl.st != .off && p.up && x.seq == p.rx.seq && x.slot != p.rx.slot) (s.putPort { q with rx := q.rx.change x.slot })

/-- REKEY_THRESHOLD: the counter has come to THRESH - 1: the marker goes as soon as a flit may, or, where the idle slot holds no new
key, the port sends nothing more, resent flits neither. -/
def execRekeyThreshold (x : EvPort) (s : State) : Result :=
  let p := s.portOr x.port
  dueIf "REKEY_THRESHOLD" (s.isl.st != .off && p.up && p.stalledAt.isNone && (p.maySend || !p.tx.holds (!p.tx.slot)) && decide (s.isl.rekeyth - 1 ≤ p.tx.counter))
    (s.putPort (if p.tx.holds (!p.tx.slot) then p.sendMarker else { p with stalledAt := some s.cycle }))

/-- REKEY_STALL_TIMEOUT: a port stalled for 1 ms goes down. -/
def execRekeyStallTimeout (x : EvPort) (s : State) : Result :=
  let p := s.portOr x.port
  dueIf "REKEY_STALL_TIMEOUT" (p.up && (p.stalledAt.map (fun c => s.passed c 1000)).getD false) (s.portDown p).offIfSent

/-! ## MULTICAST_DELIVERY (R366, R367, R371) -/

/-- The place of the next multicast of one source, class and queue. -/
def State.nextPlace (s : State) (src : Nat) (b : Bool) (q : Nat) : Nat :=
  ((s.isl.mcasts.find? (fun e => e.1 = src && e.2.1 = b && e.2.2.1 = q)).map (fun e => e.2.2.2)).getD 0

/-- A multicast arrives here: a collective's end is delivered as its root's; one for an instance that has ended is
discarded. -/
def execMulticastDelivery (x : EvMulticast) (s : State) : Result :=
  let me := s.pkg.device.toNat
  let s1 := s.setIsl { s.isl with
    mcasts := (x.src, x.classB, x.queue, x.num + 1) :: s.isl.mcasts.filter (fun e => !(e.1 = x.src && e.2.1 = x.classB && e.2.2.1 = x.queue)) }
  let s2 := match x.coll with
    | none => s1
    | some (k, sig, fin) =>
      if (s1.endedInst? k).isSome then s1.setIsl { s1.isl with colllate := bump64 s1.isl.colllate }
      else s1.endInstance { s1.instFor k with sig := sig } fin
  dueIf "MULTICAST_DELIVERY" (s.isl.st != .off && decide (me < 512) && x.dests.getLsbD me && x.num == s.nextPlace x.src x.classB x.queue
      && (x.coll.isNone || !x.classB)) s2

end Sys2Proof.Machine
end

