-- ==== Sys2Proof/Machine/Boot.lean ====
section
/-! DEFINITION. Boot, the package master and temperature (spec/21_package_and_system.md R380, R381, R392, R399), and the
island's states (spec/20_fabric_and_island.md R373). -/

namespace Sys2Proof.Machine

/-! ## Boot (R380, R381, R392) -/

/-- DIE_BOOT: a die's image is verified, or fails, within the window of R380, which holds every die; without the I-die's firmware
there is no island. DEDUCED: log entry 4. -/
def execDieBoot (x : EvBoot) (s : State) : Result :=
  dueIf "DIE_BOOT" (decide (x.die < 19) && !s.pkg.dies.any (fun d => d.id = x.die) && !s.pkg.windowClosed)
    (let p := { s.pkg with dies := s.pkg.dies ++ [⟨x.die, x.ok, if x.ok then x.digest else 0, false⟩] }
     if x.die ≠ 18 then s.setPkg p
     else if x.ok then s.setPkg p
     else (s.setPkg p).islandOff)

/-- A die whose signature holds and that has reported ready. -/
def Package.isReady (p : Package) (d : Nat) : Bool := p.dies.any (fun x => x.id = d && x.ready && !x.lost)

/-- The management record of the flash is taken (R392). DEDUCED: log entry 4. -/
def Package.takeRecord (p : Package) : Package :=
  if p.hosted then p
  else
    match Config.managementRecord with
    | some r => { p with device := r.device, mgmtHost := r.manager.setWidth 10, featAct0 := p.featAct0 ||| 0x40#64, mgmtRead := true }
    | none => { p with mgmtRead := true }

/-- The dies that have reported ready. -/
def Package.ready (p : Package) : BitVec 19 :=
  (List.range 19).foldl (fun h d => if p.isReady d then h ||| BitVec.twoPow 19 d else h) 0#19

/-- The window closes: a die that has not reported is unhealthy and takes no part, as a lost one; those of an unhealthy
base die are lost; the master is elected. DEDUCED: log entry 4. -/
def Package.closeWindow (p : Package) : Package :=
  let cut := (List.range 19).filter (fun d => !p.isReady d)
    ++ (if p.isReady 8 then [] else (lostWith 8).drop 1) ++ (if p.isReady 9 then [] else (lostWith 9).drop 1)
  let q : Package := cut.foldl Package.loseDie { p with healthy := p.ready, windowClosed := true }
  if q.healthy = 0 then q else { q with master := BitVec.ofNat 8 (lowestHealthy q.healthy) }

/-- BOOT_WINDOW_EXPIRY: the master, where one is elected, reads the management record; an island whose die has not reported is
OFF. -/
def execBootWindowExpiry (s : State) : Result :=
  let p := s.pkg.closeWindow
  let s1 := s.setPkg (if p.healthy = 0 then p else p.takeRecord)
  dueIf "BOOT_WINDOW_EXPIRY" (!s.pkg.windowClosed) (if s.pkg.isReady 18 then s1 else s1.islandOff)

/-! ## Island states (R373) -/

/-- ISLAND_POWER_GOOD: an I-die that has not booted, or that is lost, brings no island up (R380). -/
def execIslandPowerGood (x : EvPower) (s : State) : Result :=
  dueIf "ISLAND_POWER_GOOD" (s.isl.st == .off && x.verified && s.pkg.isReady 18)
    (s.setIsl { s.isl with st := .islandOnly }).announce

/-- Every healthy C-die and B-die reports ready, and a master is elected. DEDUCED: log entry 32. -/
def State.canJoin (s : State) : Bool :=
  s.isl.st == .islandOnly && !s.isl.offAfter && s.pkg.windowClosed && s.pkg.healthy != 0 && s.pkg.level != 2#2
    && s.pkg.isReady 18 && (List.range 10).all (fun d => !s.pkg.healthy.getLsbD d || s.pkg.isReady d)

/-- COMPUTE_JOIN. -/
def execComputeJoin (s : State) : Result := dueIf "COMPUTE_JOIN" s.canJoin (s.setIsl { s.isl with st := .joined }).announce

/-- COMPUTE_LEAVE (R374). -/
def execComputeLeave (s : State) : Result := dueIf "COMPUTE_LEAVE" (s.isl.st == .joined) s.leave

/-- ISLAND_RESET_REQUEST: from JOINED by way of ISLAND-ONLY, whose announcement and what was accepted before are still sent. -/
def execIslandResetRequest (s : State) : Result :=
  dueIf "ISLAND_RESET_REQUEST" (s.isl.st != .off)
    (if s.isl.st = .joined then let t := s.leave; (t.setIsl { t.isl with offAfter := true }).offIfSent else s.islandOff)

/-- ISLAND_POWER_LOSS. -/
def execIslandPowerLoss (s : State) : Result := dueIf "ISLAND_POWER_LOSS" (s.isl.st != .off) s.islandOff

/-- What another device's state is known to be from now on: once it is not JOINED, what it has not contributed counts absent, but
for what its island keeps (R372, R374). DEDUCED: log entries 27, 32. -/
def State.peerNow (s : State) (d : Nat) (st : IslandSt) (kept : List InstKey) : State :=
  let i := { s.isl with
    peers := insertKey s.isl.peers d st
    kept := s.isl.kept.filter (fun e => e.1 ≠ d) ++ kept.map (fun k => (d, k)) }
  (s.setIsl (if st = .joined then i else { i with insts := i.insts.map (fun x => if kept.contains x.key then x else s.absentFrom d x) })).sendUps

/-- STATE_ANNOUNCEMENT_RECEIVE. -/
def execStateAnnouncementReceive (x : EvAnnounce) (s : State) : Result :=
  dueIf "STATE_ANNOUNCEMENT_RECEIVE" (s.isl.st != .off && decide (x.dev < 512) && x.dev != s.pkg.device.toNat && x.st != .off)
    (s.peerNow x.dev x.st (if x.st = .islandOnly then x.kept else []))

/-- PEER_UNREACHABLE_TIMEOUT: a peer that has lost its ports announced nothing within 10 ms. -/
def execPeerUnreachableTimeout (x : EvPeer) (s : State) : Result :=
  dueIf "PEER_UNREACHABLE_TIMEOUT" (s.isl.st != .off && decide (x.dev < 512) && x.dev != s.pkg.device.toNat) (s.peerNow x.dev .off [])

/-! ## Temperature (R399) -/

/-- THERMAL_THROTTLE: firmware lowers the Curb budget. -/
def execThermalThrottle (x : EvThermal) (s : State) : Result :=
  let p := s.pkg
  dueIf "THERMAL_THROTTLE" (decide (105 ≤ x.tmax.toNat) && decide (x.tmax.toNat < 115) && p.level != 2#2
      && decide ((curbKept x.budget).toNat ≤ p.curbBudget.toNat))
    (s.setPkg { p.heat x.tmax s.cycle with
      level := 1, curbBudget := curbKept x.budget, budgetWas := if p.level = 0#2 then p.curbBudget else p.budgetWas })

/-- THERMAL_SHUTDOWN: compute is shut down, and the island leaves JOINED. -/
def execThermalShutdown (x : EvThermal) (s : State) : Result :=
  let p := s.pkg
  let s1 := s.setPkg { p.heat x.tmax s.cycle with level := 2, budgetWas := if p.level = 0#2 then p.curbBudget else p.budgetWas }
  dueIf "THERMAL_SHUTDOWN" (decide (115 ≤ x.tmax.toNat) && p.level != 2#2) (if s.isl.st = .joined then s1.leave else s1)

/-- THERMAL_RETURN: TMAX has stayed below 95 degrees for a second. DEDUCED: log entry 33. -/
def execThermalReturn (x : EvThermal) (s : State) : Result :=
  let p := s.pkg.heat x.tmax s.cycle
  dueIf "THERMAL_RETURN" (p.level != 0#2 && (p.cool.map (fun c => s.passed c 1000000)).getD false)
    (s.setPkg { p with level := 0, curbBudget := p.budgetWas })

end Sys2Proof.Machine
end

