-- ==== Sys2Proof/Machine/Copy.lean ====
section
/-! DEFINITION. Copy instructions as they issue (spec/06_member_local_sync_instructions.md R146 to R153). -/

namespace Sys2Proof.Machine

/-! ## Members and pointers -/

/-- The members of a copy, each with its lowest active thread: every member with an active thread, or the split's
lowest active thread alone (R147). -/
def Iss.copyMembers (i : Iss) (pm : Bool) : List Nat :=
  if pm then i.threads.filter (fun t => i.threads.all (fun u => i.g0.memberOf u ≠ i.g0.memberOf t || decide (t ≤ u))) else [i.low]

/-- Which core of its pair a group runs on. -/
def Group.half (g : Group) (t : Team) : Nat := if t.pair && !t.pairchk && g.core ≠ t.core then 1 else 0

def WPtr.zero (half ch : Nat) : WPtr := ⟨half, ch, false, 0⟩
/-- A team's write pointer (R146). -/
def Team.ptr (t : Team) (half ch : Nat) : WPtr := (t.ptrs.find? (fun p => p.half = half && p.ch = ch)).getD (.zero half ch)
def Team.putPtr (t : Team) (p : WPtr) : Team :=
  { t with ptrs := p :: t.ptrs.filter (fun q => !(q.half = p.half && q.ch = p.ch)) }
/-- A write pointer as CPYWP returns it (R153). -/
def WPtr.word (p : WPtr) : Word64 := BitVec.ofNat 64 (p.count % 2 ^ 63 + (if p.failed then 2 ^ 63 else 0))

/-! ## Checks (R150) -/

/-- A fault of a member's operation, reported for its lowest active thread. -/
def copyFault (t : Nat) (c : BitVec 8) (addr : Int) : ThrFault := ⟨t, c, BitVec.ofInt 64 addr, false, none⟩

/-- The a register's bounds for a range (R76). -/
def AReg.holds (a : AReg) (lo : Int) (n : Nat) : Bool :=
  decide (0 ≤ lo) && decide (lo < (2 : Int) ^ 57) && decide (Int.ofNat a.base.toNat ≤ lo) && decide (lo + n ≤ Int.ofNat a.limit.toNat)

/-- The global bytes of a unit, cut at 4 KiB and translated for a thread's member (R150). -/
def Iss.copyPas (i : Iss) (t va at0 n : Nat) (p : Perm) : Except ThrFault (List (Nat × Nat × Nat × BitVec 10)) :=
  match i.translateParts t p (i.memberSel t) (cutAt 4096 va n) with
  | .error e => .error e
  | .ok ps => .ok (ps.map (fun q => (at0 + q.at0, q.size, q.pa, q.attr.key)))

/-- Units of which every one passes its translation, or the first fault. -/
def allUnits : List (Except ThrFault CopyUnit) → Except ThrFault (List CopyUnit)
  | [] => .ok []
  | .error e :: _ => .error e
  | .ok u :: rest =>
    match allUnits rest with
    | .error e => .error e
    | .ok us => .ok (u :: us)

/-- What a copy reports: the lowest cause of its members, for every active thread of the members whose checks failed,
or, without .PM, for every active thread (R127, R150). -/
def Iss.copyTrap (i : Iss) (fs : List ThrFault) (pm : Bool) (p : Perm) : Option TrapInfo :=
  (faultOf fs p false i.p0.iaddr i.p0.word).map (fun info =>
    { info with mask := if pm then maskOf i.g0.f (fun t => i.act.getLsbD t &&
        fs.any (fun e => i.g0.memberOf e.thread == i.g0.memberOf t)) else i.act })

/-- The operations of a copy instruction join their channel's queue (R146). -/
def Iss.queueCopies (i : Iss) (kind : CopyKind) (ch : Nat) (ops : List (List CopyUnit)) (snap : Bool) : Iss :=
  if i.k.shadow then { i with flagUp := true }
  else
    let first := i.s.sched.nextId
    let all := ops.mapIdx (fun n us =>
      ({ id := first + n, kind := kind, g := i.opKey, core := i.g0.core, ctx := i.g0.ctx, ch := ch, threads := i.act, units := us
         snap := snap, snapshot := none, done := 0, flag := i.flag?, inst := first, heldAt := none, retries := 0 } : CopyOp))
    let s1 := i.s.setSched { i.s.sched with nextId := first + all.length }
    { i with s := s1.setOps { s1.ops with copies := s1.ops.copies ++ all }, flagUp := true, shared := [first] }

/-- Every member's units, or the trap of those that fail. -/
def Iss.copyAll (i : Iss) (pm : Bool) (p : Perm) (one : Nat → Except ThrFault (List CopyUnit)) (k : List (List CopyUnit) → Act) : Act :=
  let rs := (i.copyMembers pm).map one
  let fs := rs.filterMap (fun r => match r with | .error e => some e | .ok _ => none)
  match i.copyTrap fs pm p with
  | some info => .trap { i with s := i.s0, g := i.g0 } info
  | none => k (rs.filterMap (fun r => match r with | .ok us => some us | .error _ => none))

/-! ## Linear copies (R147) -/

/-- The first operand R147 finds misaligned: length, stride, scratchpad offset, other address. DEDUCED: log entry 20. -/
def copyMisaligned (pm : Bool) (len stride off other : Nat) : Option Nat :=
  if len = 0 || len % 4 ≠ 0 || 2 ^ 20 < len then some len
  else if stride % 4 ≠ 0 || (stride ≠ 0 && !pm) then some stride
  else if off % 4 ≠ 0 then some off
  else if other % 4 ≠ 0 then some other
  else none

/-- The units of a linear copy: words, ascending. -/
def wordUnits (len : Nat) (f : Nat → Except ThrFault CopyUnit) : Except ThrFault (List CopyUnit) :=
  allUnits ((List.range (len / 4)).map (fun n => f (4 * n)))

/-- The range of a copy lies in the team's scratchpad (R150). -/
def Iss.spadHas (i : Iss) (o n : Nat) : Bool := (i.team.map (fun t => t.spadIn (Int.ofNat o) n)).getD false

/-- What a linear copy is: the a register (none with .L), the offsets, length and stride. -/
structure LinSpec where
  kind : CopyKind
  ch : Nat
  pm : Bool
  reg : Option AReg
  src : Nat
  dst : Nat
  len : Nat
  stride : Nat

/-- A member's units of a linear copy. -/
def Iss.linUnits (i : Iss) (l : LinSpec) (t : Nat) : Except ThrFault (List CopyUnit) :=
  let add := if l.pm then i.g0.memberOf t * l.stride else 0
  let member := i.memberSel t
  let spad := match l.kind with
    | .out => l.src + add
    | _ => l.dst + add
  match l.reg with
  | some a =>
    let va := a.ptr.toNat
    let ok := match l.kind with
      | .out => a.wr
      | _ => a.rd
    if !a.holds (Int.ofNat va) l.len then .error (copyFault t cADDR_BOUNDS (Int.ofNat va))
    else if !ok then .error (copyFault t cADDR_PERM (Int.ofNat va))
    else if !i.spadHas spad l.len then .error (copyFault t cSPAD_BOUNDS (Int.ofNat spad))
    else wordUnits l.len (fun n =>
      match i.copyPas t (va + n) 0 4 (match l.kind with | .out => .store | _ => .load) with
      | .error e => .error e
      | .ok pas =>
        match l.kind with
        | .out => .ok ⟨member, spad + n, va + n, 4, pas, va + n⟩
        | _ => .ok ⟨member, va + n, spad + n, 4, pas, va + n⟩)
  | none =>
    let src := l.src + add
    if !i.spadHas spad l.len then .error (copyFault t cSPAD_BOUNDS (Int.ofNat spad))
    else if !i.spadHas src l.len then .error (copyFault t cSPAD_BOUNDS (Int.ofNat src))
    else wordUnits l.len (fun n => .ok ⟨member, src + n, spad + n, 4, [], 0⟩)

/-- Source and destination ranges of a scratchpad copy overlap (R126, R150). -/
def Iss.linOverlap (i : Iss) (l : LinSpec) : Bool :=
  l.reg.isNone && (i.copyMembers l.pm).any (fun t => (i.copyMembers l.pm).any (fun u =>
    let a := l.src + (if l.pm then i.g0.memberOf t * l.stride else 0)
    let b := l.dst + (if l.pm then i.g0.memberOf u * l.stride else 0)
    decide (a < b + l.len) && decide (b < a + l.len)))

/-- A linear copy issues. Of several faults ALIGN comes first, then ADDR_PERM for P, then each member's bounds, permission,
scratchpad bounds and translation. DESIGN CHOICE: log entry 40. -/
def Iss.linCopy (i : Iss) (l : LinSpec) : Act :=
  if !i.any then .ok i
  else
    let spad := match l.kind with
      | .out => l.src
      | _ => l.dst
    let other := match l.reg with
      | some a => a.ptr.toNat
      | none => l.src
    match copyMisaligned l.pm l.len l.stride spad other with
    | some v => i.fault cALIGN (BitVec.ofNat 64 v) i.act
    | none =>
      if (l.reg.map AReg.pv).getD false then i.fault cADDR_PERM (BitVec.ofNat 64 other) i.act
      else i.copyAll l.pm (match l.kind with | .out => .store | _ => .load) (i.linUnits l)
        (fun ops => .ok (i.queueCopies l.kind l.ch ops (i.linOverlap l)))

def cpySpec (x : Cpy) (i : Iss) : LinSpec :=
  let n := i.uni x.b
  { kind := if x.lin then .spadToSpad else .toSpad, ch := x.ch.toNat, pm := x.pm, reg := if x.lin then none else some (i.areg x.a)
    src := if x.lin then (i.uni x.a).toNat else 0, dst := (i.uni x.d).toNat, len := n.toNat % 2 ^ 32, stride := n.toNat / 2 ^ 32 }
def cpyoutSpec (x : CpyOut) (i : Iss) : LinSpec :=
  let n := i.uni x.b
  { kind := .out, ch := x.ch.toNat, pm := x.pm, reg := some (i.areg x.d), src := (i.uni x.a).toNat, dst := 0, len := n.toNat % 2 ^ 32
    stride := n.toNat / 2 ^ 32 }

/-- Every operand of a copy, as R108 compares it. -/
def Iss.linItems (i : Iss) (l : LinSpec) : List (Nat × List Word64) :=
  let a := l.reg.getD .zero
  i.threads.map (fun t => (t, [a.ptr, a.base, a.limit, a.permBits, BitVec.ofNat 64 l.src, BitVec.ofNat 64 l.dst, BitVec.ofNat 64 l.len,
    BitVec.ofNat 64 l.stride]))

/-- CPY (R147). -/
def execCpy (x : Cpy) (s : State) : Result :=
  runCore
    { view := x.view
      data := some x.d
      nonIdem := fun i => i.linOverlap (cpySpec x i)
      cmp := some fun i => i.linItems (cpySpec x i)
      whole := true
      body := fun i => i.linCopy (cpySpec x i) } s
/-- CPYOUT (R147). -/
def execCpyout (x : CpyOut) (s : State) : Result :=
  runCore
    { view := x.view
      data := some x.d
      cmp := some fun i => i.linItems (cpyoutSpec x i)
      whole := true
      body := fun i => i.linCopy (cpyoutSpec x i) } s

/-! ## CPYH (R148, R149) -/

/-- A CPYH descriptor's fields (R148). -/
structure HaloDesc where
  rows : Nat
  cols : Nat
  e : Nat
  halo : Nat
  edge : Bool
  gpitch : Int
  lpitch : Nat
  mstride : Nat
  reserved : Bool

def haloDesc (d0 d1 : Word64) : HaloDesc :=
  { rows := field d0 0 8, cols := field d0 8 8, e := 2 ^ field d0 16 2, halo := field d0 18 4, edge := bitAt d0 22
    gpitch := (d0.extractLsb' 32 32).toInt, lpitch := field d1 0 20, mstride := field d1 32 32
    reserved := field d0 23 9 != 0 || field d1 20 12 != 0 }
def HaloDesc.nr (d : HaloDesc) : Nat := d.rows + 1 + 2 * d.halo
def HaloDesc.nc (d : HaloDesc) : Nat := d.cols + 1 + 2 * d.halo

/-- The address of element (r, c) (R149). -/
def HaloDesc.addr (d : HaloDesc) (a : AReg) (r c : Nat) : Int :=
  Int.ofNat a.ptr.toNat + (Int.ofNat r - Int.ofNat d.halo) * d.gpitch + (Int.ofNat c - Int.ofNat d.halo) * d.e

/-- The bytes of a row's elements inside the bounds. -/
def Iss.rowPas (i : Iss) (d : HaloDesc) (a : AReg) (t r : Nat) : List Nat → Except ThrFault (List (Nat × Nat × Nat × BitVec 10))
  | [] => .ok []
  | c :: cs =>
    let g := d.addr a r c
    match (if a.holds g d.e then i.copyPas t g.toNat (c * d.e) d.e .load else .ok []) with
    | .error e => .error e
    | .ok ps =>
      match i.rowPas d a t r cs with
      | .error e => .error e
      | .ok qs => .ok (ps ++ qs)

/-- A member's rows (R149). -/
def Iss.haloUnits (i : Iss) (d : HaloDesc) (a : AReg) (base t : Nat) : Except ThrFault (List CopyUnit) :=
  let m := i.g0.memberOf t
  let dst (r : Nat) : Nat := base + m * d.mstride + r * d.lpitch
  let cells := (List.range d.nr).flatMap (fun r => (List.range d.nc).map (fun c => d.addr a r c))
  match (if d.edge then none else cells.find? (fun g => !a.holds g d.e)) with
  | some g => .error (copyFault t cADDR_BOUNDS g)
  | none =>
    if !a.rd then .error (copyFault t cADDR_PERM (Int.ofNat a.ptr.toNat))
    else
      match (List.range d.nr).find? (fun r => !i.spadHas (dst r) (d.nc * d.e)) with
      | some r => .error (copyFault t cSPAD_BOUNDS (Int.ofNat (dst r)))
      | none => allUnits ((List.range d.nr).map (fun r =>
          match i.rowPas d a t r (List.range d.nc) with
          | .error e => .error e
          | .ok pas => .ok ⟨i.memberSel t, (d.addr a r 0).toNat, dst r, d.nc * d.e, pas, d.addr a r 0⟩))

/-- The rows of all members in the order they are delivered (R149). -/
def interleave (n : Nat) (l : List (List CopyUnit)) : List CopyUnit :=
  (List.range n).flatMap (fun r => l.filterMap (fun us => us[r]?))

/-- CPYH issues: the descriptor, then alignment, then P, then every element's checks: bounds, permission, scratchpad bounds and
translation. DESIGN CHOICE: log entry 40. -/
def Iss.halo (i : Iss) (x : CpyH) : Act :=
  if !i.any then .ok i
  else
    let d := haloDesc (i.p0.s.getD x.b.num 0) (i.p0.s.getD (x.b.num + 1) 0)
    let a := i.areg x.a
    let base := (i.uni x.d).toNat
    if d.reserved || d.lpitch < d.nc * d.e then i.fault cILLEGAL_OPERAND (BitVec.ofNat 64 (0x100 + x.b.num)) i.act
    else if base % 4 ≠ 0 then i.fault cALIGN (BitVec.ofNat 64 base) i.act
    else if d.lpitch % 4 ≠ 0 then i.fault cALIGN (BitVec.ofNat 64 d.lpitch) i.act
    else if d.mstride % 4 ≠ 0 then i.fault cALIGN (BitVec.ofNat 64 d.mstride) i.act
    else if a.ptr.toNat % d.e ≠ 0 then i.fault cALIGN a.ptr i.act
    else if d.gpitch % d.e ≠ 0 then i.fault cALIGN (BitVec.ofInt 64 d.gpitch) i.act
    else if a.pv then i.fault cADDR_PERM a.ptr i.act
    else i.copyAll true .load (i.haloUnits d a base) (fun ops => .ok (i.queueCopies .toSpad x.ch.toNat [interleave d.nr ops] false))

/-- CPYH (R148). -/
def execCpyh (x : CpyH) (s : State) : Result :=
  runCore
    { view := x.view
      data := some x.d
      cmp := some fun i => i.threads.map (fun t => (t, [i.uni x.d, (i.areg x.a).ptr, (i.areg x.a).base, (i.areg x.a).limit, (i.areg x.a).permBits,
        i.p0.s.getD x.b.num 0, i.p0.s.getD (x.b.num + 1) 0]))
      whole := true
      body := fun i => i.halo x } s

/-! ## Write pointers (R153) -/

/-- The pointer a group sees on a channel. -/
def Iss.wptr (i : Iss) (ch : Nat) : WPtr :=
  match i.team with
  | some t => t.ptr (i.g0.half t) ch
  | none => .zero 0 ch

/-- CPYWP (R153): with RST the split first waits until the team has nothing under way on the channel; a count of 0 that a debugger
wrote for the wait ends it (R397). -/
def execCpywp (x : CpyWp) (s : State) : Result :=
  runCore
    { view := x.view
      nonIdem := fun _ => x.rst
      body := fun i =>
        let ch := x.ch.toNat
        let busy := i.s.ops.copies.any (fun o => o.g.team = i.k.team && o.core = i.g0.core && o.ch = ch)
        if !i.any then .ok i
        else if i.k.shadow then .ok (i.writeS x.d (BitVec.ofNat 64 (i.shared.headD 0)))
        else if x.rst && busy && i.p0.bound != some 0 then .stall wWRITEPTR none
        else
          let p := i.wptr ch
          let j := ({ i with shared := [p.word.toNat] } : Iss).writeS x.d p.word
          .ok (if x.rst then { j with s := j.s.modTeam j.k.team (fun t => t.putPtr (.zero p.half ch)) } else j) } s

/-- CPYWAIT (R153): the count and b compare as unsigned 64-bit numbers. DESIGN CHOICE: log entry 40. A wait that its save record
resumes has the bound of the record (R211, R397). -/
def execCpywait (x : CpyWait) (s : State) : Result :=
  runCore
    { view := x.view
      lit := x.b.isLit
      body := fun i =>
        let p := i.wptr x.ch.toNat
        if !i.any || p.failed || decide ((i.p0.bound.getD (i.uniSrc x.b)).toNat ≤ p.count) then .ok i else .stall wWRITEPTR none } s

end Sys2Proof.Machine
end

