-- ==== Sys2Proof/Machine/CopyEvents.lean ====
section
/-! DEFINITION. Copies as their channels perform them (spec/06_member_local_sync_instructions.md R146 to R153;
spec/12_consistency_model.md R255 to R257) and deferred arrivals (R158; spec/07_ensemble_stencil.md R162). -/

namespace Sys2Proof.Machine

/-! ## Bytes of a unit -/

/-- Bytes of a unit's global side read in their order, and what is left of a peer's answer; or the cause and the virtual
offset where the read stops. -/
def State.unitReads (s : State) (core ctx : Nat) :
    List (Nat × Nat × Nat × BitVec 10) → List Byte → Except (BitVec 8 × Nat) (List (Nat × List Byte) × List Byte)
  | [], rep => .ok ([], rep)
  | (at0, n, pa, key) :: rest, rep =>
    let here : Except (BitVec 8 × Nat) (List Byte × List Byte) :=
      if s.elsewhere pa then (if n ≤ rep.length && s.reachable (frameDev pa) then .ok (rep.take n, rep.drop n) else .error (0, at0))
      else
        match s.placeOf pa n key .read with
        | none => .error (cREMOTE_WINDOW, at0)
        | some _ =>
          match s.engineRead core ctx pa n key with
          | .ok bs => .ok (bs, rep)
          | .error c => .error (c, at0)
    match here with
    | .error e => .error e
    | .ok (bs, rep1) =>
      match s.unitReads core ctx rest rep1 with
      | .error e => .error e
      | .ok (l, rep2) => .ok ((at0, bs) :: l, rep2)

/-- Pieces laid into a row of zeros (R149). -/
def layRow (len : Nat) (l : List (Nat × List Byte)) : List Byte := l.foldl (fun acc p => overlay 0 acc p.1 p.2) (List.replicate len 0#8)

/-- The first of a unit's global writes that is refused; none is performed at a device that is not reached. -/
def State.unitRefused (s : State) (u : CopyUnit) : Option (BitVec 8 × Nat) :=
  u.pas.findSome? (fun (p : Nat × Nat × Nat × BitVec 10) => 
    if s.elsewhere p.2.2.1 && !s.reachable (frameDev p.2.2.1) then some (0, p.1) else (s.writeRefused p.2.2.1 p.2.1 p.2.2.2).map (fun c => (c, p.1)))

/-- A unit's bytes written to both scratchpads of a check pair, or to the one (R106). -/
def Team.spadPut (t : Team) (off : Nat) (bs : List Byte) : Team :=
  let t1 := t.setSpad false (cellWrite t.spad off bs)
  if t.pairchk then t1.setSpad true (cellWrite t1.spad2 off bs) else t1

/-- Source bytes of a unit that lies in scratchpad: as read in advance where the ranges overlap (R150). In a check pair they are the
primary's, for both copies. DESIGN CHOICE: log entry 42. -/
def State.spadSource (s : State) (o : CopyOp) (u : CopyUnit) : List Byte :=
  match o.snapshot with
  | some all => (all.drop (4 * o.done)).take u.len
  | none => ((s.team? o.g.team).map (fun t => cellRead t.spad u.src u.len)).getD []

/-- The pointer that counts an operation's bytes (R146). -/
def State.copyHalf (s : State) (o : CopyOp) : Nat :=
  match s.team? o.g.team with
  | some t => if t.pair && !t.pairchk && o.core ≠ t.core then 1 else 0
  | none => 0

/-- One unit is delivered, its bytes counted (R149); or the cause and the address where it stops. -/
def State.deliverUnit (s : State) (o : CopyOp) (u : CopyUnit) (rep : List Byte) : Except (BitVec 8 × Nat) (State × List Byte) :=
  let count (s : State) : State := s.modTeam o.g.team (fun t =>
    let p := t.ptr (s.copyHalf o) o.ch
    t.putPtr { p with count := p.count + u.len })
  let seen (need : WinNeed) : State := u.pas.foldl (fun (s : State) p => s.engineSeen o.core o.ctx (u.va + p.1).toNat p.2.2.1 p.2.1 need) s
  match o.kind with
  | .toSpad =>
    match s.unitReads o.core o.ctx u.pas rep with
    | .error (c, d) => .error (c, (u.va + d).toNat)
    | .ok (l, rep1) => .ok (count ((seen .read).modTeam o.g.team (fun t => t.spadPut u.dst (layRow u.len l))), rep1)
  | .spadToSpad => .ok (count (s.modTeam o.g.team (fun t => t.spadPut u.dst (s.spadSource o u))), rep)
  | .out =>
    match s.unitRefused u with
    | some (c, d) => .error (c, (u.va + d).toNat)
    | none =>
      let bs := s.spadSource o u
      .ok (count (u.pas.foldl (fun (s : State) p => s.engineWrite o.core o.ctx p.2.2.1 p.2.2.2 ((bs.drop p.1).take p.2.1)) (seen .write)), rep)

/-- Units delivered one after another while none stops: the state, how many landed, and where it stopped. -/
def State.deliverUnits (o : CopyOp) : List CopyUnit → State → List Byte → State × Nat × Option (BitVec 8 × Nat) × List Byte
  | [], s, rep => (s, 0, none, rep)
  | u :: us, s, rep =>
    match s.deliverUnit o u rep with
    | .error e => (s, 0, some e, rep)
    | .ok (s1, rep1) =>
      let (s2, n, e, rep2) := State.deliverUnits { o with done := o.done + 1 } us s1 rep1
      (s2, n + 1, e, rep2)

/-! ## The channel (R146, R151, R256) -/

/-- The operation a core's channel serves. -/
def State.channelHead (s : State) (core ch : Nat) : Option CopyOp := s.ops.copies.find? (fun o => o.core = core && o.ch = ch)

/-- An operation has been performed: its instruction's flag counts down with the last of them (R18, R152). -/
def State.endCopy (s : State) (o : CopyOp) : State :=
  let s1 := s.setOps { s.ops with copies := s.ops.copies.filter (fun p => p.id ≠ o.id) }
  let s2 := if s1.ops.copies.any (fun p => p.inst = o.inst) then s1 else s1.flagDown o.g o.flag
  s2.afterPerform o.g

/-- A delivery that meets an error stops the operation (R151). -/
def State.stopCopy (s : State) (o : CopyOp) (code : BitVec 8) (va : Nat) : State :=
  let s1 := s.modTeam o.g.team (fun t => t.putPtr { t.ptr (s.copyHalf o) o.ch with failed := true })
  (s1.raiseAsync o.g code (BitVec.ofNat 64 va) true).endCopy o

/-- The team's pointer on the operation's channel has failed. DEDUCED: log entry 20. -/
def State.copyFailed (s : State) (o : CopyOp) : Bool := ((s.team? o.g.team).map (fun t => (t.ptr (s.copyHalf o) o.ch).failed)).getD false

/-- The virtual address of a byte of a unit's global side, where it has that byte. -/
def CopyUnit.byteAt (u : CopyUnit) (d : Nat) : Option Nat :=
  if u.pas.any (fun p => decide (p.1 ≤ d) && decide (d < p.1 + p.2.1)) then some (u.va + d).toNat else none

/-- Some byte of a unit lies at a device that is not reached. -/
def CopyUnit.far (u : CopyUnit) (s : State) : Bool := u.pas.any (fun p => s.elsewhere p.2.2.1 && !s.reachable (frameDev p.2.2.1))

/-- The first byte of a unit that lies at another device. -/
def CopyUnit.away (u : CopyUnit) (s : State) : Option Nat := (u.pas.find? (fun p => s.elsewhere p.2.2.1)).map (fun p => (u.va + p.1).toNat)

/-- A copy whose ranges overlap reads every source byte of its instruction when its channel comes to it (R150, R257). -/
def State.snapCopies (s : State) (o : CopyOp) : State :=
  if o.snap && o.snapshot.isNone then
    s.setOps { s.ops with copies := s.ops.copies.map (fun p =>
      if p.inst = o.inst then { p with snapshot := some (p.units.flatMap (fun u => ((s.team? p.g.team).map (fun t => cellRead t.spad u.src u.len)).getD [])) }
      else p) }
  else s

/-- COPY_CHANNEL_OPERATION: units of the channel's operation land in order, and the next may meet an error, or wait for a device
that is not reached (R375). -/
def execCopyChannelOperation (x : EvCopy) (s : State) : Result :=
  let s := ((s.ops.copies.find? (fun o => o.id = x.op)).map s.snapCopies).getD s
  match s.ops.copies.find? (fun o => o.id = x.op) with
  | none => notDue "COPY_CHANNEL_OPERATION"
  | some o =>
    if (s.channelHead o.core o.ch).map CopyOp.id ≠ some o.id || !s.engineReady o.g o.threads o.inst || s.qfenceHolds o.g o.ch o.inst then
      notDue "COPY_CHANNEL_OPERATION"
    else if s.copyFailed o then .next (s.endCopy o)
    else
      let left := o.units.drop o.done
      let rep := match x.reply with
        | .data bs => bs
        | .fault _ => []
      let (s1, n, stop, rest) := State.deliverUnits o (left.take x.units) s rep
      let o1 := { o with done := o.done + n, heldAt := none, retries := 0 }
      let s2 := s1.setOps { s1.ops with copies := s1.ops.copies.map (fun p => if p.id = o.id then o1 else p) }
      if left.length < x.units || !rest.isEmpty then notDue "COPY_CHANNEL_OPERATION"
      else
        match stop, left[n]? with
        | some (c, va), _ =>
          if c = 0#8 then notDue "COPY_CHANNEL_OPERATION" else .next (s2.stopCopy o1 c va)
        | none, some u =>
          match x.bad.map u.byteAt, x.reply with
          | some (some va), _ => dueIf "COPY_CHANNEL_OPERATION" (!u.far s) (s2.stopCopy o1 cMEM_UNCORRECTABLE va)
          | some none, _ => notDue "COPY_CHANNEL_OPERATION"
          | none, .fault c =>
            (match u.away s with
             | some va => dueIf "COPY_CHANNEL_OPERATION" (!u.far s && metOf x.reply 0 != .unfit) (s2.stopCopy o1 c va)
             | none => notDue "COPY_CHANNEL_OPERATION")
          | none, .data _ =>
            if u.far s && o.heldAt.isNone then
              .next (s2.setOps { s2.ops with copies := s2.ops.copies.map (fun p => if p.id = o.id then { o1 with heldAt := some s.cycle } else p) })
            else dueIf "COPY_CHANNEL_OPERATION" (n != 0) s2
        | none, none => dueIf "COPY_CHANNEL_OPERATION" x.bad.isNone (s2.endCopy o1)

/-! ## Deferred arrivals (R158, R162) -/

/-- DEFERRED_ARRIVAL_PERFORM: the copies an arrival is bound to have been performed, and its thread's earlier accesses meet a
team-scope release. -/
def execDeferredArrivalPerform (x : EvDeferred) (s : State) : Result :=
  match (s.team? x.t).bind (fun t => t.defers.find? (fun d => d.id = x.id)) with
  | none => notDue "DEFERRED_ARRIVAL_PERFORM"
  | some d =>
    let going := s.ops.copies.any (fun o => d.ops.contains o.id)
    let s1 := s.modTeam x.t (fun t => { t with defers := t.defers.filter (fun e => e.id ≠ d.id) })
    dueIf "DEFERRED_ARRIVAL_PERFORM" (!going && s.earlierMet d.g (BitVec.twoPow 512 d.thread) d.id .team) (s1.countArrivals x.t d.bar 1 0)

end Sys2Proof.Machine
end

