-- ==== Sys2Proof/Machine/MatIssue.lean ====
section
/-! DEFINITION. Matrix instructions as they issue (spec/16_matrix_and_drain_instructions.md R303 to R319, R325;
spec/18_matrix_engine_and_drain.md R334, R337, R339, R352): format blocks, checks, the operands read at issue, the Curb
charge and the entry of the reservation table. -/

namespace Sys2Proof.Machine

/-! ## Format pairs (R303) -/

/-- What an element of A or B is. -/
inductive MatEl | int8 | bf16 | fp16 | fp32 | fp64 | ds8 | ds4
  deriving DecidableEq, Repr

/-- Bits of an element. -/
def MatEl.bits : MatEl → Nat
  | .int8 => 8
  | .bf16 => 16
  | .fp16 => 16
  | .fp32 => 32
  | .fp64 => 64
  | .ds8 => 8
  | .ds4 => 4

/-- Accumulator formats (R303, R310). -/
inductive MatAcc | i32 | f32 | f64
  deriving DecidableEq, Repr

/-- A row of R303: formats, K, register counts, the accumulator without scales, what it allows, and the array cycles of
four octets (R339). -/
structure MatPair where
  ea : MatEl
  eb : MatEl
  k : Nat
  aRegs : Nat
  bRegs : Nat
  acc : MatAcc
  scaled : Bool
  sparse : Bool
  cost : Nat

/-- The row of R303 that AFMT and BFMT name (R310). -/
def matPair (afmt bfmt : Nat) : Option MatPair :=
  match afmt, bfmt with
  | 0, 0 => some ⟨.int8, .int8, 32, 8, 16, .i32, true, true, 2⟩
  | 0, 5 => some ⟨.int8, .ds8, 32, 8, 16, .i32, true, true, 1⟩
  | 0, 6 => some ⟨.int8, .ds4, 64, 16, 16, .i32, true, false, 1⟩
  | 1, 1 => some ⟨.bf16, .bf16, 16, 8, 16, .f32, false, true, 2⟩
  | 2, 2 => some ⟨.fp16, .fp16, 16, 8, 16, .f32, false, true, 2⟩
  | 1, 5 => some ⟨.bf16, .ds8, 16, 8, 8, .f32, false, false, 2⟩
  | 3, 3 => some ⟨.fp32, .fp32, 8, 8, 16, .f32, false, false, 4⟩
  | 4, 4 => some ⟨.fp64, .fp64, 4, 8, 16, .f64, false, false, 8⟩
  | _, _ => none

/-! ## The format block (R310) -/

/-- The view of the tile's bits (R309, R310). -/
def fbAcc (w0 : Word64) : MatAcc :=
  match fbCfmt w0 with
  | 0 => .i32
  | 1 => .f32
  | _ => .f64

/-- Logical K (R303, R305). -/
def MatPair.logicalK (p : MatPair) (w0 : Word64) : Nat := if fbSparse w0 then 2 * p.k else p.k
/-- v registers that A takes (R303). -/
def MatPair.regsA (p : MatPair) (w0 : Word64) : Nat := if fbSparse w0 then 16 else p.aRegs
/-- nb of R307. -/
def scaleBlocks (k len : Nat) : Nat := max 1 (k / len)

/-- Registers a DSTV range takes. -/
def voutRegs (w1 : Word64) : Nat := if fbV64 w1 then 32 else 16

/-- Reserved fields and CFMT, as every form checks them (R311). -/
def blockReserved (w0 w1 : Word64) : Bool :=
  field w0 26 6 == 0 && !bitAt w0 19 && !bitAt w0 15 && field w1 62 2 == 0 && fbCfmt w0 != 3
/-- The VOUT fields (R311). -/
def blockVout (w1 : Word64) : Bool :=
  !fbVen w1 || (decide (fbVout w1 + 15 ≤ 255) && (!fbV64 w1 || (fbVout w1 % 2 == 0 && decide (fbVout w1 + 31 ≤ 255))))
/-- The accumulator a pair has under SCALED (R303). -/
def MatPair.accFor (p : MatPair) (w0 : Word64) : MatAcc := if fbScaled w0 then .f32 else p.acc

/-- The pair's own fields as MMA and MMAD check them (R311, R388): the row, or FORMAT_INVALID. -/
def State.blockPair (s : State) (w0 : Word64) : Option MatPair :=
  match matPair (fbAfmt w0) (fbBfmt w0) with
  | none => none
  | some p =>
    let k := p.logicalK w0
    let len := fbLen w0
    let kpos := if !fbScaled w0 || decide (len ≤ k) then fbKpos w0 == 0 else decide (fbKpos w0 < len / k)
    if (fbScaled w0 && !p.scaled) || (fbSparse w0 && !p.sparse) || p.accFor w0 != fbAcc w0 || (fbSat w0 && fbAcc w0 != .i32) || !kpos
        || (fbSparse w0 && !bitAt s.pkg.featAct0 8) || (p.eb == .ds4 && !bitAt s.pkg.featAct0 9) then none
    else some p

/-! ## Operands read at issue (R304, R305, R307, R313) -/

/-- The lane octet of an octet (R304). -/
def Group.laneOctet (g : Group) (o : Nat) : Nat := 8 * o % g.w / 8
/-- The active threads of an octet, as rows. -/
def octetRows (m : Mask) (o : Nat) : BitVec 8 := m.extractLsb' (8 * o) 8
/-- Rows of a set, ascending. -/
def octetRowsOf (m : BitVec 8) : List Nat := (List.range 8).filter (fun r => m.getLsbD r)

/-- A row of A: its registers as one number. -/
def Group.rowA (g : Group) (va n t : Nat) : Nat :=
  ((List.range n).map (fun j => (g.vWord (va + j) t).toNat * 2 ^ (32 * j))).sum
/-- The B image of a lane octet. -/
def Group.imageB (g : Group) (wb n lo : Nat) : Nat :=
  ((List.range n).flatMap (fun j => (List.range 8).map (fun l => (g.wWord (wb + j) (8 * lo + l)).toNat * 2 ^ (256 * j + 32 * l)))).sum

/-- A number in the team's scratchpad. -/
def Iss.spadNat (i : Iss) (o n : Nat) : Nat := leNat (i.spadRead o n)

/-- Scratchpad ranges an operation reads at issue: offset and size, in the order A scales, B scales, metadata. DEDUCED: log entry 28. -/
def Iss.matRanges (i : Iss) (p : MatPair) (w0 w1 : Word64) : List (Nat × Nat) :=
  let nb := scaleBlocks (p.logicalK w0) (fbLen w0)
  let los := (i.octs.map i.g0.laneOctet).foldl addOnce []
  let cols := los.flatMap (fun lo => (List.range 16).map (fun c => lo * 16 + c))
  (if fbScaled w0 then i.threads.map (fun t => (fbScaleA w1 + t * nb * 2, nb * 2)) ++ cols.map (fun n => (fbScaleB w1 + n * nb * 2, nb * 2)) else [])
    ++ (if fbSparse w0 then cols.map (fun n => (fbMeta w1 + n * 16, 16)) else [])

/-- The first offset of some ranges outside the team's scratchpad (R311). -/
def Iss.firstOutside (i : Iss) (l : List (Nat × Nat)) : Option Nat :=
  l.findSome? (fun r => if i.spadHas r.1 r.2 then none else (List.range r.2).findSome? (fun b => if i.spadHas (r.1 + b) 1 then none else some (r.1 + b)))

/-- A metadata record's four positions of a group (R305). -/
def metaPos (rec1 g j : Nat) : Nat := rec1 / 2 ^ (12 * g + 3 * j) % 8
/-- The positions of a group rise. -/
def metaGood (rec1 g : Nat) : Bool :=
  decide (metaPos rec1 g 0 < metaPos rec1 g 1) && decide (metaPos rec1 g 1 < metaPos rec1 g 2) && decide (metaPos rec1 g 2 < metaPos rec1 g 3)

/-- The metadata records of a lane octet's columns. -/
def Iss.metaOf (i : Iss) (w1 : Word64) (lo : Nat) : List Nat := (List.range 16).map (fun n => i.spadNat (fbMeta w1 + (lo * 16 + n) * 16) 16)

/-- The first bad group of the metadata (R305). -/
def Iss.badMeta (i : Iss) (p : MatPair) (w1 : Word64) : Option Nat :=
  let los := sortBy (fun (x : Nat) => x) ((i.octs.map i.g0.laneOctet).foldl addOnce [])
  los.findSome? (fun lo => (List.range 16).findSome? (fun n =>
    (List.range (p.k / 4)).findSome? (fun g =>
      if metaGood ((i.metaOf w1 lo).getD n 0) g then none else some ((lo * 16 + n) * (p.k / 4) + g))))

/-! ## The reservation table (R334, R337) -/

/-- Entries of a cluster's table in use. -/
def Matrix.entries (m : Matrix) (cluster : Nat) : Nat := (m.ops.filter (fun o => o.cluster = cluster && !o.granted)).length
/-- The engine's next request id. DESIGN CHOICE: log entry 7. -/
def Matrix.reqId (m : Matrix) (cluster : Nat) : BitVec 16 := lookupD m.nextReq cluster 0

/-- The level an entry posts at. -/
def State.queueLevel (s : State) (k : GroupKey) : Nat := ((s.launch? k.team.launch).map (fun l => l.q / 16)).getD 0

/-- What an operation is, before it posts. -/
structure MatSpec where
  kind : MatKind
  tile : Nat := 0
  fmt0 : Word64 := 0
  fmt1 : Word64 := 0
  areg : AReg := .zero
  reqs : List MatReq := []
  wb : Nat := 0
  words : List (BitVec 32) := []

/-- An octet's request that reads nothing more. -/
def bareReq (m : Mask) (o : Nat) : MatReq :=
  { id := 0, octet := o, rows := octetRows m o, a := [], b := 0, records := [], sa := [], sb := [], va := 0, pas := [], drained := false }

/-- The operation takes an entry, and the engine numbers its requests; the shadow of a check pair posts the mate of its
primary's operation (R351). DEDUCED: log entry 36. -/
def Iss.postMat (i : Iss) (x : MatSpec) : Act :=
  let cluster := coreCluster i.g0.core
  if 32 < i.s.mtx.entries cluster + (if i.g0.pairchk && !i.k.shadow then 2 else 1) then .stall wMATRIX none
  else
    let (id, s1) := i.s.freshId
    let base := s1.mtx.reqId cluster
    let mate := if i.k.shadow then i.shared.head? else none
    let op : MatOp :=
      { id := id, cluster := cluster, core := i.g0.core, kind := x.kind, g := i.k, ctx := i.g0.ctx, threads := i.act, tile := x.tile
        fmt0 := x.fmt0, fmt1 := x.fmt1, areg := x.areg, areg2 := none, reqs := x.reqs.mapIdx (fun n r => { r with id := base + BitVec.ofNat 16 n })
        wb := x.wb, level := i.s.queueLevel i.k, posted := i.s.cycle, levelAt := i.s.cycle, granted := false, flag := i.flag?
        words := x.words, stopped := false, cut := false, mate := mate, sid := i.sid, region := i.p0.region, iaddr := i.p0.iaddr
        word := i.p0.word, quiet := false }
    let m := s1.mtx
    let ops := m.ops.map (fun o => if mate = some o.id then { o with mate := some id } else o)
    .ok { i with
      s := s1.setMtx { m with ops := ops ++ [op], nextReq := insertKey m.nextReq cluster (base + BitVec.ofNat 16 x.reqs.length) }
      flagUp := true
      shared := i.shared ++ [id] }

/-! ## Curb (R339, R352) -/

/-- Array cycles of some octets as if unfused (R339). -/
def passCycles (cost octets : Nat) : Nat := max 1 ((octets * cost + 3) / 4)

/-- A cluster's window. -/
def Matrix.curbOf (m : Matrix) (cluster : Nat) : CurbWin := (m.curb.find? (fun w => w.cluster = cluster)).getD ⟨cluster, 0, []⟩
def Matrix.putCurb (m : Matrix) (w : CurbWin) : Matrix := { m with curb := w :: m.curb.filter (fun x => x.cluster ≠ w.cluster) }

/-- The budget in use (R353, R386). -/
def State.curbBudget (s : State) : Nat := curbInUse s.pkg.curbBudget
/-- A charge a window takes. -/
def CurbWin.admits (w : CurbWin) (budget charge : Nat) : Bool := w.used == 0 || decide (w.used + charge ≤ budget)

/-- How Curb takes an issue: charged, or stalled. -/
inductive CurbVerdict
  | charged (s : State)
  | stalls (s : State)

/-- An MMA or MMAD is charged as it issues; one that a window admitted was charged there. -/
def Iss.curbCharge (i : Iss) (charge : Nat) : CurbVerdict :=
  let w := i.s.mtx.curbOf (coreCluster i.g0.core)
  let key : SplitKey := ⟨i.k, i.sid⟩
  let mine (e : CurbStall) : Bool := e.key = key && e.slot = i.p0.iaddr
  let others := w.stalled.filter (fun e => e.key ≠ key)
  match w.stalled.find? mine with
  | some e => if e.admitted then .charged (i.s.setMtx (i.s.mtx.putCurb { w with stalled := others })) else .stalls i.s
  | none =>
    if w.admits i.s.curbBudget charge then .charged (i.s.setMtx (i.s.mtx.putCurb { w with used := w.used + charge, stalled := others }))
    else .stalls (i.s.setMtx (i.s.mtx.putCurb { w with stalled := others ++ [⟨key, i.p0.iaddr, charge, i.s.cycle, false⟩] }))

/-! ## MMA, MMAD, MDRAIN (R310 to R314) -/

/-- Which of the three instructions. -/
structure MatForm where
  pass : Bool
  drains : Bool
  z : Bool
  tile : Nat
  a : Nat
  b : Nat
  kind : MatKind

/-- The format block of an instruction, read at issue. -/
def Iss.block (i : Iss) (f : Opnd) : Word64 × Word64 := (i.p0.s.getD f.num 0, i.p0.s.getD (f.num + 1) 0)

/-- The split waits for a register of some range that awaits a result (R119). -/
def Iss.rangeAwaited (i : Iss) (va na wb nb : Nat) : Option Nat :=
  ((i.g0.v.find? (fun e => e.busy.isSome && e.pend.isEmpty && decide (va ≤ e.name) && decide (e.name < va + na) && i.octs.contains e.octet)).bind VEnt.busy).or
    ((i.g0.wr.find? (fun e => e.busy.isSome && decide (wb ≤ e.name) && decide (e.name < wb + nb))).bind WEnt.busy)

/-- The operation whose result a register of the A range awaits, which LR reads for every thread of the split (R96, R119, R313). -/
def Iss.lastAwaited (i : Iss) (va na : Nat) : Option Nat :=
  (i.g0.v.find? (fun e => e.busy.isSome && e.pend.isEmpty && decide (va ≤ e.name) && decide (e.name < va + na)
    && (i.g0.octets i.splitLive).contains e.octet)).bind VEnt.busy

/-- The first invalidated w register of the B range (R101, R313). -/
def Iss.staleRange (i : Iss) (wb nb : Nat) : Option Nat := (namesFrom wb nb).find? (fun n => i.g0.stale.getLsbD n)

/-- An octet's request with what the pass needs. -/
def Iss.passReq (i : Iss) (p : MatPair) (w0 w1 : Word64) (va wb o : Nat) : MatReq :=
  let lo := i.g0.laneOctet o
  let nb := scaleBlocks (p.logicalK w0) (fbLen w0)
  let scales (base n : Nat) : List Nat := (List.range nb).map (fun b => i.spadNat (base + (n * nb + b) * 2) 2)
  { bareReq i.act o with
    a := (List.range 8).map (fun r => if i.act.getLsbD (8 * o + r) then i.g0.rowA va (p.regsA w0) (8 * o + r) else 0)
    b := i.g0.imageB wb p.bRegs lo
    records := if fbSparse w0 then i.metaOf w1 lo else []
    sa := if fbScaled w0 then (List.range 8).map (fun r => scales (fbScaleA w1) (8 * o + r)) else []
    sb := if fbScaled w0 then (List.range 16).map (fun c => scales (fbScaleB w1) (lo * 16 + c)) else [] }

/-- The split waits at the instruction with CURB, and the stall is recorded and counted (R352, R353). -/
def Iss.curbStall (i : Iss) (s : State) : Act :=
  let new := !(i.s.mtx.curbOf (coreCluster i.g0.core)).stalled.any (fun e => e.key = ⟨i.k, i.sid⟩ && e.slot = i.p0.iaddr)
  .hold (s.bothCopies i.k (fun g => if new then { g with curbStalls := g.curbStalls + 1 } else g)) wCURB

/-- VOUT's ready bits are cleared for the participating octets of an operation that drains (R313). -/
def Iss.reserveVout (i : Iss) (x : MatForm) (w1 : Word64) (k : Iss → Act) : Act :=
  if x.drains && fbVen w1 then
    let d := Dest.v (fbVout w1) (voutRegs w1)
    match (i.g0.v.find? (fun e => e.busy.isSome && e.pend.isEmpty && decide (fbVout w1 ≤ e.name) && decide (e.name < fbVout w1 + voutRegs w1)
        && i.octs.contains e.octet)).bind VEnt.busy with
    | some op => .stall (i.s0.resultCode op) (some op)
    | none => i.allocDest d i.act (fun j => (k j).andThen (fun n => .ok (match n.shared.getLast? with
        | some id => n.markBusy d i.act id
        | none => n)))
  else k i

/-- Checks, operands and the post of MMA, MMAD and MDRAIN; `lastA` is LR on SRCA, which takes the whole A range, whatever threads
are active (R22, R313). Curb charges a check pair's operation once, as its primary issues. DESIGN CHOICE: log entry 42. -/
def Iss.matrix (i : Iss) (x : MatForm) (f : Opnd) (lastA : Bool) : Act :=
  let (w0, w1) := i.block f
  if !i.any then
    match (if lastA then i.s0.blockPair w0 else none) with
    | none => .ok i
    | some p =>
      match i.lastAwaited x.a (p.regsA w0) with
      | some op => .stall (i.s0.resultCode op) (some op)
      | none => .ok { i with g := i.g.lastReads i.p0 (namesFrom x.a (p.regsA w0)) }
  else
    let spec : MatSpec := { kind := x.kind, tile := x.tile, fmt0 := w0, fmt1 := w1, areg := (i.p0.a[fbAreg w1]?).getD .zero, wb := x.b }
    if !blockReserved w0 w1 || (x.drains && !blockVout w1) then i.fault cFORMAT_INVALID 0 i.act
    else if !x.pass then i.reserveVout x w1 (fun j => j.postMat { spec with reqs := j.octs.map (bareReq j.act) })
    else
      match i.s0.blockPair w0 with
      | none => i.fault cFORMAT_INVALID 0 i.act
      | some p =>
        if x.a % p.regsA w0 ≠ 0 || 256 < x.a + p.regsA w0 then i.fault cILLEGAL_OPERAND (BitVec.ofNat 64 x.a) i.act
        else if x.b % p.bRegs ≠ 0 || 32 < x.b + p.bRegs then i.fault cILLEGAL_OPERAND (BitVec.ofNat 64 (0x140 + x.b)) i.act
        else
          match (i.rangeAwaited x.a (p.regsA w0) x.b p.bRegs).or (if lastA then i.lastAwaited x.a (p.regsA w0) else none) with
          | some op => .stall (i.s0.resultCode op) (some op)
          | none =>
            match i.firstOutside (i.matRanges p w0 w1) with
            | some o => i.fault cSPAD_BOUNDS (BitVec.ofNat 64 o) i.act
            | none =>
              match (if fbSparse w0 then i.badMeta p w1 else none) with
              | some n => i.fault cSPARSE_META (BitVec.ofNat 64 n) i.act
              | none =>
                match i.staleRange x.b p.bRegs with
                | some n => i.fault cSTALE_SHARED (BitVec.ofNat 64 n) i.act
                | none =>
                  if 32 < i.s.mtx.entries (coreCluster i.g0.core) + (if i.g0.pairchk && !i.k.shadow then 2 else 1) then .stall wMATRIX none
                  else
                    match (if i.k.shadow then .charged i.s else i.curbCharge (passCycles p.cost i.octs.length)) with
                    | .stalls s => i.curbStall s
                    | .charged s =>
                      let reqs := i.octs.map (i.passReq p w0 w1 x.a x.b)
                      let j : Iss := { i with s := s, g := if lastA then i.g.lastReads i.p0 (namesFrom x.a (p.regsA w0)) else i.g }
                      j.reserveVout x w1 (fun j => j.postMat { spec with reqs := reqs })

/-- MMA (R312 to R314). -/
def execMma (x : Mma) (s : State) : Result :=
  runCore
    { view := x.view false
      ownStale := true
      nonIdem := fun _ => true
      body := fun i =>
        i.matrix { pass := true, drains := false, z := false, tile := x.tile.toNat, a := x.a.num, b := x.b.num, kind := .mma } x.f x.c.lrA } s
/-- MMAD (R312 to R314). -/
def execMmad (x : Mma) (s : State) : Result :=
  runCore
    { view := x.view true
      ownStale := true
      nonIdem := fun _ => true
      body := fun i =>
        i.matrix { pass := true, drains := true, z := x.z, tile := x.tile.toNat, a := x.a.num, b := x.b.num, kind := .mmad x.z } x.f x.c.lrA } s
/-- MDRAIN (R312 to R314). -/
def execMdrain (x : MDrain) (s : State) : Result :=
  runCore
    { view := x.view
      nonIdem := fun _ => true
      body := fun i =>
        i.matrix { pass := false, drains := true, z := x.z, tile := x.tile.toNat, a := 0, b := 0, kind := .mdrain x.z } x.f false } s

/-! ## MZERO, MKLD, MKST (R312, R316) -/

/-- MZERO. -/
def execMzero (x : MZero) (s : State) : Result :=
  runCore
    { view := x.view
      body := fun i =>
        if !i.any then .ok i else i.postMat { kind := .mzero, tile := x.tile.toNat, reqs := i.octs.map (bareReq i.act) } } s

/-- The 1,024 bytes of an octet's tile image, checked and translated for its lowest active thread (R316). -/
def Iss.tilePlace (i : Iss) (a : AReg) (disp : BitVec 18) (st : Bool) (o : Nat) : Except ThrFault MatReq :=
  let t := ((List.range 8).find? (fun r => i.act.getLsbD (8 * o + r))).getD 0 + 8 * o
  let ea : Int := Int.ofNat a.ptr.toNat + disp.toInt + 1024 * Int.ofNat o
  let fail (c : BitVec 8) : Except ThrFault MatReq := .error ⟨t, c, BitVec.ofInt 64 ea, false, none⟩
  if ea % 128 ≠ 0 then fail cALIGN
  else if a.pv then fail cADDR_PERM
  else if !a.holds ea 1024 then fail cADDR_BOUNDS
  else if (if st then !a.wr else !a.rd) then fail cADDR_PERM
  else
    match i.translateParts t (if st then .store else .load) (i.memberSel t) (cutAt 128 ea.toNat 1024) with
    | .error e => .error e
    | .ok [] => .ok (bareReq i.act o)
    | .ok (p :: ps) =>
      if ps.all (fun q => q.attr == p.attr) then
        .ok { bareReq i.act o with va := ea.toNat, pas := (p :: ps).map (fun q => (q.at0, q.size, q.pa, q.attr.key)) }
      else .error ⟨t, cALIGN, BitVec.ofInt 64 ea, true, none⟩

/-- Threads of the octets whose places fault with a cause: all that are active. -/
def Iss.octetMask (i : Iss) (ts : List Nat) : Mask := maskOf i.g0.f (fun t => i.act.getLsbD t && ts.any (fun u => u / 8 == t / 8))

/-- MKLD and MKST: a fault of any octet leaves every octet without effect. DEDUCED: log entry 28. -/
def Iss.moveTiles (i : Iss) (x : MTile) (st : Bool) : Act :=
  if !i.any then .ok i
  else
    let a := i.areg x.a
    let perm : Perm := if st then .store else .load
    let rs := i.octs.map (i.tilePlace a x.disp st)
    let fs := rs.filterMap (fun r => match r with
      | .error e => some e
      | .ok _ => none)
    let reqs := rs.filterMap (fun r => match r with
      | .ok q => some q
      | .error _ => none)
    match faultOf fs perm false i.p0.iaddr i.p0.word with
    | some info =>
      .trap { i with s := (fs.filterMap ThrFault.page).foldl (fun (s : State) q => s.touchWalk i.core i.g0.ctx q.at0) i.s0, g := i.g0 }
        { info with mask := i.octetMask ((fs.filter (fun e => e.code = info.code)).map ThrFault.thread) }
    | none =>
      let s1 := if i.k.shadow then i.s else reqs.foldl (fun (s : State) r => r.pas.foldl (fun (s : State) p => s.tlbFill i.core i.g0.ctx (r.va + p.1)) s) i.s
      (({ i with s := s1 } : Iss).spend).postMat
        { kind := if st then .mkst else .mkld, tile := x.tile.toNat, reqs := reqs, }

/-- MKLD (R316). -/
def execMkld (x : MTile) (s : State) : Result :=
  runCore { view := x.view, body := fun i => i.moveTiles x false } s
/-- MKST (R316). -/
def execMkst (x : MTile) (s : State) : Result :=
  runCore { view := x.view, body := fun i => i.moveTiles x true } s

/-! ## DPLD, DPINV, MSTAT (R317 to R319, R325) -/

/-- The DEND word (R321). -/
def dendWord : BitVec 32 := 2

/-- The first word R325 rejects, from an index on; 32 where no word is DEND. -/
def firstRejected : List (BitVec 32) → Nat → Option Nat
  | [], _ => some 32
  | w :: rest, n =>
    match decodeMicro w with
    | none => some n
    | some .dend => none
    | some (.dla _) => if rest.head? = some dendWord then none else some n
    | some _ => firstRejected rest (n + 1)

/-- The micro-words 128 bytes hold. -/
def microWords (bs : List Byte) : List (BitVec 32) := (List.range 32).map (fun n => BitVec.ofNat 32 (leNat ((bs.drop (4 * n)).take 4)))

/-- DPLD: the program is read, after what its threads still have under way there (R248), and checked, and its installation queued.
DEDUCED: log entry 28. -/
def execDpld (x : Dpld) (s : State) : Result :=
  runCore
    { view := x.view
      nonIdem := fun _ => true
      body := fun i =>
        if !i.any then .ok i
        else
          let a := i.areg x.a
          match i.readThrough a (Int.ofNat a.ptr.toNat) 128 128 with
          | .error e => i.awaitPeer (i.readFar e) (i.readTrap e)
          | .ok (bs, ps) =>
            if i.owes ps then .stall 0 none
            else
            let ws := microWords bs
            match firstRejected ws 0 with
            | some n =>
              .trap { i with s := (i.s0.unhold i.holdKey).readSeen i.core i.g0.ctx ps, g := i.g0, p := i.p0 } (i.p0.trapInfo cDRAIN_INVALID (BitVec.ofNat 64 n) i.act)
            | none =>
              let s1 := if i.k.shadow then i.s else (i.s.unhold i.holdKey).readSeen i.core i.g0.ctx ps
              (({ i with s := s1 } : Iss).spend).postMat { kind := .dpld x.n.toNat, words := ws } } s

/-- DPINV (R318). -/
def execDpinv (x : Dpinv) (s : State) : Result :=
  runCore
    { view := x.view
      nonIdem := fun _ => true
      body := fun i => if !i.any then .ok i else i.postMat { kind := .dpinv x.n.toNat } } s

/-- A cluster's drain-store slot (R343). DESIGN CHOICE: log entry 7. -/
def Matrix.slot (m : Matrix) (cluster n : Nat) : DSlot :=
  (m.slots.find? (fun d => d.cluster = cluster && d.n = n)).getD ⟨cluster, n, false, 0, none, []⟩
def Matrix.putSlot (m : Matrix) (d : DSlot) : Matrix :=
  { m with slots := d :: m.slots.filter (fun e => !(e.cluster = d.cluster && e.n = d.n)) }

/-- A slot after a DPLD (R344). -/
def DSlot.load (d : DSlot) (ctx : Nat) (ws : List (BitVec 32)) : DSlot :=
  { d with valid := true, gen := d.gen + 1, ctx := some ctx, words := ws }
/-- A slot after a DPINV (R344). -/
def DSlot.invalidate (d : DSlot) : DSlot := { d with valid := false, gen := d.gen + 1 }
/-- What a queued operation will make of a slot. -/
def DSlot.after (d : DSlot) (o : MatOp) : DSlot :=
  match o.kind with
  | .dpld n => if d.cluster = o.cluster && d.n = n then d.load o.ctx o.words else d
  | .dpinv n => if d.cluster = o.cluster && d.n = n then d.invalidate else d
  | _ => d

/-- The operations of a cluster's queue up to the last that a group has issued. -/
def Matrix.upTo (m : Matrix) (cluster : Nat) (k : GroupKey) : List MatOp :=
  ((m.ops.filter (fun o => o.cluster = cluster)).reverse.dropWhile (fun o => o.g ≠ k)).reverse

/-- What MSTAT returns (R319, R345). -/
def Iss.mstat (i : Iss) (n : Nat) : Word64 :=
  if n < 64 then
    let cluster := coreCluster i.core
    let d := (i.s0.mtx.upTo cluster i.opKey).foldl DSlot.after (i.s0.mtx.slot cluster n)
    BitVec.ofNat 64 (d.gen.toNat + (if d.valid && d.ctx == some i.g0.ctx then 2 ^ 63 else 0))
  else BitVec.ofNat 64 (i.s0.mtx.ops.filter (fun o => o.g = i.opKey)).length

/-- MSTAT (R319). -/
def execMstat (x : MStat) (s : State) : Result :=
  runCore { view := x.view, body := fun i => .ok (if i.any then i.writeS x.d (i.mstat x.n.toNat) else i) } s

end Sys2Proof.Machine
end

