-- ==== Sys2Proof/Machine/MatPass.lean ====
section
/-! DEFINITION. What an array pass does to a tile (spec/16_matrix_and_drain_instructions.md R300, R301, R304 to R309, R314),
and the tile's views. -/

namespace Sys2Proof.Machine

/-! ## Weights (R300, R301) -/

/-- A term's magnitude × 2^6: a shift code 7 means that it is absent. -/
def termMag (k : Nat) : Int := if k = 7 then 0 else (2 ^ (6 - k) : Nat)
/-- A DS8 weight × 2^6. -/
def ds8Int (b : Nat) : Int :=
  let one (s k : Nat) : Int := if s = 1 then -termMag k else termMag k
  one (b / 128 % 2) (b / 16 % 8) + one (b / 8 % 2) (b % 8)
/-- A DS4 weight × 2^6. -/
def ds4Int (b : Nat) : Int := if b / 8 % 2 = 1 then -termMag (b % 8) else termMag (b % 8)

/-- An element as an integer, DS weights × 2^6 (R306). -/
def MatEl.int (e : MatEl) (bits : Nat) : Int :=
  match e with
  | .int8 => extInt true 8 (BitVec.ofNat 64 bits)
  | .ds8 => ds8Int (bits % 256)
  | .ds4 => ds4Int (bits % 16)
  | _ => 0

/-- An integer × 2^-6 or an integer as a value. -/
def intVal (n : Int) (e : Int) : FVal := .fin (decide (n < 0)) n.natAbs e

/-- An element as a value (R308). -/
def MatEl.val (e : MatEl) (bits : Nat) : FVal :=
  match e with
  | .int8 => intVal (e.int bits) 0
  | .bf16 => fBF16.unpack (bits % 2 ^ 16)
  | .fp16 => fF16.unpack (bits % 2 ^ 16)
  | .fp32 => fF32.unpack (bits % 2 ^ 32)
  | .fp64 => fF64.unpack (bits % 2 ^ 64)
  | .ds8 => intVal (e.int bits) (-6)
  | .ds4 => intVal (e.int bits) (-6)

/-- Element n of an image of elements. -/
def MatEl.at (e : MatEl) (image n : Nat) : Nat := image / 2 ^ (n * e.bits) % 2 ^ e.bits

/-- The stored row that stands for a logical row of a sparse column: none where that row is zero (R305). -/
def storedRow (rec1 k : Nat) : Option Nat :=
  ((List.range 4).find? (fun j => metaPos rec1 (k / 8) j = k % 8)).map (fun j => 4 * (k / 8) + j)

/-- B[k][c] of a request, as its bits: none where sparsity makes it zero. DEDUCED: log entry 28. -/
def MatReq.bAt (r : MatReq) (p : MatPair) (k c : Nat) : Option Nat :=
  match r.records with
  | [] => some (p.eb.at r.b (k * 16 + c))
  | recs => (storedRow (recs.getD c 0) k).map (fun j => p.eb.at r.b (j * 16 + c))
/-- A[row][k] of a request. -/
def MatReq.aAt (r : MatReq) (p : MatPair) (row k : Nat) : Nat := p.ea.at (r.a.getD row 0) k

/-! ## Exact sums (R306, R308) -/

/-- The exact integer sum of products over some k. -/
def MatReq.sumInt (r : MatReq) (p : MatPair) (row c from1 n : Nat) : Int :=
  (List.range n).foldl (fun (acc : Int) j =>
    acc + p.ea.int (r.aAt p row (from1 + j)) * ((r.bAt p (from1 + j) c).map p.eb.int).getD 0) 0

/-- An exact product, and whether it is invalid (R51, R308). -/
def prodVal (a b : FVal) : FVal × Bool :=
  if a.isNan || b.isNan then (.nan false, a.isSnan || b.isSnan)
  else
    match a, b with
    | .fin n k e, .fin n' k' e' => (.fin (n != n') (k * k') (e + e'), false)
    | x, y => if x.isZero || y.isZero then (.nan false, true) else (.inf (x.neg? != y.neg?), false)

/-- The exponent all finite terms share. -/
def lowExp (l : List FVal) : Int :=
  l.foldl (fun (q : Int) v => match v with
    | .fin _ _ e => min q e
    | _ => q) 0

/-- An exact sum rounded once (R50, R51, R308): `nv` says that a term was invalid. DEDUCED: log entry 15. -/
def Fmt.sumVals (f : Fmt) (l : List FVal) (nv : Bool) : FRes :=
  let opposed := l.any (fun v => v == .inf true) && l.any (fun v => v == .inf false)
  if l.any FVal.isNan then (f.qnan, flagIf (nv || opposed || l.any FVal.isSnan) fNV)
  else if opposed then f.invalid
  else if l.any (fun v => v == .inf true) then (f.infBits true, 0)
  else if l.any (fun v => v == .inf false) then (f.infBits false, 0)
  else
    let q := lowExp l
    let sum := l.foldl (fun (acc : Int) v => match v with
      | .fin n m e => acc + finInt n m e q
      | _ => acc) 0
    f.roundInt .rn sum q (l.all (fun v => v.isZero && v.neg?))

/-! ## Tile views (R309) -/

/-- Element e of a tile in a view. -/
def tileGet (v : MatAcc) (ws : List Word32) (e : Nat) : Nat :=
  match v with
  | .f64 => (ws.getD (2 * e) 0).toNat + (ws.getD (2 * e + 1) 0).toNat * 2 ^ 32
  | _ => (ws.getD e 0).toNat
def tileSet (v : MatAcc) (ws : List Word32) (e x : Nat) : List Word32 :=
  match v with
  | .f64 => (ws.set (2 * e) (BitVec.ofNat 32 x)).set (2 * e + 1) (BitVec.ofNat 32 (x / 2 ^ 32))
  | _ => ws.set e (BitVec.ofNat 32 x)
/-- The block partial of element e. -/
def partGet (ws : List Word32) (e : Nat) : Int := (ws.getD (128 + e) 0).toInt
def partSet (ws : List Word32) (e : Nat) (x : Int) : List Word32 := ws.set (128 + e) (BitVec.ofInt 32 x)

/-- Rows' elements and partials become zero in a view (R314). DEDUCED: log entry 28. -/
def tileClear (v : MatAcc) (ws : List Word32) (rows : List Nat) : List Word32 :=
  let hit (i : Nat) : Bool :=
    match v with
    | .f64 => rows.contains (i / 32)
    | _ => rows.contains (i % 128 / 16)
  ws.mapIdx (fun i w => if hit i then 0 else w)

/-! ## One element (R306 to R308) -/

/-- A scaled block's term: P × 2^-f × sa × sb; a NaN scale is invalid (R307). -/
def scaleTerm (p : Int) (f : Int) (sa sb : FVal) : FVal × Bool :=
  if sa.isNan || sb.isNan then (.nan false, true)
  else
    let x := prodVal (intVal p (-f)) sa
    let y := prodVal x.1 sb
    (y.1, x.2 || y.2)

/-- The scale of block b. -/
def scaleAt (l : List (List Nat)) (n b : Nat) : FVal := fBF16.unpack ((l.getD n []).getD b 0)

/-- f of R307. -/
def MatPair.shift (p : MatPair) : Int := if p.eb == .int8 then 0 else 6

/-- acc := RN(acc + term), with the flags raised so far. -/
def accStep (acc : FRes) (t : FVal × Bool) : FRes :=
  let r := fF32.sumVals [fF32.unpack acc.1, t.1] t.2
  (r.1, acc.2 ||| r.2)

/-- A tile's words after one element's accumulation, and the flags. -/
def MatReq.element (r : MatReq) (p : MatPair) (w0 : Word64) (row c : Nat) (ws : List Word32) : List Word32 × BitVec 5 :=
  let e := 16 * row + c
  let k := p.logicalK w0
  let len := fbLen w0
  let v := fbAcc w0
  let old := tileGet v ws e
  let term (b : Nat) (x : Int) : FVal × Bool := scaleTerm x p.shift (scaleAt r.sa row b) (scaleAt r.sb c b)
  if fbScaled w0 then
    if len ≤ k then
      let res := (List.range (k / len)).foldl (fun (acc : FRes) b => accStep acc (term b (r.sumInt p row c (b * len) len))) (old, 0)
      (tileSet v ws e res.1, res.2)
    else
      let part := (if fbKpos w0 = 0 then 0 else partGet ws e) + r.sumInt p row c 0 k
      if fbKpos w0 + 1 = len / k then
        let res := accStep (old, 0) (term 0 part)
        (partSet (tileSet v ws e res.1) e 0, res.2)
      else (partSet ws e part, 0)
  else
    match v with
    | .i32 =>
      let x := extInt true 32 (BitVec.ofNat 64 old) + r.sumInt p row c 0 k
      (tileSet v ws e ((if fbSat w0 then satInt true 32 x else x) % 2 ^ 32).toNat, 0)
    | _ =>
      let f := if v == .f64 then fF64 else fF32
      let prods := (List.range k).map (fun j => prodVal (p.ea.val (r.aAt p row j)) (((r.bAt p j c).map p.eb.val).getD (.fin false 0 0)))
      let res := f.sumVals (f.unpack old :: prods.map Prod.fst) (prods.any Prod.snd)
      (tileSet v ws e res.1, res.2)

/-- A row's sixteen elements. -/
def MatReq.row (r : MatReq) (p : MatPair) (w0 : Word64) (row : Nat) (ws : List Word32) : List Word32 × BitVec 5 :=
  (List.range 16).foldl (fun (acc : List Word32 × BitVec 5) c =>
    let x := r.element p w0 row c acc.1
    (x.1, acc.2 ||| x.2)) (ws, 0)

/-- The tile after a request's pass, and each active row's flags (R314). -/
def MatReq.pass (r : MatReq) (p : MatPair) (w0 : Word64) (ws : List Word32) : List Word32 × List (Nat × BitVec 5) :=
  (octetRowsOf r.rows).foldl (fun (acc : List Word32 × List (Nat × BitVec 5)) row =>
    let x := r.row p w0 row acc.1
    (x.1, acc.2 ++ [(row, x.2)])) (ws, [])

end Sys2Proof.Machine
end

