-- ==== Sys2Proof/Machine/MatEvents.lean ====
section
/-! DEFINITION. The matrix engine at work (spec/18_matrix_engine_and_drain.md R335 to R345, R351, R352): grants, promotion, tiles
and their spilling, the operations that need no pass, and the Curb window. -/

namespace Sys2Proof.Machine

/-! ## The queue (R334 to R336) -/

/-- An operation at the head of its queue may perform accesses (R228, R255). -/
def State.matReady (s : State) (o : MatOp) : Bool := s.engineReady o.g o.threads o.id && !s.qfenceHolds o.g 8 o.id

/-- An operation has been performed, in both copies of a check pair: it leaves the queue and its flag counts down (R256). -/
def State.finishMat (s : State) (o : MatOp) : State :=
  let gone (p : MatOp) : Bool := p.id = o.id || some p.id = o.mate
  (((s.setMtx { s.mtx with ops := s.mtx.ops.filter (fun p => !gone p), drains := s.mtx.drains.filter (fun d => d.op ≠ o.id) }).flagDown o.g o.flag).afterPerform o.g).releaseExited

/-- IEEE flags of a thread wait with a completion flag; an exited thread loses them (R54, R315). -/
def State.matFlags (s : State) (k : GroupKey) (flag : Option Nat) (l : List (Nat × BitVec 5)) : State :=
  match flag with
  | none => s
  | some n =>
    s.modGroup k (fun g => g.mapThreads (fun t th =>
      if th.exited then th else l.foldl (fun (th : Thread) e => if e.1 = t then th.addPending n e.2 else th) th))

/-! ## Tiles (R341, R342) -/

/-- A tile's words replaced. -/
def State.setTile (s : State) (k : GroupKey) (octet n : Nat) (ws : List Word32) : State :=
  match s.mtx.tile? k octet n with
  | some t => s.setMtx (s.mtx.putTile { t with words := ws, used := s.cycle })
  | none => s

/-! ## Passes (R314, R335, R337, R340) -/

/-- An operation's accumulation on every octet's tile. -/
def State.accumulate (s : State) (o : MatOp) : State :=
  match matPair (fbAfmt o.fmt0) (fbBfmt o.fmt0) with
  | none => s
  | some p =>
    o.reqs.foldl (fun (s : State) r =>
      let x := r.pass p o.fmt0 (s.mtx.tileWords o.g r.octet o.tile)
      (s.setTile o.g r.octet o.tile x.1).matFlags o.g o.flag (x.2.map (fun e => (8 * r.octet + e.1, e.2)))) s

/-- An operation has had its pass: an MMA has been performed, an MMAD is to drain. -/
def State.granted (s : State) (o : MatOp) : State :=
  match o.kind with
  | .mma => s.finishMat o
  | _ => s.setMtx { s.mtx with ops := s.mtx.ops.map (fun p => if p.id = o.id || some p.id = o.mate then { p with granted := true } else p) }

/-- MATRIX_GRANT (R337, R340): the arbiter's choice runs as one pass with the entries it collects. -/
def execMatrixGrant (x : EvMatrix) (s : State) : Result :=
  match s.matChoice x.cluster with
  | none => notDue "MATRIX_GRANT"
  | some o =>
    if o.id ≠ x.op then notDue "MATRIX_GRANT"
    else
      let ops := s.passOf o
      let all := ops.flatMap s.mtx.withMate
      match s.needTiles all with
      | none => notDue "MATRIX_GRANT"
      | some s1 => .next (ops.foldl (fun (s : State) p => s.granted p) (all.foldl (fun (s : State) p => s.accumulate p) s1))

/-- MATRIX_PROMOTION (R337): an entry has waited 512 cycles at its level. -/
def execMatrixPromotion (x : EvMatrix) (s : State) : Result :=
  match s.mtx.op? x.op with
  | none => notDue "MATRIX_PROMOTION"
  | some o =>
    dueIf "MATRIX_PROMOTION" (o.cluster = x.cluster && !o.granted && decide (0 < o.level) && decide (o.levelAt + 512 ≤ s.cycle))
      (s.setMtx (s.mtx.putOp { o with level := o.level - 1, levelAt := o.levelAt + 512 }))

/-! ## Operations without a pass (R336) -/

/-- A request's rows become zero, in both copies; a tile with every row cleared is released (R341). -/
def State.zeroRequest (s : State) (o : MatOp) (v : MatAcc) (octet : Nat) (rows : BitVec 8) : State :=
  if rows = 255#8 then s.releaseTile o.ctx o.g octet o.tile
  else s.setTile o.g octet o.tile (tileClear v (s.mtx.tileWords o.g octet o.tile) (octetRowsOf rows))

/-- The places of a request that another device holds. -/
def MatReq.away (r : MatReq) (s : State) : Bool := r.pas.any (fun p => s.elsewhere p.2.2.1)

/-- What a class A trap reports of an access at a distance from a request's start (R400). -/
def MatReq.where' (r : MatReq) (code : BitVec 8) (d : Nat) : Word64 :=
  let pa := ((r.pas.find? (fun p => p.1 = d)).map (fun p => p.2.2.1)).getD 0
  BitVec.ofNat 64 (if code = cREMOTE_WINDOW then frameOff pa else if code = cENDPOINT_DOWN then frameDev pa else r.va + d)

/-- The first place of a request that another device holds. -/
def MatReq.awayAt (r : MatReq) (s : State) : Nat := ((r.pas.find? (fun p => s.elsewhere p.2.2.1)).map Prod.fst).getD 0

/-- The places of a request reach their homes (R175, R185, R382). -/
def State.reqSeen (s : State) (o : MatOp) (r : MatReq) (need : WinNeed) : State :=
  r.pas.foldl (fun (s : State) p => s.engineSeen o.core o.ctx (r.va + p.1) p.2.2.1 p.2.1 need) s

/-- The first place of a request whose device is not reached. -/
def MatReq.unreached (r : MatReq) (s : State) : Option Nat :=
  (r.pas.find? (fun p => s.elsewhere p.2.2.1 && !s.reachable (frameDev p.2.2.1))).map Prod.fst

/-- What one octet's move meets from outside: an uncorrectable error, or a peer's refusal. -/
def MatReq.outside (r : MatReq) (s : State) (reply : PeerReply) (bad : Bool) : Option (BitVec 8 × Nat) :=
  match reply with
  | .fault c => if r.away s then some (c, r.awayAt s) else none
  | .data _ => if bad then some (cMEM_UNCORRECTABLE, 0) else none

/-- The faults of an octet's active threads. -/
def MatOp.octetFaults (o : MatOp) (r : MatReq) (c : BitVec 8) (d : Nat) : List ThrFault :=
  ((List.range 8).filter (fun n => o.threads.getLsbD (8 * r.octet + n))).map (fun n => ⟨8 * r.octet + n, c, r.where' c d, true, none⟩)

/-- MKLD of one octet (R316): its image, where every read is sound, goes to the tile of each copy; else its threads fault. The
rest of a peer's answer is handed on; none where it is too short. -/
def State.loadTile (s : State) (o : MatOp) (r : MatReq) (met : Option (BitVec 8 × Nat)) (fs : List ThrFault) (rep : List Byte) :
    Option (State × List ThrFault × List Byte) :=
  match met with
  | some (c, d) => some (s, fs ++ o.octetFaults r c d, rep)
  | none =>
    match s.unitReads o.core o.ctx r.pas rep with
    | .error (c, d) => if c = 0#8 then none else some (s, fs ++ o.octetFaults r c d, rep)
    | .ok (l, rest) =>
      let bs := layRow 1024 l
      let ws := (List.range 256).map (fun n => BitVec.ofNat 32 (leNat ((bs.drop (4 * n)).take 4)))
      some ((s.mtx.withMate o).foldl (fun (s : State) p => s.setTile p.g r.octet p.tile ws) (s.reqSeen o r .read), fs, rest)

/-- MKLD is over: its tiles as loaded, or, where an octet faults, as they were, with a class T fault (R122, R316). -/
def State.endLoad (s loaded : State) (o : MatOp) (fs : List ThrFault) : Option State :=
  match faultOf fs .load false o.iaddr o.word with
  | none => some (loaded.finishMat o)
  | some i => if o.quiet then some (s.finishMat o) else (s.finishMat o).lateFault o.g o.sid o.id i o.region

/-- MKST of one octet (R316): all of its image is written, or none and the group is told. -/
def State.storeTile (s : State) (o : MatOp) (r : MatReq) (met : Option (BitVec 8 × Nat)) : State :=
  let refused := r.pas.findSome? (fun (p : Nat × Nat × Nat × BitVec 10) => (s.writeRefused p.2.2.1 p.2.1 p.2.2.2).map (fun c => (c, p.1)))
  match met.or refused with
  | some (c, d) => s.raiseAsync o.g c (r.where' c d) true
  | none =>
    let bs := (s.mtx.tileWords o.g r.octet o.tile).flatMap (fun w => leBytes 4 w.toNat)
    r.pas.foldl (fun (s : State) p => s.engineWrite o.core o.ctx p.2.2.1 p.2.2.2 ((bs.drop p.1).take p.2.1)) (s.reqSeen o r .write)

/-- What the first octet that an outside event concerns meets; one whose device is not reached meets that, and the others nothing
(R375). -/
def meets (s : State) (reply : PeerReply) (bad : Bool) (l : List MatReq) : List (MatReq × Option (BitVec 8 × Nat)) :=
  let first := l.find? (fun r => (r.unreached s).isNone && (r.outside s reply bad).isSome)
  l.map (fun r => (r, if (r.unreached s).isSome then (r.unreached s).map (fun d => (cENDPOINT_DOWN, d)) else if first.map MatReq.octet = some r.octet then r.outside s reply bad else none))

/-- An MKLD or MKST moves its images. -/
def State.moveNow (s : State) (x : EvMatMove) (o : MatOp) : Result :=
    let rep := match x.reply with
      | .data bs => bs
      | .fault _ => []
    let fits := metOf x.reply rep.length != .unfit && (match x.reply with
      | .fault _ => !x.bad && o.reqs.any (fun r => r.away s && (r.unreached s).isNone)
      | .data _ => true)
    let ls := meets s x.reply x.bad o.reqs
    match o.kind with
    | .mkld =>
      (match s.needTiles (s.mtx.withMate o) with
       | none => notDue "MATRIX_QUEUE_OPERATION_PERFORM"
       | some s1 =>
         match ls.foldlM (fun (acc : State × List ThrFault × List Byte) e => acc.1.loadTile o e.1 e.2 acc.2.1 acc.2.2) (s1, [], rep) with
         | none => notDue "MATRIX_QUEUE_OPERATION_PERFORM"
         | some (s2, fs, rest) =>
           match s.endLoad s2 o fs with
           | none => notDue "MATRIX_QUEUE_OPERATION_PERFORM"
           | some s3 => dueIf "MATRIX_QUEUE_OPERATION_PERFORM" (fits && rest.isEmpty && s.matReady o) s3)
    | .mkst =>
      (match s.reloadTiles (s.mtx.withMate o) with
       | none => notDue "MATRIX_QUEUE_OPERATION_PERFORM"
       | some s1 =>
         dueIf "MATRIX_QUEUE_OPERATION_PERFORM" (fits && rep.isEmpty && !x.bad && s.matReady o)
           ((ls.foldl (fun (s : State) e => s.storeTile o e.1 e.2) s1).finishMat o))
    | _ => notDue "MATRIX_QUEUE_OPERATION_PERFORM"

/-- MATRIX_QUEUE_OPERATION_PERFORM (R336): MZERO, MKLD or MKST at the head of its queue; a move to or from a device that is not
reached waits (R375). -/
def execMatrixQueueOperationPerform (x : EvMatMove) (s : State) : Result :=
  match s.mtx.head? x.cluster with
  | none => notDue "MATRIX_QUEUE_OPERATION_PERFORM"
  | some o =>
    match o.kind with
    | .mzero =>
      (match s.needTiles (s.mtx.withMate o) with
       | none => notDue "MATRIX_QUEUE_OPERATION_PERFORM"
       | some s1 =>
         let s2 := (s1.mtx.withMate o).foldl (fun (s : State) p => p.reqs.foldl (fun (s : State) r => s.zeroRequest p .i32 r.octet r.rows) s) s1
         dueIf "MATRIX_QUEUE_OPERATION_PERFORM" (!x.bad && x.reply == .data [] && s.matReady o) (s2.finishMat o))
    | _ =>
      if !s.matReady o then notDue "MATRIX_QUEUE_OPERATION_PERFORM"
      else
        s.afterHold "MATRIX_QUEUE_OPERATION_PERFORM" (.op o.id) (s.farOf (o.reqs.flatMap (fun r => r.pas.map (fun p => p.2.2.1)))) (fun s => s.moveNow x o)

/-- DPLD_INSTALL (R317, R344): at the head of its queue. -/
def execDpldInstall (x : EvCluster) (s : State) : Result :=
  match s.mtx.head? x.cluster with
  | none => notDue "DPLD_INSTALL"
  | some o =>
    match o.kind with
    | .dpld n => dueIf "DPLD_INSTALL" (s.matReady o) ((s.setMtx (s.mtx.putSlot ((s.mtx.slot x.cluster n).load o.ctx o.words))).finishMat o)
    | _ => notDue "DPLD_INSTALL"

/-- DPINV_PERFORM (R318, R344): at the head of its queue. -/
def execDpinvPerform (x : EvCluster) (s : State) : Result :=
  match s.mtx.head? x.cluster with
  | none => notDue "DPINV_PERFORM"
  | some o =>
    match o.kind with
    | .dpinv n => dueIf "DPINV_PERFORM" (s.matReady o) ((s.setMtx (s.mtx.putSlot (s.mtx.slot x.cluster n).invalidate)).finishMat o)
    | _ => notDue "DPINV_PERFORM"

/-! ## The Curb window (R352) -/

/-- A stalled issue still stands where it stalled; one admitted may stand there for the table (R334). -/
def State.stallStands (s : State) (e : CurbStall) : Bool :=
  match (s.group? e.key.g).bind (fun g => g.split? e.key.sid) with
  | some p => (e.admitted || p.st == .blocked (.retry wCURB none)) && p.iaddr = e.slot
  | none => false

/-- The order of admission: oldest stall, core, group context (R352). DEDUCED: log entry 30. -/
def State.stallRank (s : State) (e : CurbStall) : Nat :=
  (e.since * 2 ^ 32 + ((s.group? e.key.g).map Group.core).getD 0) * 2 ^ 32 + (s.groups.map Group.key).idxOf e.key.g

/-- A window's stalled issues admitted in order while the budget allows. DEDUCED: log entry 30. -/
def admitStalled (budget : Nat) : List CurbStall → Nat → List CurbStall × Nat
  | [], used => ([], used)
  | e :: rest, used =>
    if (⟨0, used, []⟩ : CurbWin).admits budget e.charge then
      let r := admitStalled budget rest (used + e.charge)
      ({ e with admitted := true } :: r.1, r.2)
    else (e :: rest, used)

/-- CURB_WINDOW_START: every 1,024 cycles, after what the cycle before selected has issued and before anything issues in the window. An issue admitted before that has not posted yet
was charged then. -/
def execCurbWindowStart (s : State) : Result :=
  let next (w : CurbWin) : CurbWin :=
    let here := w.stalled.filter s.stallStands
    let r := admitStalled s.curbBudget (sortBy s.stallRank (here.filter (fun e => !e.admitted))) 0
    { w with used := r.2, stalled := here.filter CurbStall.admitted ++ r.1 }
  dueIf "CURB_WINDOW_START" (s.windowTurns && s.sched.issue == [])
    (s.setMtx { s.mtx with window := (s.cycle + 1) / 1024, curb := s.mtx.curb.map next })

end Sys2Proof.Machine
end

