-- ==== Sys2Proof/Machine/Drain.lean ====
section
/-! DEFINITION. Draining (spec/16_matrix_and_drain_instructions.md R320 to R326; spec/18_matrix_engine_and_drain.md R345 to R349,
R351): the micro-instructions, the elements of a request in order, and drain faults. -/

namespace Sys2Proof.Machine

/-! ## The element in progress -/

def DrainRun.row (r : DrainRun) : Nat := r.elem / 16
def DrainRun.col (r : DrainRun) : Nat := r.elem % 16
/-- The thread of the element (R320). -/
def DrainRun.thread (r : DrainRun) : Nat := 8 * r.octet + r.row

def State.runOp (s : State) (r : DrainRun) : Option MatOp := s.mtx.op? r.op
def State.runGroup (s : State) (r : DrainRun) : Option Group := (s.runOp r).bind (fun o => s.group? o.g)
/-- The lane octet of the element's octet. -/
def State.runLo (s : State) (r : DrainRun) : Nat := ((s.runGroup r).map (fun g => g.laneOctet r.octet)).getD 0
/-- The image of a thread's x register. -/
def State.runImage (s : State) (r : DrainRun) (x : Nat) : Option Image :=
  ((s.runGroup r).bind (fun g => g.threads[r.thread]?)).bind (fun th => th.acc[x]?)
/-- A range lies in the scratchpad of the drain's team (R141). -/
def State.runSpadIn (s : State) (r : DrainRun) (o : Int) (n : Nat) : Bool :=
  (((s.runOp r).bind (fun p => s.team? p.g.team)).map (fun t => t.spadIn o n)).getD false

/-! ## Drain faults (R326, R347, R349) -/

/-- DRPOS of a stopped drain. -/
def drPos (o : MatOp) (gen : BitVec 32) (slot elem octet : Nat) : Word64 :=
  let z := match o.kind with
    | .mmad b => b
    | .mdrain b => b
    | _ => false
  BitVec.ofNat 64 (2 ^ 63 + z.toNat * 2 ^ 62 + gen.toNat * 2 ^ 24 + slot * 2 ^ 18 + elem * 2 ^ 11 + octet * 2 ^ 5 + o.tile)

/-- The request of an octet. -/
def MatOp.req? (o : MatOp) (octet : Nat) : Option MatReq := o.reqs.find? (fun r => r.octet = octet)

/-- The a register image a drain stores through: the one captured at issue, or, for a request that a handler has restarted, the one
it left in the restart registers (R324, R348). -/
def MatOp.image (o : MatOp) (octet : Nat) : AReg := ((o.areg2.filter (fun e => e.1 = octet)).map Prod.snd).getD o.areg

/-- The drain-restart registers as a drain fault leaves them (R349). -/
def DrainRegs.stop (o : MatOp) (id : BitVec 16) (gen : BitVec 32) (slot elem octet : Nat) (f : DrainFlt) : DrainRegs :=
  { cause := causeWord f.code false false false f.detail, addr := f.addr, req := id.setWidth 64, pos := drPos o gen slot elem octet
    fmt0 := o.fmt0, fmt1 := o.fmt1, aptr := (o.image octet).ptr, abase := (o.image octet).base, alim := (o.image octet).limit, aperm := (o.image octet).permBits
    rows := (((o.req? octet).map MatReq.rows).getD 0).setWidth 64 }

/-- The primary copy's operation. -/
def State.leadOp (s : State) (o : MatOp) : MatOp := if o.g.shadow then (o.mate.bind s.mtx.op?).getD o else o

/-- A drain stops at an element (R347): nothing of it is kept, the restart state is written in both copies, and the group is to
take DRAIN_FAULT. DEDUCED: log entry 29. -/
def State.stopDrain (s : State) (o0 : MatOp) (slot elem octet : Nat) (f : DrainFlt) : State :=
  let o := s.leadOp o0
  let id := ((o.req? octet).map MatReq.id).getD 0
  let gen := (s.mtx.slot o.cluster slot).gen
  let m := s.mtx
  let s1 := s.setMtx { m with
    run := none
    ops := m.ops.map (fun p => if p.id = o.id || some p.id = o.mate then { p with stopped := true } else p)
    drains := ⟨o.id, octet, elem⟩ :: m.drains.filter (fun d => d.op ≠ o.id) }
  let s2 := (m.withMate o).foldl (fun (s : State) p => s.modGroup p.g (fun g => { g with dr := .stop p id gen slot elem octet f })) (s1.unhold (.op o.id))
  s2.raiseAsync o.g cDRAIN_FAULT (id.setWidth 64) false

/-! ## One micro-instruction -/

/-- How a micro-instruction ends: a register written and flags raised, a store kept for the element's end, a drain fault, or a store
whose device is not reached, which leaves the element in a state where it waits to be begun again (R375). -/
inductive Micro
  | reg (d : BitVec 3) (x : Word64) (fl : BitVec 5)
  | eff (e : DrainEff)
  | none
  | fault (f : DrainFlt)
  | park (s : State)

/-- A d register. -/
def DrainRun.d1 (r : DrainRun) (n : BitVec 3) : Word64 := r.d.getD n.toNat 0

/-- A micro-instruction of the element in progress: its effect, and the next micro-word (R320). -/
def runMicro (f : State → DrainRun → Micro) (s : State) : Result :=
  match s.mtx.run with
  | Option.none => .fault .noElement
  | some r =>
    match f s r with
    | .reg d x fl => .next (s.setMtx { s.mtx with run := some { r with d := r.d.set d.toNat x, fl := r.fl ||| fl, pc := r.pc + 1 } })
    | .eff e => .next (s.setMtx { s.mtx with run := some { r with effs := r.effs ++ [e], pc := r.pc + 1 } })
    | .none => .next (s.setMtx { s.mtx with run := some { r with pc := r.pc + 1 } })
    | .fault x =>
      match s.runOp r with
      | some o => .next (s.stopDrain o r.slot r.elem r.octet x)
      | Option.none => .next (s.setMtx { s.mtx with run := Option.none })
    | .park s1 => .next (s1.setMtx { s1.mtx with run := Option.none })

/-! ## Values (R320, R322) -/

/-- The format of a type. -/
def dFmt (t : DTy) : Fmt := if t = .f64 then fF64 else fF32
/-- A float operand's bits. -/
def dBits (t : DTy) (x : Word64) : Nat := if t = .f64 then x.toNat else x.toNat % 2 ^ 32
/-- An I32 operand. -/
def dInt (x : Word64) : Int := extInt true 32 x
/-- An I32 result, sign-extended. -/
def dOfInt (x : Int) : Word64 := (BitVec.ofInt 32 x).signExtend 64

/-- A typed operation: on integers, or on float bits. -/
def dArith (t : DTy) (d : BitVec 3) (int : Int) (float : Fmt → FRes) : Micro :=
  match t with
  | .i32 => .reg d (dOfInt int) 0
  | _ => let r := float (dFmt t); .reg d (BitVec.ofNat 64 r.1) r.2

/-- A d register as a value of a format. -/
def DrainRun.fv (r : DrainRun) (t : DTy) (n : BitVec 3) : FVal := (dFmt t).unpack (dBits t (r.d1 n))

/-- DMOV. -/
def execDmov (x : DUn) (s : State) : Result := runMicro (fun _ r => .reg x.d (r.d1 x.a) 0) s
/-- DMOV.I. -/
def execDmovI (x : DMovI) (s : State) : Result := runMicro (fun _ _ => .reg x.d (x.imm.signExtend 64) 0) s
/-- DNOP. -/
def execDnop (s : State) : Result := runMicro (fun _ _ => .none) s
/-- DROW. -/
def execDrow (x : DPos) (s : State) : Result :=
  runMicro (fun _ r => .reg x.d (BitVec.ofNat 64 (if x.g then r.thread else r.row)) 0) s
/-- DCOL. -/
def execDcol (x : DPos) (s : State) : Result :=
  runMicro (fun s r => .reg x.d (BitVec.ofNat 64 (if x.g then 16 * s.runLo r + r.col else r.col)) 0) s

/-- DADD. -/
def execDadd (x : DTBin) (s : State) : Result :=
  runMicro (fun _ r => dArith x.ty x.d (dInt (r.d1 x.a) + dInt (r.d1 x.b)) (fun f => f.add .rn (r.fv x.ty x.a) (r.fv x.ty x.b))) s
/-- DMUL. -/
def execDmul (x : DTBin) (s : State) : Result :=
  runMicro (fun _ r => dArith x.ty x.d (dInt (r.d1 x.a) * dInt (r.d1 x.b)) (fun f => f.mul .rn (r.fv x.ty x.a) (r.fv x.ty x.b))) s
/-- DFMA: one rounding. -/
def execDfma (x : DTTern) (s : State) : Result :=
  runMicro (fun _ r => dArith x.ty x.d (dInt (r.d1 x.a) * dInt (r.d1 x.b) + dInt (r.d1 x.x))
    (fun f => f.fma .rn (r.fv x.ty x.a) (r.fv x.ty x.b) (r.fv x.ty x.x))) s
/-- DMIN. -/
def execDmin (x : DTBin) (s : State) : Result :=
  runMicro (fun _ r => dArith x.ty x.d (min (dInt (r.d1 x.a)) (dInt (r.d1 x.b)))
    (fun f => f.minmax true (dBits x.ty (r.d1 x.a)) (dBits x.ty (r.d1 x.b)))) s
/-- DMAX. -/
def execDmax (x : DTBin) (s : State) : Result :=
  runMicro (fun _ r => dArith x.ty x.d (max (dInt (r.d1 x.a)) (dInt (r.d1 x.b)))
    (fun f => f.minmax false (dBits x.ty (r.d1 x.a)) (dBits x.ty (r.d1 x.b)))) s
/-- DCLAMP: min(max(a, b), c). -/
def execDclamp (x : DTTern) (s : State) : Result :=
  runMicro (fun _ r => dArith x.ty x.d (min (max (dInt (r.d1 x.a)) (dInt (r.d1 x.b))) (dInt (r.d1 x.x)))
    (fun f =>
      let m := f.minmax false (dBits x.ty (r.d1 x.a)) (dBits x.ty (r.d1 x.b))
      let q := f.minmax true m.1 (dBits x.ty (r.d1 x.x))
      (q.1, m.2 ||| q.2))) s
/-- DSEL. -/
def execDsel (x : DSelI) (s : State) : Result :=
  runMicro (fun _ r => .reg x.d (if (r.d1 x.x).setWidth 32 ≠ 0#32 then r.d1 x.a else r.d1 x.b) 0) s

/-- A condition code 0 to 5 on floats. -/
def condFloat (c : Sys2Proof.Cond) : FCond :=
  match c with
  | .eq => .eq
  | .ne => .ne
  | .lt => .lt
  | .le => .le
  | .gt => .gt
  | .ge => .ge
/-- DCMP. -/
def execDcmp (x : DCmpI) (s : State) : Result :=
  runMicro (fun _ r =>
    match x.ty with
    | .i32 => .reg x.d (if condInt x.cc (dInt (r.d1 x.a)) (dInt (r.d1 x.b)) then 1 else 0) 0
    | t => let q := fcond (condFloat x.cc) (r.fv t x.a) (r.fv t x.b); .reg x.d (if q.1 then 1 else 0) q.2) s

/-- DEXP2. -/
def execDexp2 (x : DTUn) (s : State) : Result :=
  runMicro (fun _ r => dArith x.ty x.d 0 (fun f => f.exp2 .rn (r.fv x.ty x.a))) s
/-- DRCP. -/
def execDrcp (x : DTUn) (s : State) : Result :=
  runMicro (fun _ r => dArith x.ty x.d 0 (fun f => f.rcp .rn (r.fv x.ty x.a))) s

/-- The CVT type of a DCVT type (R322). -/
def dCvtTy (t : DCvtTy) : CvtTy :=
  match t with
  | .f32 => .f32
  | .f64 => .f64
  | .i32 => .i32
  | .bf16 => .bf16
  | .f16 => .f16
/-- DCVT (R64): a result narrower than its register leaves the bits above it zero, an I32 is sign-extended. -/
def execDcvt (x : DCvtI) (s : State) : Result :=
  runMicro (fun _ r =>
    let q := convert false x.rnd (dCvtTy x.dt) (dCvtTy x.st) (r.d1 x.a)
    .reg x.d (if x.dt = .i32 then (q.1.setWidth 32).signExtend 64 else q.1) q.2) s

/-! ## Side words (R323) -/

/-- The offset of side word k. -/
def State.sideOff (s : State) (r : DrainRun) (col : Bool) (k : BitVec 2) : Nat :=
  match s.runOp r with
  | Option.none => 0
  | some o =>
    if col then fbColv o.fmt0 + ((s.runLo r * 16 + r.col) * 4 + k.toNat) * 4 else fbRowv o.fmt0 + (r.thread * 4 + k.toNat) * 4

/-- Bytes of the copy's scratchpad, with what the element has stored there laid over them. -/
def State.runSpad (s : State) (r : DrainRun) (off n : Nat) : List Byte :=
  match (s.runOp r).bind (fun o => (s.team? o.g.team).map (fun t => t.spadOf o.g.shadow)) with
  | Option.none => []
  | some cells =>
    r.effs.foldl (fun bs e => match e with
      | .spad o data => overlay off bs o data
      | _ => bs) (cellRead cells off n)

/-- Side word k, or the drain fault of a range outside the scratchpad. DEDUCED: log entry 29. -/
def State.side (s : State) (r : DrainRun) (col : Bool) (k : BitVec 2) (f : Nat → Micro) : Micro :=
  let off := s.sideOff r col k
  if s.runSpadIn r (Int.ofNat off) 4 then f (leNat (s.runSpad r off 4)) else .fault ⟨cSPAD_BOUNDS, 0, BitVec.ofNat 64 off⟩

/-- DLDS. -/
def execDlds (x : DLds) (s : State) : Result := runMicro (fun s r => s.side r x.col x.k (fun w => .reg x.d (BitVec.ofNat 64 w) 0)) s
/-- DSCALE: the side word is an F32, widened exactly for .F64. -/
def execDscale (x : DSide) (s : State) : Result :=
  runMicro (fun s r => s.side r x.col x.k (fun w => dArith x.ty x.d 0 (fun f => f.mul .rn (r.fv x.ty x.a) (fF32.unpack w)))) s
/-- DBIAS. -/
def execDbias (x : DSide) (s : State) : Result :=
  runMicro (fun s r => s.side r x.col x.k (fun w => dArith x.ty x.d 0 (fun f => f.add .rn (r.fv x.ty x.a) (fF32.unpack w)))) s

/-! ## Stores (R324) -/

/-- Parts of a global store translated for a member, or the first fault (R181). -/
def State.drainParts (s : State) (core ctx member : Nat) : List (Nat × Nat × Nat) → Except DrainFlt (List (Nat × Nat × Nat × Attr))
  | [] => .ok []
  | (va, n, d) :: rest =>
    match s.translate core ctx va .store member with
    | .error c => .error ⟨c, lateDetail .store, BitVec.ofNat 64 va⟩
    | .ok (pa, at1) =>
      match s.drainParts core ctx member rest with
      | .error e => .error e
      | .ok ps => .ok ((d, n, pa, at1) :: ps)

/-- What a refused store reports (R122). -/
def refusedAt (code : BitVec 8) (pa va : Nat) : DrainFlt :=
  ⟨code, lateDetail .store, BitVec.ofNat 64 (if code = cREMOTE_WINDOW then frameOff pa else if code = cENDPOINT_DOWN then frameDev pa else va)⟩

/-- What the element's first global store meets from outside: an error of its home, or a peer's refusal. -/
def State.metHere (s : State) (r : DrainRun) (va : Nat) (ps : List (Nat × Nat × Nat × Attr)) : Option DrainFlt :=
  let first := !r.effs.any (fun e => match e with
    | .glob _ _ _ => true
    | _ => false)
  let away := ps.find? (fun p => s.elsewhere p.2.2.1)
  match r.met, ps with
  | some c, p :: _ =>
    if !first || r.first.isSome then Option.none
    else
      match away with
      | some q => some (refusedAt c q.2.2.1 (va + q.1))
      | Option.none => if c = cMEM_UNCORRECTABLE then some (refusedAt c p.2.2.1 va) else Option.none
  | _, _ => Option.none

/-- The member whose copy of a per-member page a drain reaches (R186, R324). -/
def Group.drainMember (g : Group) (t : Nat) : Nat := if g.priv && bitAt g.msel 63 then field g.msel 0 15 else (g.threads[t]?.map Thread.memberid).getD 0

/-- DST.G's checks (R76, R181, R189, R190): its places, or the drain fault. -/
def State.drainStore (s : State) (r : DrainRun) (o : MatOp) (off : Int) (n : Nat) : Except DrainFlt (Nat × List (Nat × Nat × Nat × BitVec 10)) :=
  let a := o.image r.octet
  let ea : Int := Int.ofNat a.ptr.toNat + off
  let fail (c : BitVec 8) : Except DrainFlt (Nat × List (Nat × Nat × Nat × BitVec 10)) := .error ⟨c, 0, BitVec.ofInt 64 ea⟩
  let member := ((s.group? o.g).map (fun g => g.drainMember r.thread)).getD 0
  if a.pv then fail cADDR_PERM
  else if !a.holds ea n then fail cADDR_BOUNDS
  else if !a.wr then fail cADDR_PERM
  else
    match s.drainParts o.core o.ctx member (cutAt 8 ea.toNat n) with
    | .error e => .error e
    | .ok ps =>
      if !ps.all (fun p => ps.all (fun q => p.2.2.2 == q.2.2.2)) then .error ⟨cALIGN, lateDetail .store, BitVec.ofInt 64 ea⟩
      else
        match s.metHere r ea.toNat ps with
        | some f => .error f
        | Option.none =>
          match ps.findSome? (fun (p : Nat × Nat × Nat × Attr) =>
              (s.deviceRefused p.2.2.1 p.2.1 p.2.2.2.key).map (fun c => refusedAt c p.2.2.1 (ea.toNat + p.1))) with
          | some f => .error f
          | Option.none => .ok (ea.toNat, ps.map (fun p => (p.1, p.2.1, p.2.2.1, p.2.2.2.key)))

/-- The device that such a store needs and that is not reached. -/
def State.drainFar (s : State) (r : DrainRun) (o : MatOp) (off : Int) (n : Nat) : Option Nat :=
  let member := ((s.group? o.g).map (fun g => g.drainMember r.thread)).getD 0
  match s.drainParts o.core o.ctx member (cutAt 8 (Int.ofNat (o.image r.octet).ptr.toNat + off).toNat n) with
  | .error _ => Option.none
  | .ok ps => s.farOf (ps.map (fun p => p.2.2.1))

/-- DST. -/
def execDst (x : DStI) (s : State) : Result :=
  runMicro (fun s r =>
    let n := 2 ^ x.z.toNat
    let bs := leBytes n (r.d1 x.a).toNat
    let off := (r.d1 x.b).toInt
    if x.glob then
      match s.runOp r with
      | Option.none => .none
      | some o =>
        match s.drainStore r o off n with
        | .error f =>
          (match (if f.code = cENDPOINT_DOWN then s.heldBack (.op (s.leadOp o).id) (s.drainFar r o off n) else Option.none) with
           | some s1 => .park s1
           | Option.none => .fault f)
        | .ok (va, ps) => .eff (.glob va ps bs)
    else if s.runSpadIn r off n then .eff (.spad off.toNat bs)
    else .fault ⟨cSPAD_BOUNDS, 0, r.d1 x.b⟩) s

/-- DSTV. -/
def execDstv (x : DStvI) (s : State) : Result :=
  runMicro (fun s r =>
    match s.runOp r with
    | Option.none => .none
    | some o =>
      if !fbVen o.fmt1 then .none
      else if fbV64 o.fmt1 then .eff (.vreg (fbVout o.fmt1 + 2 * r.col) 2 (r.d1 x.a))
      else .eff (.vreg (fbVout o.fmt1 + r.col) 1 ((r.d1 x.a).setWidth 32 |>.setWidth 64))) s

/-- DLA (R267): a register no launch bound, or .F64 into a narrow image, is a drain fault. -/
def execDla (x : DLaI) (s : State) : Result :=
  runMicro (fun s r =>
    match s.runImage r x.x.toNat with
    | some m => if m.wide || x.ty != .f64 then .eff (.acc x.x.toNat (x.ty == .f64) (r.d1 x.a)) else .fault ⟨cACCUM_UNBOUND, 0, x.x.setWidth 64⟩
    | Option.none => .fault ⟨cACCUM_UNBOUND, 0, x.x.setWidth 64⟩) s

/-! ## The end of an element (R346, R351) -/

/-- A long accumulator of a thread takes an addend; its flags are the matrix work's. -/
def State.drainAdd (s : State) (k : GroupKey) (flag : Option Nat) (t x : Nat) (v : FVal) : State :=
  let fl : BitVec 5 := ((((s.group? k).bind (fun g => g.threads[t]?)).bind (fun th => th.acc[x]?)).map (fun m => (m.take v).2)).getD 0
  (s.modGroup k (fun g => g.writeAcc x (BitVec.twoPow 512 t) (fun _ m => (m.take v).1))).matFlags k flag [(t, fl)]

/-- One store of an element is performed: a global one by the primary alone. -/
def State.keepEff (s : State) (o : MatOp) (t : Nat) (e : DrainEff) : State :=
  match e with
  | .spad off bs => s.modTeam o.g.team (fun tm => tm.setSpad o.g.shadow (cellWrite (tm.spadOf o.g.shadow) off bs))
  | .glob va ps bs =>
    if o.g.shadow then s
    else ps.foldl (fun (s : State) p =>
      (s.engineSeen o.core o.ctx (va + p.1) p.2.2.1 p.2.1 .write).engineWrite o.core o.ctx p.2.2.1 p.2.2.2 ((bs.drop p.1).take p.2.1)) s
  | .vreg name regs v => s.modGroup o.g (fun g => g.writeRegs name regs (BitVec.twoPow 512 t) (fun _ => v.toNat) (fun e => e.pend.isEmpty))
  | .acc x f64 bits => s.drainAdd o.g o.flag t x (if f64 then fF64.unpack bits.toNat else fF32.unpack (bits.toNat % 2 ^ 32))

/-- An element's stores in program order, and its flags. -/
def State.keepEffs (s : State) (o : MatOp) (t : Nat) (l : List DrainEff) (fl : BitVec 5) : State :=
  (l.foldl (fun (s : State) e => s.keepEff o t e) s).matFlags o.g o.flag [(t, fl)]

/-- The first element of a request: its lowest active row. -/
def firstElem (rows : BitVec 8) : Nat := 16 * ((octetRowsOf rows).head?.getD 0)
/-- The element after one, in row-major order over the active rows: none at the end. -/
def nextElem (rows : BitVec 8) (e : Nat) : Option Nat :=
  if e % 16 < 15 then some (e + 1) else ((octetRowsOf rows).find? (fun r => decide (e / 16 < r))).map (fun r => 16 * r)

/-- VALID and ABORT clear once the stopped request has been performed (R348). -/
def Group.drainOver (g : Group) (id : BitVec 16) : Group :=
  if bitAt g.dr.pos 63 && g.dr.req == id.setWidth 64 then { g with dr := { g.dr with pos := g.dr.pos &&& ~~~((1#64 <<< 63) ||| (1#64 <<< 61)) } } else g

/-- The ready bits of an octet's VOUT range are set (R324). -/
def Group.voutReady (g : Group) (op octet : Nat) : Group :=
  { g with v := g.v.map (fun e => if e.busy = some op && e.octet = octet then { e with busy := none } else e) }

/-- A request's drain is over: with .Z the rows it drained become zero, the ready bits are set, and the operation has been
performed when it was the last (R314, R324, R341, R348). `left` is the element an abandoned drain stopped at. -/
def State.endRequest (s : State) (o : MatOp) (octet : Nat) (left : Option Nat) : State :=
  let rows := ((o.req? octet).map MatReq.rows).getD 0
  let done : BitVec 8 := match left with
    | Option.none => rows
    | some e => rows &&& BitVec.ofNat 8 (2 ^ (e / 16) - 1)
  let z := match o.kind with
    | .mmad b => b
    | .mdrain b => b
    | _ => false
  let id := ((o.req? octet).map MatReq.id).getD 0
  let one (s : State) (p : MatOp) : State :=
    let s1 := if z && done != 0#8 then s.zeroRequest p (fbAcc p.fmt0) octet done else s
    s1.modGroup p.g (fun g => (g.voutReady p.id octet).drainOver id)
  let s2 := (s.mtx.withMate o).foldl one s
  let mark (p : MatOp) : MatOp :=
    if p.id = o.id || some p.id = o.mate then { p with cut := false, reqs := p.reqs.map (fun r => if r.octet = octet then { r with drained := true } else r) } else p
  let s3 := s2.setMtx { s2.mtx with ops := s2.mtx.ops.map mark, drains := s2.mtx.drains.filter (fun d => d.op ≠ o.id) }
  if (mark o).reqs.all MatReq.drained then s3.finishMat o else s3.releaseExited

/-- An element has been drained, in both copies: the drain goes on after it. -/
def State.elemDone (s0 : State) (o : MatOp) (octet elem : Nat) : State :=
  let s := s0.unhold (.op o.id)
  match nextElem (((o.req? octet).map MatReq.rows).getD 0) elem with
  | some e => s.setMtx { s.mtx with drains := ⟨o.id, octet, e⟩ :: s.mtx.drains.filter (fun d => d.op ≠ o.id) }
  | Option.none => s.endRequest o octet Option.none

/-- What R108 compares of an element's stores: targets, addresses and data. -/
def effItem (e : DrainEff) : DrainEff :=
  match e with
  | .glob va _ bs => .glob va [] bs
  | x => x

/-- The element's value in the instruction's view, as d0 (R320). -/
def MatOp.d0 (o : MatOp) (ws : List Word32) (elem : Nat) : Word64 :=
  match fbAcc o.fmt0 with
  | .i32 => dOfInt (extInt true 32 (BitVec.ofNat 64 (tileGet .i32 ws elem)))
  | v => BitVec.ofNat 64 (tileGet v ws elem)

/-- The program starts on an element. -/
def State.beginElem (s : State) (o : MatOp) (octet elem : Nat) (met : Option (BitVec 8)) (first : Option (List DrainEff × BitVec 5)) : State :=
  let d0 := o.d0 (s.mtx.tileWords o.g octet o.tile) elem
  let r : DrainRun :=
    { cluster := o.cluster, op := o.id, octet := octet, elem := elem, slot := fbSlot o.fmt0, d := d0 :: List.replicate 7 0, pc := 0, effs := []
      fl := 0, met := met, first := first }
  s.setMtx { s.mtx with run := some r }

/-- DEND: the element's effects are kept. In a check pair the shadow's element runs next, the two are compared, and both are
kept or the drain stops. DEDUCED: log entry 29. -/
def execDend (s : State) : Result :=
  match s.mtx.run with
  | Option.none => .fault .noElement
  | some r =>
    let s0 := s.setMtx { s.mtx with run := Option.none }
    match s.runOp r with
    | Option.none => .next s0
    | some o =>
      match r.first with
      | Option.none =>
        (match o.mate.bind s.mtx.op? with
         | some q => .next (s0.beginElem q r.octet r.elem Option.none (some (r.effs, r.fl)))
         | Option.none => .next ((s0.keepEffs o r.thread r.effs r.fl).elemDone o r.octet r.elem))
      | some (effs, fl) =>
        let lead := s.leadOp o
        if effs.map effItem = r.effs.map effItem then
          .next (((s0.keepEffs lead r.thread effs fl).keepEffs o r.thread r.effs r.fl).elemDone lead r.octet r.elem)
        else .next (s0.stopDrain lead r.slot r.elem r.octet ⟨cPAIR_MISMATCH, 0, 0⟩)

/-! ## DRAIN_ELEMENT (R345, R346) -/

/-- The operation drains. -/
def MatOp.drains (o : MatOp) : Bool :=
  match o.kind with
  | .mmad _ => o.granted
  | .mdrain _ => true
  | _ => false

/-- The octet and element a drain has come to. -/
def Matrix.drainPos (m : Matrix) (o : MatOp) : Option (Nat × Nat) :=
  match m.drains.find? (fun d => d.op = o.id) with
  | some d => some (d.octet, d.elem)
  | Option.none => (o.reqs.find? (fun r => !r.drained)).map (fun r => (r.octet, firstElem r.rows))

/-- A store of the element waits for a device that is not reached (R375). -/
def State.heldDrain (s : State) (o : MatOp) : Bool :=
  s.isl.holds.any (fun h => h.key = .op o.id && !s.reachable h.dev && !s.retryOver (some h.since))

/-- DRAIN_ELEMENT: the operation at the head of a cluster's queue drains its next element; an abandoned request ends. -/
def execDrainElement (x : EvDrain) (s : State) : Result :=
  match s.mtx.run, s.mtx.head? x.cluster with
  | Option.none, some o =>
    match s.mtx.drainPos o with
    | Option.none => notDue "DRAIN_ELEMENT"
    | some (octet, elem) =>
      let slot := s.mtx.slot o.cluster (fbSlot o.fmt0)
      let first := elem = firstElem (((o.req? octet).map MatReq.rows).getD 0)
      if !o.drains || o.stopped then notDue "DRAIN_ELEMENT"
      else if o.cut then dueIf "DRAIN_ELEMENT" x.met.isNone (s.endRequest o octet (some elem))
      else if !s.matReady o || s.heldDrain o then notDue "DRAIN_ELEMENT"
      else if first && (!slot.valid || slot.ctx != some o.ctx) then
        dueIf "DRAIN_ELEMENT" x.met.isNone (s.stopDrain o slot.n elem octet ⟨cDRAIN_INVALID, 0, BitVec.ofNat 64 slot.n⟩)
      else
        match (s.mtx.withMate o).foldlM (fun (s : State) p => s.reloadTile p octet) s with
        | Option.none => notDue "DRAIN_ELEMENT"
        | some s1 =>
          dueIf "DRAIN_ELEMENT" (x.met.all (fun c => c == cMEM_UNCORRECTABLE || c == cREMOTE_WINDOW || c == cENDPOINT_DOWN))
            (s1.beginElem o octet elem x.met Option.none)
  | _, _ => notDue "DRAIN_ELEMENT"

end Sys2Proof.Machine
end

