-- ==== Sys2Proof/Machine/Agenda.lean ====
section
/-! DEFINITION. The machine's own moments (log entry 2): which events may come next by themselves. Other devices' answers,
the host, firmware, boots, errors and heat are none of them: they stand in the schedule. -/

namespace Sys2Proof

/-- The cause a decoding fault takes, and its TADDR (R33, R122). -/
def DecodeFault.cause : DecodeFault → BitVec 8
  | .illegalInstruction => 0x02
  | .illegalOperand _ => 0x03
def DecodeFault.taddr : DecodeFault → BitVec 64
  | .illegalInstruction => 0
  | .illegalOperand a => a

/-- An event row: neither a core instruction nor a micro-instruction. -/
def Instr.isEvent (i : Instr) : Bool := i.view.isNone && i.mfields.isNone

end Sys2Proof

namespace Sys2Proof.Machine

/-- A peer's answer with nothing in it. DEDUCED: log entry 39. -/
def noReply : PeerReply := .data []

/-! ## Moments the cycle count brings -/

/-- Cycles of the boot window: 2 s at the core clock (R6, R380). DEDUCED: log entry 33. -/
def bootWindow : Nat := 4500000000

/-- The budget that firmware sets as it throttles, none above the present one (R399). DESIGN CHOICE: log entry 33. -/
def State.throttled (s : State) : BitVec 11 :=
  BitVec.ofNat 11 (Config.choice s.sched.free (s.pkg.curbBudget.toNat + 1) % (s.pkg.curbBudget.toNat + 1))

/-- What falls due by the count of cycles: the end of the boot window (R380), Curb windows (R352), the ends of pauses and
watchdogs (R68, R213), promotions in the matrix queues (R336), the ports' periods and limits (R365, R377, R379), the thermal levels (R399), resent and
expired requests (R234, R375), the monitor requests a slice holds (R231), and the time limits of collectives (R371). DESIGN CHOICE: log entries 2, 6. -/
def State.timed (s : State) : List Instr :=
  List.flatten
    [if bootWindow ≤ s.cycle then [.bootWindowExpiry] else [],
     [.thermalThrottle ⟨s.pkg.tmax, s.throttled⟩, .thermalShutdown ⟨s.pkg.tmax, 0⟩, .thermalReturn ⟨s.pkg.tmax, 0⟩].drop (if s.pkg.level = 0#2 then 0 else 1),
     [.curbWindowStart],
     s.groups.flatMap (fun g => [.pauseExpiry ⟨g.key⟩, .watchdogExpiry ⟨g.key⟩]),
     s.mtx.ops.map (fun o => .matrixPromotion ⟨o.cluster, o.id⟩),
     s.isl.ports.flatMap (fun p => [.rekeyThreshold ⟨p.port⟩, .rekeyStallTimeout ⟨p.port⟩, .lendingPeriod ⟨p.port⟩]),
     (s.ops.mem.map MemOp.id ++ s.ops.remote.map RemoteOp.id ++ s.isl.hostHeld.map HostHeld.id ++ s.ops.copies.map CopyOp.id ++ s.isl.holds.map HeldReq.id).flatMap (fun n => [.remoteRetryResend ⟨n⟩, .retryPeriodExpiry ⟨n⟩]),
     s.mem.monitors.map (fun m => .monitorRecheck ⟨m.op, noReply⟩), s.isl.insts.map (fun i => .collInstanceTimeout ⟨i.key⟩)]

/-! ## Moments of no fixed time -/

/-- A place is answered without another device's word: it is this device's own, or its device is not reached. -/
def State.answersItself (s : State) (pa : Nat) : Bool := !s.elsewhere pa || !s.reachable (frameDev pa)

/-- What groups may do next: start a clause, go on after a wait, take a class A trap, end, be saved (R17, R97, R130, R70,
R210, R397). -/
def State.groupMoments (s : State) : List Instr :=
  List.append
    ((s.groups.filter (fun g => !g.key.shadow)).flatMap (fun g =>
      .takeClassATrap ⟨g.key⟩ :: .groupEnd ⟨g.key⟩ :: .groupEviction ⟨g.key⟩ :: .debugHalt ⟨g.key⟩
        :: g.splits.flatMap (fun p => [.clauseStart ⟨g.key, p.sid⟩, .waitSatisfied ⟨g.key, p.sid⟩])))
    ((s.saved.filter (fun y => !y.g.key.shadow)).flatMap (fun y =>
      .groupEnd ⟨y.g.key⟩ :: .debugHalt ⟨y.g.key⟩ :: (List.range 384).map (fun c => .groupResume ⟨y.g.key, c⟩)))

/-- What teams and launches may do next (R116, R158, R161, R197 to R205, R394). -/
def State.launchMoments (s : State) : List Instr :=
  List.flatten
    [s.teams.flatMap (fun t => .corralSort ⟨t.key⟩ :: .teamBitmapSet ⟨t.key⟩ :: t.defers.map (fun d => .deferredArrivalPerform ⟨t.key, d.id⟩)),
     s.launches.flatMap (fun l =>
      .launchComplete ⟨l.handle⟩ :: (match s.firstGoing l with
        | none => []
        | some (c, _) => (List.range 384).map (fun core => .teamDispatch ⟨l.handle, c, core⟩))),
     s.ctxs.flatMap (fun c => .completionRingPost ⟨c.id⟩ :: (List.range 64).map (fun q => .distributorTakeLaunch ⟨c.id, q⟩))]

/-- Pre-emption: by context and core (R209), and by a core's register pool (R60). -/
def State.coreMoments (s : State) : List Instr :=
  let cores := (s.groups.map Group.core).foldl addOnce []
  let pairs := (s.groups.map (fun g => (g.ctx, g.core))).foldl addOnce []
  cores.map (fun c => .regpoolEviction ⟨c⟩)
    ++ pairs.flatMap (fun p => [.timeSliceExpiry ⟨p.1, p.2⟩, .priorityPreemption ⟨p.1, p.2⟩])

/-- What a memory operation may do next without another device's answer (R218, R223, R229, R231, R246, R192). -/
def State.memMoments (s : State) (o : MemOp) : List Instr :=
  let near (p : Piece) : Bool := s.answersItself p.pa
  List.flatten
    [if o.pieces.all (fun p => !p.open' || near p) then [.atomicUnitOperation ⟨o.id, noReply, false, false⟩] else [],
     if o.pieces.all near then [.monitorRegister ⟨o.id, noReply⟩, .monitorRecheck ⟨o.id, noReply⟩] else [],
     (o.pieces.zipIdx.filter (fun p => p.1.open' && near p.1)).map (fun p => .homeAccess ⟨o.id, p.2, noReply, false, none, false⟩),
     [.storeAcknowledgement ⟨o.id⟩, .ldraFlush ⟨o.id⟩, .packetResend ⟨o.id⟩],
     o.octetsLeft.map (fun n => .variableLatencyResultArrival ⟨o.id, n⟩)]

/-- What a copy's channel may do next: its next unit, or its end (R149, R256). -/
def State.copyMoments (s : State) (o : CopyOp) : List Instr :=
  match o.units[o.done]? with
  | none => [.copyChannelOperation ⟨o.id, 0, none, noReply⟩]
  | some u =>
    if u.pas.any (fun p => s.elsewhere p.2.2.1) then [.copyChannelOperation ⟨o.id, 0, none, noReply⟩]
    else [.copyChannelOperation ⟨o.id, 1, none, noReply⟩]

/-- What the remote queues may do next (R233, R234). -/
def State.remoteMoments (s : State) : List Instr :=
  ((s.ops.remote.filter (fun o => o.peer == s.pkg.device.toNat || !s.reachable o.peer)).map RemoteOp.core |>.foldl addOnce []).map
    (fun c => .remoteOperationPerform ⟨c, noReply, []⟩)

/-- What the collective engine may do next (R369, R371). -/
def State.collMoments (s : State) : List Instr :=
  s.ops.colls.map (fun o => .collContribution ⟨o.id, none⟩) ++ s.isl.insts.map (fun i => .collResultDelivery ⟨i.key, none⟩)

/-- What a cluster's matrix queue may do next (R336, R344, R346). -/
def State.matrixMoments (s : State) : List Instr :=
  let clusters := (s.mtx.ops.map MatOp.cluster).foldl addOnce []
  clusters.flatMap (fun c =>
    let away := ((s.mtx.head? c).map (fun o => o.reqs.any (fun r => r.pas.any (fun p => !s.answersItself p.2.2.1)))).getD false
    List.flatten
      [((s.matChoice c).map (fun o => Instr.matrixGrant ⟨c, o.id⟩)).toList,
       if away then [] else [.matrixQueueOperationPerform ⟨c, noReply, false⟩],
       [.dpldInstall ⟨c⟩, .dpinvPerform ⟨c⟩, .drainElement ⟨c, none⟩]])

/-- The command under way in the package block (R394, R395). -/
def State.commandMoments (s : State) : List Instr :=
  if s.pkg.busy then
    [.ctxStart, .ctxEnd, .resUpdate, .tlbInv, .keyLoad, .keyClear, .attest, .dbgAttach, .dbgDetach, .dbgHalt, .dbgResume, .dbgLocate, .badCommand]
  else []

/-- What the island may do next: the compute join (R373), the flushes that peers' LDRAs await (R229), and flits, a waiting packet
first (R360, R363). -/
def State.islandMoments (s : State) : List Instr :=
  .computeJoin :: s.isl.ldras.map (fun e => .ldraFlush ⟨e.id⟩) ++ (s.isl.ports.filter Port.up).flatMap (fun p =>
    .flitTransmission ⟨p.port, 0#3, none⟩
      :: ((p.part.map Prod.fst).toList ++ s.isl.outbox).map (fun k => .flitTransmission ⟨p.port, k.ch, some k⟩))

/-- Every moment that may come next by itself; a cycle may always pass. DESIGN CHOICE: log entry 2. -/
def State.candidates (s : State) : List Instr :=
  .issueSlotSelection ::
    (s.groupMoments ++ s.launchMoments ++ s.coreMoments ++ s.ops.mem.flatMap s.memMoments ++ s.ops.copies.flatMap s.copyMoments
      ++ s.remoteMoments ++ s.collMoments ++ s.matrixMoments ++ s.commandMoments ++ s.islandMoments)

/-- One of the moments that may come next (R13): the only one, or the free choice among them. DESIGN CHOICE: log entry 2. -/
def State.pick (s : State) (l : List Instr) : Instr :=
  match l with
  | [] => .issueSlotSelection
  | [i] => i
  | i :: _ => l.getD (Config.choice s.sched.free l.length % l.length) i

/-- The counter of free values advances with a choice. -/
def State.afterPick (s : State) : State := s.freshFree.2

end Sys2Proof.Machine
end

