-- ==== Sys2Proof/Machine/Command.lean ====
section
/-! DEFINITION. Contexts and the commands of system software (spec/21_package_and_system.md R393 to R398;
spec/08_memory_hierarchy.md R187, R193). -/

namespace Sys2Proof.Machine

/-- A command event is due while its OP runs. -/
def State.running (s : State) (op : Nat) : Bool := s.pkg.busy && s.pkg.cmdOp.toNat == op && s.isl.st != .off

/-- A command completes. -/
def State.finishCmd (s : State) (code : Nat) : State := s.setPkg { s.pkg with busy := false, cmdCode := BitVec.ofNat 8 code }

/-- The outcome of a command that runs, or that is not the one running. -/
def State.command (s : State) (op : Nat) (event : String) (r : Result) : Result := if s.running op then r else notDue event

def State.cmdCtx? (s : State) : Option Context := s.ctx? s.pkg.cmdCtx.toNat

/-- Bytes the device itself reads at a physical address; none where they meet an uncorrectable error or lie nowhere. -/
def State.physRead (s : State) (pa n : Nat) : Option (List Byte) :=
  let here (a : Nat) : Bool := isHbm a || isHostMem a
  if !here pa || !here (pa + n - 1) || s.mem.poisoned pa n || (List.range (n / 4096 + 2)).any (fun i => isHbm pa && s.dieLost (homeDie (min (pa + n - 1) (pa + 4096 * i)))) then none
  else some (cellRead s.mem.cells pa n)

/-- Bytes the device itself writes at a physical address, under no key. -/
def State.physWrite (s : State) (pa : Nat) (bs : List Byte) : State :=
  (s.setMem ((s.mem.writeUnder none pa bs).unpoison pa bs.length)).checkMonitors pa bs.length

/-! ## Descriptors (R187, R393) -/

/-- A residency entry from its 32 bytes; one that is to be ignored is not enabled. -/
def resEnt (bs : List Byte) : ResEnt :=
  let w (k : Nat) : Word64 := nat64 (bytesAt bs (8 * k) 8)
  let base := field (w 0) 12 45 * 4096
  let limit := field (w 1) 12 45 * 4096
  let ways : BitVec 8 := BitVec.ofNat 8 (field (w 2) 8 8)
  let sound := field (w 0) 57 7 == 0 && field (w 0) 1 11 == 0 && field (w 1) 57 7 == 0 && field (w 1) 0 12 == 0 && field (w 2) 16 48 == 0 && w 3 == 0
  { en := bitAt (w 0) 0 && sound && decide (base < limit) && ways != 0, base := base, limit := limit, ratio := field (w 2) 0 8, ways := ways }

/-- A descriptor's fields over what a context holds besides; ROOT is taken only at the start. -/
def Context.load (c : Context) (d : List Byte) (keys res : List Byte) (root : Nat) : Context :=
  { c with
    gen := bytesAt d 0 4 / 2 % 4, tslice := bytesAt d 4 4, root := root, saveBase := bytesAt d 16 8, saveSize := bytesAt d 24 8
    resAddr := bytesAt d 32 8, res := (List.range 16).map (fun i => resEnt ((res.drop (32 * i)).take 32)), keys := BitVec.ofNat 1024 (leNat keys)
    qbase := nat64 (bytesAt d 48 8), qdepth := bytesAt d 56 4, crdepth := bytesAt d 60 4, crbase := nat64 (bytesAt d 64 8), wdlimit := bytesAt d 72 8 }

/-- The fields of a descriptor are in range, and its generation is active (R388). A residency update does not read ROOT (R393). -/
def State.descOk (s : State) (d : List Byte) (start : Bool) : Bool :=
  let f (o n : Nat) : Nat := bytesAt d o n
  let gen := f 0 4 / 2 % 4
  f 0 4 % 2 == 1 && f 0 4 < 8 && (gen == 1 || gen == 2) && bitAt s.pkg.featAct0 (gen + 1)
    && decide (100 ≤ f 4 4) && decide (f 4 4 ≤ 1000000) && (!start || f 8 8 % 8192 == 0) && f 16 8 % 4096 == 0 && f 32 8 % 512 == 0
    && decide (1 ≤ f 56 4) && decide (f 56 4 ≤ 4096) && decide (1 ≤ f 60 4) && decide (f 60 4 ≤ 65536) && f 64 8 % 64 == 0
    && decide (2 ^ 16 ≤ f 72 8) && decide (f 72 8 ≤ 2 ^ 48) && (d.drop 80).all (fun b => b == 0#8)

/-- What a descriptor gives: the context, or the code of the command. DEDUCED: log entry 33. -/
def State.readDesc (s : State) (c : Context) (start : Bool) : Except Nat Context :=
  match s.physRead (s.pkg.ctxbase + 256 * c.id) 256 with
  | none => .error 3
  | some d =>
    if !s.descOk d start then .error 2
    else
      match s.physRead (bytesAt d 40 8) 128, s.physRead (bytesAt d 32 8) 512 with
      | some keys, some res => .ok (c.load d keys res (if start then bytesAt d 8 8 else c.root))
      | _, _ => .error 3

/-- CTX_START. -/
def execCtxStart (s : State) : Result :=
  let id := s.pkg.cmdCtx.toNat
  s.command 1 "CTX_START"
    (match s.cmdCtx? with
     | some _ => .next (s.finishCmd 2)
     | none =>
       match s.readDesc (Context.fresh id) true with
       | .error c => .next (s.finishCmd c)
       | .ok c => .next ((({ s with
           ctxs := s.ctxs ++ [{ c with touched := BitVec.twoPow 19 18 }]
           past := s.past.filter (fun x => x.id ≠ id) }).touchPa id c.resAddr).finishCmd 0))

/-- RES_UPDATE: the retained lines of an entry that is no longer enabled become normal. -/
def execResUpdate (s : State) : Result :=
  s.command 3 "RES_UPDATE"
    (match s.cmdCtx? with
     | none => .next (s.finishCmd 2)
     | some c =>
       match s.readDesc c false with
       | .error e => .next (s.finishCmd e)
       | .ok d =>
         let off (h : HomeLine) : Bool := h.ctx = c.id && (match c.res.findIdx? (fun e => e.en && decide (e.base ≤ h.va) && decide (h.va < e.limit) && e.ways != 0#8) with
           | some n => !((d.res[n]?).map ResEnt.en).getD false
           | none => true)
         .next ((((s.putCtx d).touchPa c.id d.resAddr).setMem (s.mem.unretain off)).finishCmd 0))

/-! ## CTX_END (R395) -/

/-- A launch that waits in a queue completes ABORTED: it is consumed and takes a handle, as a taken one does. One whose DONE word lies
at a device that is not reached completes with LAUNCH_COMPLETE (R375). -/
def State.abortEntry (s : State) (ctx q : Nat) : State :=
  match s.ctx? ctx with
  | none => s
  | some c =>
    let n := countOf c.qhead q
    let pre := c.pre.find? (fun p => p.q = q && p.n = n)
    let handle := (pre.map Queued.handle).getD (c.nextHandle q)
    let order := (pre.map Queued.order).getD s.sched.nextOrder
    let s1 := s.modCtx c.id (fun c => { c with
      qhead := insertKey c.qhead q (n + 1), pre := c.pre.filter (fun p => !(p.q = q && p.n = n)), seq := if pre.isSome then c.seq else c.seq + 1 })
    let s2 := s1.setSched { s1.sched with nextOrder := if pre.isSome then s1.sched.nextOrder else s1.sched.nextOrder + 1 }
    let entry : LRec × Bool := match s.entryBytes c q with
      | none => (.zero, false)
      | some raw =>
        let r := parseRec raw
        (r.1, pre.isSome || (s.recordOk c.id r.1 r.2.1 r.2.2 && (s.readResv c.id r.1).isSome))
    let l := { Launch.fresh handle c.id q order entry.1 with aborted := true, invalid := !entry.2 }
    let s3 := { s2 with launches := s2.launches ++ [l] }
    if (s3.doneFar l).isSome then s3 else s3.completeLaunch l

/-- Every entry of a queue is aborted. -/
def State.abortQueue (s : State) (ctx q : Nat) : Nat → State
  | 0 => s
  | n + 1 => (s.abortEntry ctx q).abortQueue ctx q n

/-- One group's threads exit with no fault reported; nothing of it waits any more. -/
def State.endQuiet (s : State) (k : GroupKey) : State :=
  match s.group? k with
  | none => s
  | some _ =>
    let s1 := s.exitThreads k (~~~0#512)
    let s2 := (s1.modGroup k (fun g => { g with splits := [], asyncs := [], handler := none, haltReq := false, evictReq := false })).dropMonitor k (fun _ => true)
    s2.setMtx (s2.mtx.abandon k)

/-- Every group of a context ends as by step 4 of R128, with no fault reported; saved ones and their teams with them. -/
def State.endGroups (s : State) (ctx : Nat) : State :=
  let s1 := (s.groups.filter (fun g => g.ctx = ctx)).foldl (fun (s : State) g => s.endQuiet g.key) s
  let out (g : Group) : Group := { g.mapThreads (fun _ th => { th with exited := true, pend := 0 }) with splits := [], asyncs := [], handler := none }
  { s1 with
    saved := s1.saved.map (fun y => if y.g.ctx = ctx then { y with g := out y.g } else y)
    teams := s1.teams ++ (s1.savedTeams.filter (fun v => v.t.ctx = ctx)).map SavedTeam.t
    savedTeams := s1.savedTeams.filter (fun v => v.t.ctx ≠ ctx) }

/-- What CTX_END still has to stop: groups that run, launches not aborted, entries that wait. -/
def State.toStop (s : State) (c : Context) : Bool :=
  s.groups.any (fun g => g.ctx = c.id && !g.threads.all Thread.exited) || s.saved.any (fun y => y.g.ctx = c.id && !y.g.threads.all Thread.exited)
    || s.launches.any (fun l => l.ctx = c.id && !l.complete && !l.aborted) || (List.range 64).any (fun q => c.waiting q != 0)

/-- The groups end, every launch is aborted, every waiting entry with them. -/
def State.stopCtx (s : State) (c : Context) : State :=
  let s1 := s.endGroups c.id
  let s2 := { s1 with launches := s1.launches.map (fun l => if l.ctx = c.id && !l.complete then { l with aborted := true } else l) }
  (List.range 64).foldl (fun (s : State) q => s.abortQueue c.id q (c.waiting q)) s2

/-- Nothing of the context is left but its registers. -/
def State.ctxIdle (s : State) (c : Context) : Bool :=
  !s.groups.any (fun g => g.ctx = c.id) && !s.saved.any (fun y => y.g.ctx = c.id) && s.launches.all (fun l => l.ctx ≠ c.id || l.complete)
    && c.posts.isEmpty && s.mtx.ops.all (fun o => o.ctx ≠ c.id) && s.ops.mem.all (fun o => o.ctx ≠ c.id)
    && s.ops.copies.all (fun o => o.ctx ≠ c.id) && s.ops.remote.all (fun o => o.ctx ≠ c.id) && s.ops.colls.all (fun o => o.ctx ≠ c.id)

/-- The context's slots are released. -/
def Matrix.release (m : Matrix) (ctx : Nat) : Matrix :=
  { m with
    slots := m.slots.map (fun d => if d.ctx = some ctx then { d with valid := false, gen := d.gen + 1, ctx := none } else d)
    tiles := m.tiles.filter (fun t => t.g.team.launch / 2 ^ 54 ≠ ctx) }

/-- The context is no more: its launches, lines and translations go with it. DEDUCED: log entry 37. -/
def State.dropCtx (s : State) (c : Context) : State :=
  let m := s.mem.unretain (fun h => h.ctx = c.id)
  { s with
    ctxs := s.ctxs.filter (fun x => x.id ≠ c.id)
    past := s.past ++ [c]
    launches := s.launches.filter (fun l => l.ctx ≠ c.id)
    teams := s.teams.filter (fun t => t.ctx ≠ c.id)
    mem := { m with l1 := m.l1.filter (fun l => l.ctx ≠ c.id), rdc := m.rdc.filter (fun l => l.ctx ≠ c.id), tlb := m.tlb.filter (fun e => e.ctx ≠ c.id)
                    walks := m.walks.filter (fun e => e.ctx ≠ c.id) }
    mtx := s.mtx.release c.id }

/-- CTX_END: it stops what runs, and completes once all of it has ended and been posted. -/
def execCtxEnd (s : State) : Result :=
  s.command 2 "CTX_END"
    (match s.cmdCtx? with
     | none => .next (s.finishCmd 2)
     | some c =>
       if s.toStop c then .next (s.stopCtx c)
       else dueIf "CTX_END" (s.ctxIdle c) ((s.dropCtx c).finishCmd 0))

/-! ## TLB_INV, KEY_LOAD, KEY_CLEAR, ATTEST -/

/-- An access of a context on an address of a range is still to be performed. -/
def State.openIn (s : State) (ctx : Nat) (inside : Nat → Nat → Bool) : Bool :=
  s.ops.mem.any (fun o => o.ctx = ctx && o.pieces.any (fun p => p.open' && inside p.va p.size))
    || s.ops.copies.any (fun o => o.ctx = ctx) || s.ops.colls.any (fun o => o.ctx = ctx)
    || s.mtx.ops.any (fun o => o.ctx = ctx && o.reqs.any (fun r => !r.pas.isEmpty))

/-- TLB_INV (R193): accesses that used an old entry come first. -/
def execTlbInv (s : State) : Result :=
  let a := s.pkg.cmdA.toNat
  let b := s.pkg.cmdB.toNat
  let inside (va n : Nat) : Bool := b = 0 || meetsRange va n a b
  s.command 4 "TLB_INV"
    (match s.cmdCtx? with
     | none => .next (s.finishCmd 0)
     | some c =>
       dueIf "TLB_INV" (!s.openIn c.id inside)
         ((s.setMem { s.mem with
          tlb := s.mem.tlb.filter (fun e => !(e.ctx = c.id && inside e.page e.size))
          walks := s.mem.walks.filter (fun e => !(e.ctx = c.id && inside (e.page * 2 ^ (12 + 9 * e.lvl)) (2 ^ (12 + 9 * e.lvl)))) }).finishCmd 0))

/-- KEY_LOAD. -/
def execKeyLoad (s : State) : Result :=
  let slot := s.pkg.cmdSlot.toNat
  s.command 5 "KEY_LOAD"
    (if s.ctxs.any (fun c => c.keys.getLsbD slot) then .next (s.finishCmd 2)
     else
       match s.physRead s.pkg.cmdA.toNat 64 with
       | none => .next (s.finishCmd 3)
       | some bs => .next ((s.setPkg { s.pkg with keys := insertKey s.pkg.keys slot (BitVec.ofNat 512 (leNat bs)) }).finishCmd 0))

/-- An access under a key slot is still to be performed. -/
def State.openUnder (s : State) (slot : Nat) : Bool :=
  s.ops.mem.any (fun o => o.pieces.any (fun p => p.open' && isHbm p.pa && p.attr.key.toNat = slot))
    || s.ops.copies.any (fun o => o.units.any (fun u => u.pas.any (fun q => q.2.2.2.toNat = slot)))
    || s.ops.colls.any (fun o => o.pages.any (fun p => p.2.2.toNat = slot)) || s.mtx.ops.any (fun o => o.reqs.any (fun r => r.pas.any (fun p => p.2.2.2.toNat = slot)))

/-- KEY_CLEAR: what was stored under the slot goes to its home first. -/
def execKeyClear (s : State) : Result :=
  let slot := s.pkg.cmdSlot.toNat
  let mine (l : L1Line) : Bool := l.key.toNat = slot
  let s1 := (s.mem.l1.filter mine).foldl (fun (s : State) l => s.writeBack l) s
  let s2 := s1.setMem { s1.mem with l1 := s1.mem.l1.filter (fun l => !mine l) }
  s.command 6 "KEY_CLEAR"
    (dueIf "KEY_CLEAR" (!s.openUnder slot) ((s2.setPkg { s2.pkg with keys := s2.pkg.keys.filter (fun e => e.1 ≠ slot) }).finishCmd 0))

/-- The signed bytes of an attestation report (R398): the digest of a die whose own check held, lost or not. DEDUCED: log entry 4. -/
def State.report (s : State) (nonce : List Byte) : List Byte :=
  let p := s.pkg
  leBytes 8 (1 + p.device.toNat * 2 ^ 16) ++ leBytes 8 p.healthy.toNat ++ leBytes 8 p.featAct0.toNat ++ leBytes 8 p.featAct1.toNat ++ nonce
    ++ (List.range 64).map Config.identityDigest
    ++ (List.range 19).flatMap (fun d =>
        leBytes 64 (((p.dies.find? (fun x => x.id = d && x.ready)).map (fun x => x.digest.toNat)).getD 0))

/-- ATTEST (R388, R398). DEDUCED: log entry 33. -/
def execAttest (s : State) : Result :=
  let b := s.pkg.cmdB.toNat
  s.command 7 "ATTEST"
    (if !bitAt s.pkg.featAct0 7 then .next (s.finishCmd 1)
     else if b % 64 ≠ 0 then .next (s.finishCmd 2)
     else
       match s.physRead s.pkg.cmdA.toNat 32, s.physRead b 4672 with
       | some nonce, some _ =>
         let body := s.report nonce
         .next ((s.physWrite b (body ++ (List.range 3309).map (Config.signature body))).finishCmd 0)
       | _, _ => .next (s.finishCmd 3))

/-! ## The debugger's commands (R397) -/

/-- The groups a command's operands name, primary copies. -/
def State.named (s : State) (k : GroupKey) : Bool :=
  let p := s.pkg
  !k.shadow && k.team.launch = p.cmdA.toNat && (bitAt p.cmdB 63 || (k.team.team = field p.cmdB 0 32 && k.group = field p.cmdB 32 8))

/-- DBG_ATTACH. -/
def execDbgAttach (s : State) : Result :=
  s.command 8 "DBG_ATTACH"
    (match s.cmdCtx? with
     | none => .next (s.finishCmd 2)
     | some c => .next ((s.putCtx { c with dbg := true }).finishCmd 0))

/-- Halted groups of a context go on once a core takes them back; those that were to halt do not. -/
def State.unhalt (s : State) (ctx : Nat) (which : GroupKey → Bool) : State :=
  let mine (g : Group) : Bool := g.ctx = ctx && which { g.key with shadow := false }
  let atBkpt (g : Group) : Bool := g.splits.any (fun p => match p.st with
    | .blocked .halted => true
    | _ => false)
  { s with
    groups := s.groups.map (fun g => if mine g && !atBkpt g then { g with haltReq := false } else g)
    saved := s.saved.map (fun y => if mine y.g then { y with g := { y.g with haltReq := false }, halted := false } else y) }

/-- A group of a context stands at a BKPT and is still to be saved. -/
def State.halting (s : State) (ctx : Nat) : Bool := s.groups.any (fun g => g.ctx = ctx && g.haltReq)

/-- DBG_DETACH. -/
def execDbgDetach (s : State) : Result :=
  s.command 9 "DBG_DETACH"
    (match s.cmdCtx? with
     | none => .next (s.finishCmd 2)
     | some c => dueIf "DBG_DETACH" (!s.halting c.id) (((s.unhalt c.id (fun _ => true)).putCtx { c with dbg := false }).finishCmd 0))

/-- DBG_HALT: it requests the halts, and completes once every named group has halted. DEDUCED: log entry 35. -/
def execDbgHalt (s : State) : Result :=
  s.command 10 "DBG_HALT"
    (match s.cmdCtx? with
     | none => .next (s.finishCmd 2)
     | some c =>
       let mine (g : Group) : Bool := g.ctx = c.id && s.named g.key && !g.ended
       let fresh := s.groups.any (fun g => mine g && !g.haltReq) || s.saved.any (fun y => mine y.g && !y.halted && !y.g.haltReq)
       let ask (g : Group) : Group := if g.ctx = c.id && s.named { g.key with shadow := false } then { g with haltReq := true } else g
       if fresh then
         .next { s with groups := s.groups.map ask, saved := s.saved.map (fun y => if y.halted then y else { y with g := ask y.g }) }
       else dueIf "DBG_HALT" (!s.groups.any mine && s.saved.all (fun y => !mine y.g || y.halted)) (s.finishCmd 0))

/-- DBG_RESUME. DEDUCED: log entry 35. -/
def execDbgResume (s : State) : Result :=
  s.command 11 "DBG_RESUME"
    (match s.cmdCtx? with
     | none => .next (s.finishCmd 2)
     | some c => .next ((s.unhalt c.id s.named).finishCmd 0))

/-- DBG_LOCATE. -/
def execDbgLocate (s : State) : Result :=
  s.command 12 "DBG_LOCATE"
    (match s.cmdCtx? with
     | none => .next (s.finishCmd 2)
     | some c =>
       match s.saved.find? (fun y => y.halted && y.g.ctx = c.id && s.named y.g.key) with
       | some y => .next ((s.setPkg { s.pkg with cmdA := nat64 y.addr }).finishCmd 0)
       | none => .next (s.finishCmd 2))

/-- BAD_COMMAND: any other OP. -/
def execBadCommand (s : State) : Result :=
  dueIf "BAD_COMMAND" (s.pkg.busy && s.isl.st != .off && (s.pkg.cmdOp == 0#8 || decide (12 < s.pkg.cmdOp.toNat))) (s.finishCmd 1)

end Sys2Proof.Machine
end

