-- ==== Sys2Proof/Machine/Corral.lean ====
section
/-! DEFINITION. The Corral unit (spec/04_groups_and_members.md R98 to R103): arrivals, the sort, the moves and the
return. -/

namespace Sys2Proof.Machine

/-! ## Arrivals (R98) -/

/-- What an arrived split waits with. -/
structure Arrival where
  ret : Bool
  vb : Nat
  n : Nat
  order : Nat
  keys : List Nat

def Split.arrival (p : Split) : Option Arrival :=
  match p.st with
  | .blocked (.corral ret vb n order keys) => some ⟨ret, vb, n, order, keys⟩
  | _ => none

/-- The arrived splits of a group, the last arrival first. -/
def Group.arrivals (g : Group) : List (Split × Arrival) :=
  (sortBy (fun (e : Split × Arrival) => e.2.order) (g.splits.filterMap (fun p => p.arrival.map (fun a => (p, a))))).reverse

/-- A group counts as arrived: every live thread has issued the instruction, no flag counts and no v result is awaited. -/
def Group.arrived (g : Group) : Bool :=
  let here := g.arrivals.foldl (fun m e => m ||| maskOf g.f (fun t => decide (e.2.keys.getD t 16 < 16))) 0#512
  g.liveMask &&& ~~~here == 0#512 && g.splits.all (fun p => p.arrival.isSome) && g.flagsClear && g.v.all (fun e => e.busy.isNone)

/-- A team's groups, one copy of them, by number. -/
def State.copyGroups (s : State) (k : TeamKey) (shadow : Bool) : List Group :=
  sortBy (fun g => g.key.group) (s.groups.filter (fun g => g.key.team = k && g.key.shadow = shadow))

/-! ## The sort (R99, R103) -/

/-- A thread of the team with its place, its key and what it carries. -/
structure Mover where
  pos : Nat
  key : Nat
  th : Thread
  words : List Word32

/-- Pending flags of every completion flag taken (R100). -/
def Thread.settled (th : Thread) : Thread := (List.range 12).foldl Thread.takePending th

/-- The threads of a group with the names they carry. -/
def Group.movers (g : Group) (names : List Nat) : List Mover :=
  let keyOf (t : Nat) : Nat := (g.arrivals.findSome? (fun e => if e.1.mask.getLsbD t then some (e.2.keys.getD t 16) else none)).getD 15
  g.threads.mapIdx (fun t th =>
    { pos := g.key.group * g.f + t, key := if th.exited || th.parked then 15 else keyOf t % 16, th := th.settled
      words := names.map (fun n => g.vWord n t) })

/-- The order of the sort: by key, ties by place, or by %origin in deterministic mode. -/
def sortMovers (det : Bool) (l : List Mover) : List Mover :=
  sortBy Mover.key (sortBy (fun m => if det then m.th.origin else m.pos) l)

/-- Each place's new thread: after a REGRP the sorted order with idle threads parked, after a REGRET every thread at its
origin. -/
def placed (ret det : Bool) (l : List Mover) : List Mover :=
  if ret then (sortBy (fun m => m.th.origin) l).map (fun m => { m with th := { m.th with parked := false } })
  else (sortMovers det l).map (fun m => { m with th := { m.th with parked := m.th.parked || (m.key == 15 && !m.th.exited) } })

/-! ## The moves (R100, R101) -/

/-- A carried name's words for one octet, as a write under R111: in place where the octet maps the name, else into a new
entry. -/
def State.carryOctet (s : State) (g : Group) (name octet : Nat) (ws : List Word32) : Option Group :=
  (s.mapV g name octet).map (fun g1 =>
    { g1 with v := g1.v.map (fun e => if e.name = name && e.octet = octet && e.pend.isEmpty then { e with vals := ws } else e) })

/-- Every carried name for every octet of a group that receives a thread; `ms` are the group's new threads by index. -/
def State.carryAll (s : State) (g : Group) (names : List Nat) (ms : List Mover) : Option Group :=
  let receives (o : Nat) : Bool := (List.range 8).any (fun j => ((ms[8 * o + j]?).map (fun m => !m.th.exited)).getD false)
  ((List.range names.length).flatMap (fun i => ((List.range (g.f / 8)).filter receives).map (fun o => (i, o)))).foldlM (fun g (q : Nat × Nat) =>
    s.carryOctet g (names.getD q.1 0) q.2 ((List.range 8).map (fun j => ((ms[8 * q.2 + j]?).bind (fun m => m.words[q.1]?)).getD 0))) g

/-- The one split of a group after the sort, at the instruction after the REGRP or REGRET. -/
def Group.oneSplit (g : Group) (from' : Split) (s : List Word64) (a : List AReg) (busy : List (Nat × Nat)) : Group :=
  let live := g.liveMask
  if live = 0#512 then { g with splits := [] }
  else
    { g with
      splits := [{ from' with
        sid := g.nextSid, age := g.nextAge, mask := live, s := s, a := a, sBusy := busy, latch := [], region := none, regionAt := g.seq
        defer := [] }]
      nextSid := g.nextSid + 1
      nextAge := g.nextAge + 1 }

/-- The s and a registers a group's new split takes, with the results still awaited: of its split that arrived last, else as
its last arrival left them; a group of which no split has ever arrived takes those of the split that arrived first in the team's
first group, or what was recorded for it at the first sort, zeros. DESIGN CHOICE: log entry 42. -/
def Team.uniform (t : Team) (g : Group) (base : Split) : List Word64 × List AReg × List (Nat × Nat) :=
  match g.arrivals with
  | e :: _ => (e.1.s, e.1.a, e.1.sBusy)
  | [] =>
    match t.origin15.find? (fun o => o.group = g.key.group) with
    | some o => (o.s, o.a, o.busy)
    | none => (base.s, base.a, base.sBusy)

/-- One group takes its new threads: none where the pool cannot supply an entry. The pending entries of the splits that are replaced
are freed, as at a region entry (R113). DESIGN CHOICE: log entry 42. -/
def State.placeGroup (s : State) (t : Team) (g : Group) (base : Split) (names : List Nat) (ms : List Mover) (moves : Bool) (nextId : Nat) :
    Option Group :=
  let (us, ua, ub) := t.uniform g base
  let g0 : Group := { g with v := g.v.filter (fun e => e.pend.isEmpty) }
  if !moves then some (g0.oneSplit base us ua ub)
  else
    (s.carryAll g0 names ms).map (fun g1 =>
      (({ g1 with
        threads := g1.threads.mapIdx (fun i old =>
          match ms[i]? with
          | some m => { m.th with acc := old.acc, done := m.th.done.map (fun _ => nextId) }
          | none => old)
        wr := []
        stale := ~~~0#32 } : Group).returnEntries).oneSplit base us ua ub)

/-- Every group of a copy of the team, or the first that an entry is missing for. -/
def State.placeAll (s : State) (t : Team) (base : Split) (names : List Nat) (ms : List Mover) (moves : Bool) :
    List Group → Except GroupKey State
  | [] => .ok s
  | g :: gs =>
    match s.placeGroup t g base names ((ms.drop (g.key.group * g.f)).take g.f) moves s.sched.nextId with
    | none => .error g.key
    | some g1 => (s.putGroup g1).placeAll t base names ms moves gs

/-- What the Corral unit records of the groups that arrived: a15 at the first REGRP, and s and a at every arrival. DEDUCED: log entry 24. -/
def Team.noteSort (t : Team) (gs : List Group) : Team :=
  { t with origin15 := gs.map (fun g =>
      let old := if t.regrouped then t.origin15.find? (fun o => o.group = g.key.group) else none
      match g.arrivals, old with
      | e :: _, some o => { o with s := e.1.s, a := e.1.a, busy := e.1.sBusy }
      | e :: _, none =>
        let r := (e.1.a[15]?).getD .zero
        { group := g.key.group, base := r.base, limit := r.limit, s := e.1.s, a := e.1.a, busy := e.1.sBusy }
      | [], some o => o
      | [], none => { group := g.key.group, base := 0, limit := 0, s := List.replicate 64 0, a := List.replicate 16 .zero, busy := [] }) }

/-- The splits go on after their instruction in every group of the team. -/
def State.passTeam (s : State) (k : TeamKey) : State :=
  (s.groups.filter (fun g => g.key.team = k)).foldl (fun s g => g.splits.foldl (fun s p => s.passInstr g.key p.sid) s) s

/-- Ended groups of a team take up their positions again (R99, R103). DEDUCED: log entry 24. -/
def State.recall (s : State) (t : Team) : State :=
  ({ s with groups := s.groups ++ t.gone }).modTeam t.key (fun u => { u with gone := [] })

/-- The recalled groups that received no thread end again. -/
def State.release (s : State) (t : Team) : State :=
  let still (g : Group) : Bool := t.gone.any (fun h => h.key = g.key) && g.threads.all Thread.exited
  ({ s with groups := s.groups.filter (fun g => !still g) }).modTeam t.key (fun u => { u with gone := s.groups.filter still })

/-- A deferred arrival goes with its thread to its new place (R100, R162). -/
def DeferredArr.follow (d : DeferredArr) (f : Nat) (ms : List Mover) : DeferredArr :=
  match ms.findIdx? (fun m => m.pos = d.g.group * f + d.thread) with
  | some q => { d with g := { d.g with group := q / f }, thread := q % f }
  | none => d

/-- The sort takes effect; or the group for which an entry, or room on its core, is missing. -/
def State.corral (s0 : State) (t : Team) (base : Split) (a : Arrival) : Except GroupKey State :=
  let s := s0.recall t
  let gs := s.copyGroups t.key false
  let names := (List.range a.n).map (fun i => a.vb + i)
  let moves := !a.ret || t.regrouped
  let det := s.teamDet t.key
  let order (shadow : Bool) : List Mover := placed a.ret det ((s.copyGroups t.key shadow).flatMap (fun g => g.movers names))
  let run (shadow : Bool) (s : State) : Except GroupKey State :=
    s.placeAll t base names (order shadow) moves (s.copyGroups t.key shadow)
  match (run false s).bind (run true) with
  | .error k => .error k
  | .ok s1 =>
    let s2 := s1.release t
    match gs.find? (fun g => !s2.coreHolds g.core) with
    | some g => .error g.key
    | none =>
      let t1 : Team := t.noteSort gs
      let f := (gs.head?.map Group.f).getD 1
      let s3 := s2.modTeam t.key (fun u =>
        { u with regrouped := !a.ret, origin15 := t1.origin15
                 defers := if moves then u.defers.map (fun d => d.follow f (order false)) else u.defers })
      let gone (d : DeferredArr) : Bool := ((s3.group? d.g).bind (fun g => g.threads[d.thread]?)).any (fun th => th.parked)
      let s4 := (s3.modTeam t.key (fun u => { u with defers := u.defers.filter (fun d => !gone d) })).settleBarriers t.key
      .ok ((gs.foldl (fun s g => s.acquire g.key g.core g.ctx .team) s4).passTeam t.key)

/-- Every arrived split waits for entries and issues again when it can (R116). DEDUCED: log entry 24. -/
def State.corralWaits (s : State) (k : TeamKey) : State :=
  { s with groups := s.groups.map (fun g =>
      if g.key.team = k then { g with splits := g.splits.map (fun p => if p.arrival.isSome then { p with st := .blocked (.retry wREGPOOL none) } else p) }
      else g) }

/-- An entry is missing for a group: the arrived splits wait for it, or, where the group is the only resident one of its core,
its instruction raises REG_EXHAUSTED (R116, R139). -/
def State.corralShort (s : State) (t : Team) (k : GroupKey) : State :=
  match s.group? k with
  | none => s.corralWaits t.key
  | some g =>
    match g.arrivals.head? with
    | some (p, _) =>
      if decide ((s.groups.filter (fun h => h.core = g.core)).length ≤ 1) && !s.poolOwed g then
        s.trapBoth k p.sid (p.trapInfo cREG_EXHAUSTED 0 (g.splitLive p)) p.region
      else s.corralWaits t.key
    | none => s.corralWaits t.key

/-- The accesses of a team's threads have been performed, so that their order goes with each thread to its new place: fences
and remote operations too (R246, R248, R255). DEDUCED: log entry 24. -/
def State.teamQuiet (s : State) (k : TeamKey) : Bool :=
  s.ops.mem.all (fun o => o.g.team != k || !o.orders) && s.ops.remote.all (fun o => o.g.team != k)
    && s.ops.pts.all (fun p => p.g.team != k || p.queues != 0#11)

/-- REGROUP_MISMATCH in every group of the team, at the instruction it arrived at (R98). -/
def State.corralMismatch (s : State) (gs : List Group) : State :=
  gs.foldl (fun s g =>
    match (sortBy (fun (e : Split × Arrival) => e.1.age) g.arrivals).head? with
    | none => s
    | some (p, _) =>
      s.trapBoth g.key p.sid { code := cREGROUP_MISMATCH, addr := 0, mask := g.splitLive p, iaddr := p.iaddr, inst := p.word } p.region) s

/-- A team of 17 to 32 groups has lost one of its cores with the groups there, which never arrive (R99, R132). -/
def Team.halved (t : Team) : Bool := t.lost.isSome && t.pair && !t.pairchk

/-- CORRAL_SORT: the team's last group has arrived. -/
def execCorralSort (x : EvTeam) (s : State) : Result :=
  match s.team? x.t with
  | none => notDue "CORRAL_SORT"
  | some t =>
    let gs := s.copyGroups x.t false
    let all := gs.flatMap Group.arrivals
    if s.saved.any (fun y => y.g.key.team = x.t) || t.halved || !gs.all Group.arrived || gs.any Group.priv || !s.teamQuiet x.t then notDue "CORRAL_SORT"
    else
      match all with
      | [] => notDue "CORRAL_SORT"
      | (p, a) :: rest =>
        if rest.all (fun e => e.1.iaddr == p.iaddr) then
          match s.corral t p a with
          | .ok s1 => .next s1
          | .error k => .next (s.corralShort t k)
        else .next (s.corralMismatch gs)

end Sys2Proof.Machine
end

