-- ==== Sys2Proof/Machine/HostEvents.lean ====
section
/-! DEFINITION. What the host and other devices do here (spec/21_package_and_system.md R384 to R391, R394;
spec/20_fabric_and_island.md R368, R369, R374, R376). The answer to the latest request stands in `State.reply`: its
status under R389, 0 where it was performed, and its bytes. -/

namespace Sys2Proof.Machine

/-! ## Statuses (R389) -/

/-- The status of a cause. -/
def statusOf (c : BitVec 8) : Nat :=
  if c = cPAGE_PROT || c = cADDR_PERM then 1
  else if c = cPAGE_ABSENT then 2
  else if c = cMEMBER_RANGE then 3
  else if c = cMEM_UNCORRECTABLE then 4
  else if c = cKEY_INVALID then 5
  else if c = cALIGN then 6
  else if c = cREMOTE_WINDOW then 7
  else 8

/-- A request is answered. -/
def State.answer (s : State) (status : Nat) (bs : List Byte) : State := { s with reply := (status, bs) }

/-- What an access asks for. -/
inductive Ask
  | read
  | write (data : List Byte)
  | atomic (op : AtomOp) (wide : Bool) (b c : Word64)
  | redla (wide : Bool) (value : Option FFmt) (b : Word64) (img : List Byte)
  | ldra
  | monitor (cc : Sys2Proof.Cond) (nat : Bool) (b : Word64)
  | unwatch (cc : Sys2Proof.Cond) (nat : Bool) (b : Word64)
  deriving DecidableEq, Repr

def Ask.perm : Ask → Perm
  | .read => .load
  | .ldra => .load
  | .monitor _ _ _ => .load
  | .unwatch _ _ _ => .load
  | .write _ => .store
  | _ => .atomic
def Ask.need : Ask → WinNeed
  | .read => .read
  | .ldra => .read
  | .monitor _ _ _ => .read
  | .unwatch _ _ _ => .read
  | .write _ => .write
  | _ => .atomic

/-- The request is of a form the format has: its size, its data, and an atomic's width. DEDUCED: log entry 34. -/
def Ask.formed (a : Ask) (size : Nat) : Bool :=
  match a with
  | .read => decide (1 ≤ size) && decide (size ≤ 128)
  | .write bs => decide (1 ≤ size) && decide (size ≤ 128) && bs.length == size
  | .atomic _ w _ _ => size == atomBytes w
  | .redla w _ _ _ => size == imageBytes w
  | .ldra => size == 4 || size == 8
  | .monitor _ _ _ => size == 4 || size == 8
  | .unwatch _ _ _ => size == 4 || size == 8

/-- What an atomic makes of a location's bytes. -/
def Ask.result (a : Ask) (old : List Byte) : List Byte :=
  match a with
  | .read => old
  | .ldra => old
  | .monitor _ _ _ => old
  | .unwatch _ _ _ => old
  | .write bs => bs
  | .atomic op w b c => leBytes (atomBytes w) (atomNew op w (nat64 (leNat old)) b c).1.toNat
  | .redla w value b img =>
    let m := Image.ofNat w (leNat old)
    let r := match value with
      | some f => (m.take ((fmtOf f).unpack (b.toNat % 2 ^ (fmtOf f).width))).1
      | none => m.merge (Image.ofNat w (leNat img))
    leBytes (imageBytes w) r.toNat

/-! ## At a place of this device -/

/-- An access performed at a physical address of this device, or the cause that refuses it: an M-die whose base die is lost does
not answer (R374). -/
def State.perform (s : State) (pa size : Nat) (key : BitVec 10) (bad : Bool) (a : Ask) : Except (BitVec 8) (State × List Byte) :=
  let old : Option (List Byte) := if isDevReg pa then some (s.regBytes pa size) else if bad && isHbm pa then none else s.homeRead pa size key
  let put (bs : List Byte) : State := if isDevReg pa then s.regStore pa bs else s.homeWrite pa bs key none
  if s.baseLost pa then .error cENDPOINT_DOWN
  else
  match a with
  | .read =>
    match old with
    | some bs => .ok (s, bs)
    | none => .error cMEM_UNCORRECTABLE
  | .ldra =>
    match old with
    | some bs => .ok (s, bs)
    | none => .error cMEM_UNCORRECTABLE
  | .monitor _ _ _ =>
    match old with
    | some bs => .ok (s, bs)
    | none => .error cMEM_UNCORRECTABLE
  | .unwatch _ _ _ => .ok (s, [])
  | .write bs => if isHbm pa && s.dieLost (homeDie pa) then .error cMEM_UNCORRECTABLE else .ok (put bs, [])
  | _ =>
    match old with
    | some bs => .ok (put (a.result bs), bs)
    | none => .error cMEM_UNCORRECTABLE

/-- A context page takes no request while compute is away (R374). -/
def State.pageAway (s : State) (pa : Nat) : Bool :=
  s.isl.st != .joined && decide (0x8000400000 ≤ pa) && isDevReg pa

/-! ## Requests of the host (R389, R391) -/

/-- The cause that refuses a part of a virtual access, as a host is told it: PAGE_ABSENT for a page that maps a hole of the
register space (R384, R389), ENDPOINT_DOWN for an M-die whose base die is lost (R374). DEDUCED: log entry 34. -/
def State.hostCause (s : State) (c : BitVec 8) (p : Perm) (w0 : Word64) (pa : Nat) : BitVec 8 :=
  if c = cPAGE_PROT && permOk p w0 && !leafPm w0 && !isMapped pa then cPAGE_ABSENT
  else if c = cMEM_UNCORRECTABLE && s.baseLost pa then cENDPOINT_DOWN
  else c

/-- The parts of a virtual access: address, size, physical address and attributes, or the cause of its refusal. DEDUCED: log entries 18, 34. -/
def State.hostParts (s : State) (r : HostReq) (p : Perm) : Except (BitVec 8) (List (Nat × Nat × Attr)) :=
  let member := if r.member.getLsbD 15 then r.member.toNat % 2 ^ 15 else 0
  (cutAt 4096 r.addr r.size).foldl (fun acc q =>
    match acc with
    | .error e => .error e
    | .ok ps =>
      match s.leafFor devUnit r.ctx q.1 with
      | .error e => .error e
      | .ok (w0, w1) =>
        if leafPm w0 && !r.member.getLsbD 15 then .error cMEMBER_RANGE
        else
          match s.leafAccess r.ctx q.1 p member w0 w1 with
          | .error e => .error (s.hostCause e p w0 (leafPa q.1 member w0 w1))
          | .ok (pa, at1) =>
            if ps.all (fun x => x.2.2 == at1) then .ok (ps ++ [(pa, q.2.1, at1)]) else .error cALIGN) (.ok [])

/-- The part of a request's data that belongs to one of its parts. -/
def Ask.part (a : Ask) (off n : Nat) : Ask :=
  match a with
  | .write bs => .write ((bs.drop off).take n)
  | x => x

/-- One part of a virtual access at its place, with the rest of a peer's answer: a home here, reached directly or through this
device's own frame, or another device, whose answer must fit it; or the cause of its refusal. -/
def State.hostPart (s : State) (r : HostReq) (a : Ask) (rep : List Byte) (va pa n : Nat) (at1 : Attr) :
    Option (Except (BitVec 8) (State × List Byte × List Byte)) :=
  let here (x : Except (BitVec 8) (State × List Byte)) : Option (Except (BitVec 8) (State × List Byte × List Byte)) :=
    some (x.map (fun y => (y.1, y.2, rep)))
  if s.elsewhere pa then
    let k := match a with
      | .write _ => 0
      | _ => n
    match r.reply with
    | .fault c => if metOf (.fault c) 0 = .unfit then none else some (.error c)
    | .data _ => if k ≤ rep.length then some (.ok (s, rep.take k, rep.drop k)) else none
  else if isRemote pa then
    match s.frameAddr (frameOff pa) n a.need with
    | none => some (.error cREMOTE_WINDOW)
    | some (loc, k) => here ((s.homeSeen r.ctx 0 loc n normalAttr).perform loc n k r.bad a)
  else here ((s.homeSeen r.ctx va pa n at1).perform pa n at1.key r.bad a)

/-- The parts one after another, each at its own place (R389): all of them, or the cause that refuses the request. -/
def State.performParts (s : State) (r : HostReq) (a : Ask) : Nat → List Byte → List (Nat × Nat × Attr) → Option (Except (BitVec 8) (State × List Byte))
  | _, rep, [] => if rep = [] then some (.ok (s, [])) else none
  | off, rep, (pa, n, at1) :: rest =>
    match s.hostPart r (a.part off n) rep (r.addr + off) pa n at1 with
    | none => none
    | some (.error e) => some (.error e)
    | some (.ok (s1, bs, rep1)) =>
      match s1.performParts r a (off + n) rep1 rest with
      | some (.ok (s2, more)) => some (.ok (s2, bs ++ more))
      | x => x

/-- A virtual request whose parts are known is performed and answered. -/
def State.hostParted (s : State) (r : HostReq) (a : Ask) (ps : List (Nat × Nat × Attr)) : Option State :=
  let rep := match r.reply with
    | .data bs => if ps.any (fun q => s.elsewhere q.1) then bs else []
    | .fault _ => []
  (s.performParts r a 0 rep ps).map (fun x =>
    match x with
    | .ok (s1, bs) => s1.answer 0 bs
    | .error c => s.answer (statusOf c) [])

/-- A request with PHYS: the register space, for the privileged agent or the managing device. DEDUCED: log entry 34. -/
def State.hostPhys (s : State) (r : HostReq) (physOk : Bool) (a : Ask) : Option State :=
  if !physOk then some (s.answer 1 [])
  else if (cutAt 8 r.addr r.size).any (fun q => !isDevReg q.1 && !isHostMem q.1) then some (s.answer 2 [])
  else if (cutAt 8 r.addr r.size).any (fun q => s.pageAway q.1) then some (s.answer 8 [])
  else
    match (s.homeLines 0 0 r.addr r.size normalAttr).perform r.addr r.size 0 false a with
    | .error c => some (s.answer (statusOf c) [])
    | .ok (s1, bs) => some (s1.answer 0 bs)

/-- What a request asks for. -/
def hostAsk (r : HostReq) : Ask :=
  match r.kind with
  | .read => .read
  | .write bs => .write bs
  | .atomic op w b c => .atomic op w b c
  | .regRead => .read
  | .regWrite v => .write (leBytes 8 v.toNat)

/-- The request is aligned where it must be: an atomic, and a register access, which is one doubleword. -/
def hostAligned (r : HostReq) : Bool :=
  match r.kind with
  | .atomic _ _ _ _ => r.addr % r.size == 0
  | .regRead => r.addr % 8 == 0
  | .regWrite _ => r.addr % 8 == 0
  | _ => true

/-- A request is performed and answered. -/
def State.hostRun (s : State) (r : HostReq) (physOk : Bool) (ps : List (Nat × Nat × Attr)) : Option State :=
  if r.phys then s.hostPhys r physOk (hostAsk r) else s.hostParted r (hostAsk r) ps

/-- The request reads memory alone. -/
def hostReads (r : HostReq) : Bool :=
  match r.kind with
  | .read => true
  | .regRead => true
  | _ => false

/-- A request that waits comes before another of its sender: the other is a release, or follows an acquire, or writes after a
release, or takes some of the same bytes (R218, R248, R390). -/
def HostHeld.first (h : HostHeld) (r : HostReq) (mgmt : Bool) (ps : List (Nat × Nat × Attr)) : Bool :=
  h.mgmt == mgmt && (r.order == .rel || h.r.order == .acq || (h.r.order == .rel && !hostReads r)
    || h.ps.any (fun p => ps.any (fun q => meetsRange p.1 p.2.1 q.1 q.2.1)))

/-- Some part of a request lies at a device that is not reached. -/
def State.hostFar (s : State) (ps : List (Nat × Nat × Attr)) : Bool := ps.any (fun q => s.elsewhere q.1 && !s.reachable (frameDev q.1))

/-- A request is performed, or held: behind an earlier one that waits, or for a device that is not reached (R375, R390). -/
def State.hostSend (s : State) (r : HostReq) (physOk mgmt : Bool) (ps : List (Nat × Nat × Attr)) : Option State :=
  let behind := s.isl.hostHeld.any (fun h => h.first r mgmt ps)
  if behind || s.hostFar ps then
    let (id, s1) := s.freshId
    some (s1.setIsl { s1.isl with hostHeld := s1.isl.hostHeld ++ [⟨id, r, physOk, mgmt, ps, if behind then none else some s.cycle, 0⟩] })
  else s.hostRun r physOk ps

/-- A request through a context's translation. -/
def State.hostVirtual (s : State) (r : HostReq) (physOk mgmt : Bool) : Option State :=
  let s0 := (cutAt 4096 r.addr r.size).foldl (fun (s : State) q => s.touchWalk devUnit r.ctx q.1) s
  match s.hostParts r (hostAsk r).perm with
  | .error c => some (s0.answer (statusOf c) [])
  | .ok ps => if ps.any (fun q => s.pageAway q.1) then some (s0.answer 8 []) else s0.hostSend r physOk mgmt ps

/-- A request of the host position, or of the managing device. -/
def State.request (s : State) (r : HostReq) (physOk : Bool) (mgmt : Bool := false) : Option State :=
  if !((hostAsk r).formed r.size) then none
  else if !hostAligned r then some (s.answer 6 [])
  else if r.phys then s.hostSend r physOk mgmt []
  else s.hostVirtual r physOk mgmt

/-- A host event: the port to the host is down while the island is OFF, and a device whose host position is unpopulated has none
(R2). -/
def State.hostEvent (s : State) (event : String) (kind : Bool) (r : HostReq) : Result :=
  if s.isl.st = .off || !kind || !s.pkg.hosted then notDue event
  else
    match s.request r r.privileged with
    | some s1 => .next s1
    | none => notDue event

/-- HOST_READ. -/
def execHostRead (x : EvHost) (s : State) : Result :=
  s.hostEvent "HOST_READ" (match x.r.kind with
    | .read => true
    | _ => false) x.r

/-- HOST_WRITE; what the host wrote before is performed or waits, and a release waits for what waits (R390). -/
def execHostWrite (x : EvHost) (s : State) : Result :=
  s.hostEvent "HOST_WRITE" (match x.r.kind with
    | .write _ => true
    | _ => false) x.r

/-- HOST_ATOMIC. -/
def execHostAtomic (x : EvHost) (s : State) : Result :=
  s.hostEvent "HOST_ATOMIC" (match x.r.kind with
    | .atomic _ _ _ _ => true
    | _ => false) x.r

/-- HOST_REGISTER_ACCESS. -/
def execHostRegisterAccess (x : EvHost) (s : State) : Result :=
  s.hostEvent "HOST_REGISTER_ACCESS" (match x.r.kind with
    | .regRead => x.r.size == 8
    | .regWrite _ => x.r.size == 8
    | _ => false) x.r

/-- MANAGEMENT_REQUEST (R391): from the device MGMTHOST names, while feature 6 is active. -/
def execManagementRequest (x : EvMgmt) (s : State) : Result :=
  if s.isl.st = .off then notDue "MANAGEMENT_REQUEST"
  else if x.src = s.pkg.mgmtHost.toNat && decide (x.src < 512) && bitAt s.pkg.featAct0 6 then
    match s.request x.r true true with
    | some s1 => .next s1
    | none => notDue "MANAGEMENT_REQUEST"
  else .next (s.answer (statusOf cREMOTE_WINDOW) [])

/-! ## Accesses of other devices (R368, R369) -/

/-- What a peer asks for. -/
def peerAsk (k : PeerKind) : Ask :=
  match k with
  | .read => .read
  | .write bs => .write bs
  | .atomic op w b c => .atomic op w b c
  | .redla w v b img => .redla w v b img
  | .ldra => .ldra
  | .monitor cc nat b => .monitor cc nat b
  | .unwatch cc nat b => .unwatch cc nat b

/-- How an access is aligned: an atomic naturally, an image on 64 bytes (R233, R264). -/
def Ask.align (a : Ask) : Nat :=
  match a with
  | .atomic _ w _ _ => atomBytes w
  | .redla _ _ _ _ => 64
  | _ => 1

/-- How a peer's access is aligned: an ordered load and a monitored location naturally (R219, R230). -/
def Ask.placed (a : Ask) (addr size : Nat) : Bool :=
  match a with
  | .ldra => addr % size == 0
  | .monitor _ _ _ => addr % size == 0
  | .unwatch _ _ _ => addr % size == 0
  | a => addr % a.align == 0

/-- The home L2 serves a peer's LDRA (R229): a line whose tag names a core waits for that core's flush, and the answer follows
it. -/
def State.peerLdra (s : State) (src pa : Nat) (bs : List Byte) : State :=
  match s.mem.tag? (pa / 128) with
  | none => s.answer 0 bs
  | some c =>
    let (id, s1) := s.freshId
    s1.setIsl { s1.isl with ldras := s1.isl.ldras ++ [⟨id, src, c, pa / 128, bs⟩] }

/-- The slice serves a peer's WAITC (R231): it is answered at once, or takes an entry, or is held while there is none. -/
def State.peerMonitor (s : State) (src pa size : Nat) (key : BitVec 10) (cc : Sys2Proof.Cond) (nat : Bool) (b : Word64) (bs : List Byte) : State :=
  if monitorTrue cc nat b bs then s.answer 0 bs
  else
    let (id, s1) := s.freshId
    let die := s.slice pa pa
    s1.setMem { s1.mem with monitors := s1.mem.monitors ++
      [{ op := id, die := die, pa := pa, size := size, cc := cc, nat := nat, b := b, slot := key, held := !s.mem.monitorRoom die
         seen := s.cycle, peer := some src }] }

/-- The group of a peer's WAITC has ended: one entry of its kind is freed (R231). DEDUCED: log entry 21. -/
def State.peerUnwatch (s : State) (src pa size : Nat) (cc : Sys2Proof.Cond) (nat : Bool) (b : Word64) : State :=
  match s.mem.monitors.find? (fun m => m.peer = some src && m.pa = pa && m.size = size && m.cc = cc && m.nat = nat && m.b = b) with
  | some m => (s.setMem { s.mem with monitors := s.mem.monitors.filter (fun e => e.op ≠ m.op) }).answer 0 []
  | none => s.answer 0 []

/-- A peer's access at its place here: an M-die whose base die is lost does not answer (R374). -/
def State.peerAccess (s : State) (src : Nat) (place : Option (Nat × BitVec 10)) (size : Nat) (a : Ask) : State :=
  match place with
  | none => s.answer (statusOf cREMOTE_WINDOW) []
  | some (pa, key) =>
      match (s.homeLines 0 0 pa size normalAttr).perform pa size key false a with
      | .error c => s.answer (statusOf c) []
      | .ok (s1, bs) =>
        match a with
        | .unwatch cc nat b => s1.peerUnwatch src pa size cc nat b
        | .ldra => s1.peerLdra src pa bs
        | .monitor cc nat b => s1.peerMonitor src pa size key cc nat b bs
        | _ => s1.answer 0 bs

/-- What RGET, RPUT and RATOM ask of a window. -/
def Ask.windowed (a : Ask) : Bool :=
  match a with
  | .read => true
  | .write _ => true
  | .atomic _ _ _ _ => true
  | _ => false

/-- WINDOW_ACCESS: a peer's RGET, RPUT or RATOM on one of this device's windows. -/
def execWindowAccess (x : EvWindow) (s : State) : Result :=
  let a := peerAsk x.kind
  dueIf "WINDOW_ACCESS" (s.isl.st != .off && decide (x.src < 512) && a.formed x.size && a.windowed && x.off % a.align == 0)
    (s.peerAccess x.src (if x.win < 64 then s.windowAddr x.win x.off x.size a.need else none) x.size a)

/-- REMOTE_FRAME_ACCESS: a peer's access through a remote frame, with local address PA[41:0]. -/
def execRemoteFrameAccess (x : EvFrame) (s : State) : Result :=
  let a := peerAsk x.kind
  dueIf "REMOTE_FRAME_ACCESS" (s.isl.st != .off && decide (x.src < 512) && decide (x.addr < 2 ^ 42) && a.formed x.size && a.placed x.addr x.size)
    (s.peerAccess x.src (s.frameAddr x.addr x.size a.need) x.size a)
/-! ## Writes of registers with a behaviour of their own (R376, R386, R388, R394) -/

/-- FEATREQ1_WRITE. -/
def execFeatreq1Write (x : EvVal) (s : State) : Result :=
  dueIf "FEATREQ1_WRITE" (s.isl.st != .off) (s.setPkg (s.pkg.requestFeatures x.val))

/-- QTAIL_WRITE: the launch queues are compute endpoints. -/
def execQtailWrite (x : EvQTail) (s : State) : Result :=
  dueIf "QTAIL_WRITE" (s.isl.st == .joined && decide (x.ctx < 1024 ∧ x.q < 64)) (s.modPage x.ctx (fun c => c.writeTail x.q x.val))

/-- CRHEAD_WRITE. -/
def execCrheadWrite (x : EvCrHead) (s : State) : Result :=
  dueIf "CRHEAD_WRITE" (s.isl.st == .joined && decide (x.ctx < 1024)) (s.modPage x.ctx (fun c => c.writeCrHead x.val))

/-- RETRY_WRITE. -/
def execRetryWrite (x : EvVal) (s : State) : Result :=
  dueIf "RETRY_WRITE" (s.isl.st != .off) (s.setIsl { s.isl with retry := retryKept (x.val.setWidth 32).toNat })

/-- CURBBUDGET_WRITE. -/
def execCurbbudgetWrite (x : EvVal) (s : State) : Result :=
  dueIf "CURBBUDGET_WRITE" (s.isl.st != .off) (s.setPkg { s.pkg with curbBudget := curbKept (x.val.setWidth 11) })

/-- REGISTER_WRITE (R9): a doubleword of the register space. -/
def execRegisterWrite (x : EvRegWrite) (s : State) : Result :=
  dueIf "REGISTER_WRITE" (s.isl.st != .off && x.pa % 8 == 0 && isDevReg x.pa && !s.pageAway x.pa) (s.regWrite x.pa x.val)

end Sys2Proof.Machine
end

