-- ==== Sys2Proof/Machine/LaneInt.lean ====
section
/-! DEFINITION. The lane-integer instructions (spec/02_core_instructions.md R56 to R59): the effect of R57 once, and
the exact result of each. -/

namespace Sys2Proof.Machine

/-! ## The effect of R57 -/

/-- The result a lane-integer instruction writes from its exact result e (R57). -/
def intResult (ty : IntTy) (sat : Bool) (e : Int) : Word64 :=
  narrowInt ty.signed ty.bits (if sat then satInt ty.signed ty.bits e else e)

/-- ext of R57. -/
def extTy (ty : IntTy) (x : Word64) : Int := extInt ty.signed ty.bits x

/-- The unsigned value of the n bits of an operand. -/
def bitsTy (ty : IntTy) (x : Word64) : Nat := x.toNat % 2 ^ ty.bits

/-- Two sources: e from the operands as R57 extends them. -/
def intBin (x : IBin) (sat : Bool) (e : Word64 → Word64 → Int) : Meaning :=
  { view := x.view sat
    lit := x.b.isLit
    body := fun i => i.writeV x.d x.ty.regs (fun t => intResult x.ty x.sat (e (i.val x.a x.ty.regs t) (i.src x.b x.ty.regs t))) }

/-- One source. -/
def intUn (x : IUn) (sat sgn : Bool) (e : Word64 → Int) : Meaning :=
  { view := x.view sat sgn false
    body := fun i => i.writeV x.d x.ty.regs (fun t => intResult x.ty x.sat (e (i.val x.a x.ty.regs t))) }

/-- One source, a count in one 32-bit register (POPC, CLZ). -/
def intCount (x : IUn) (e : Nat → Nat) : Meaning :=
  { view := x.view false false true
    body := fun i => i.writeV x.d 1 (fun t => BitVec.ofNat 64 (e (bitsTy x.ty (i.val x.a x.ty.regs t)))) }

/-- Three sources. -/
def intTern (x : ITern) (sat : Bool) (e : Word64 → Word64 → Word64 → Int) : Meaning :=
  { view := x.view sat
    lit := x.b.isLit
    body := fun i => i.writeV x.d x.ty.regs (fun t =>
      intResult x.ty x.sat (e (i.val x.a x.ty.regs t) (i.src x.b x.ty.regs t) (i.val x.x x.ty.regs t))) }

/-! ## Exact results (R56) -/

/-- The shift amount s of R56. -/
def shiftAmt (b : Word64) : Nat := b.toNat % 256

/-- The bits of a number below n in reverse order. -/
def revBits (x : Nat) : Nat → Nat
  | 0 => 0
  | n + 1 => (x % 2) * 2 ^ n + revBits (x / 2) n

/-- How many of the low n bits are 1. -/
def popBits (x : Nat) : Nat → Nat
  | 0 => 0
  | n + 1 => x % 2 + popBits (x / 2) n

/-- Leading zeros of an n-bit value. -/
def clzBits (n x : Nat) : Nat := if x = 0 then n else n - 1 - Nat.log2 x

/-- The field specification of R58: position and clipped length, none for an empty field. DEDUCED: log entry 11. -/
def fieldSpec (n : Nat) (spec : Word64) : Option (Nat × Nat) :=
  let pos := spec.toNat % 256
  let len := spec.toNat / 256 % 256
  if len = 0 || n ≤ pos then none else some (pos, min len (n - pos))

def bfx (ty : IntTy) (a spec : Word64) : Int :=
  match fieldSpec ty.bits spec with
  | none => 0
  | some (pos, len) => extInt ty.signed len (BitVec.ofNat 64 (bitsTy ty a / 2 ^ pos % 2 ^ len))

def bfi (ty : IntTy) (a spec c : Word64) : Int :=
  match fieldSpec ty.bits spec with
  | none => bitsTy ty a
  | some (pos, len) =>
    let x := bitsTy ty a
    (x / 2 ^ (pos + len) * 2 ^ (pos + len) + (c.toNat % 2 ^ len) * 2 ^ pos + x % 2 ^ pos : Nat)

/-! ## The instructions -/

/-- NOP (R56): no effect. -/
def execNop (x : INone) (s : State) : Result := runCore { view := x.view, body := fun i => .ok i } s
def execIadd (x : IBin) (s : State) : Result := runCore (intBin x true (fun a b => extTy x.ty a + extTy x.ty b)) s
def execIsub (x : IBin) (s : State) : Result := runCore (intBin x true (fun a b => extTy x.ty a - extTy x.ty b)) s
def execImul (x : IBin) (s : State) : Result := runCore (intBin x true (fun a b => extTy x.ty a * extTy x.ty b)) s
def execImulh (x : IBin) (s : State) : Result :=
  runCore (intBin x false (fun a b => extTy x.ty a * extTy x.ty b / 2 ^ x.ty.bits)) s
def execImad (x : ITern) (s : State) : Result :=
  runCore (intTern x true (fun a b c => extTy x.ty a * extTy x.ty b + extTy x.ty c)) s
def execImin (x : IBin) (s : State) : Result := runCore (intBin x false (fun a b => min (extTy x.ty a) (extTy x.ty b))) s
def execImax (x : IBin) (s : State) : Result := runCore (intBin x false (fun a b => max (extTy x.ty a) (extTy x.ty b))) s
def execIabs (x : IUn) (s : State) : Result := runCore (intUn x true true (fun a => ((extTy x.ty a).natAbs : Int))) s
def execIneg (x : IUn) (s : State) : Result := runCore (intUn x true true (fun a => -extTy x.ty a)) s
def execAnd (x : IBin) (s : State) : Result := runCore (intBin x false (fun a b => ((a &&& b).toNat : Int))) s
def execOr (x : IBin) (s : State) : Result := runCore (intBin x false (fun a b => ((a ||| b).toNat : Int))) s
def execXor (x : IBin) (s : State) : Result := runCore (intBin x false (fun a b => ((a ^^^ b).toNat : Int))) s
def execNot (x : IUn) (s : State) : Result := runCore (intUn x false false (fun a => ((~~~a).toNat : Int))) s
def execShl (x : IBin) (s : State) : Result :=
  runCore (intBin x false (fun a b => if x.ty.bits ≤ shiftAmt b then 0 else ((bitsTy x.ty a * 2 ^ shiftAmt b : Nat) : Int))) s
def execShr (x : IBin) (s : State) : Result :=
  runCore (intBin x false (fun a b => ((bitsTy x.ty a / 2 ^ shiftAmt b : Nat) : Int))) s
def execSar (x : IBin) (s : State) : Result :=
  runCore (intBin x false (fun a b => extTy x.ty a / 2 ^ min (shiftAmt b) (x.ty.bits - 1))) s
def execRot (x : IBin) (s : State) : Result :=
  runCore (intBin x false (fun a b =>
    let n := x.ty.bits
    let k := shiftAmt b % n
    ((bitsTy x.ty a * 2 ^ k + bitsTy x.ty a / 2 ^ (n - k) : Nat) : Int))) s
def execPopc (x : IUn) (s : State) : Result := runCore (intCount x (fun a => popBits a x.ty.bits)) s
def execClz (x : IUn) (s : State) : Result := runCore (intCount x (fun a => clzBits x.ty.bits a)) s
def execBrev (x : IUn) (s : State) : Result :=
  runCore (intUn x false false (fun a => (revBits (bitsTy x.ty a) x.ty.bits : Int))) s
def execBfx (x : IBin) (s : State) : Result := runCore (intBin x false (fun a b => bfx x.ty a b)) s
def execBfi (x : ITern) (s : State) : Result := runCore (intTern x false (fun a b c => bfi x.ty a b c)) s
/-- ICMP (R59): inactive threads keep their predicate. -/
def execIcmp (x : ICmp) (s : State) : Result :=
  runCore { view := x.view, lit := x.b.isLit, body := fun i => .ok (i.writeP x.d i.act (fun t =>
    condInt x.cc (extTy x.ty (i.val x.a x.ty.regs t)) (extTy x.ty (i.src x.b x.ty.regs t)))) } s
/-- SEL (R59). -/
def execSel (x : ISel) (s : State) : Result :=
  runCore { view := x.view, lit := x.b.isLit, body := fun i => i.writeV x.d x.ty.regs (fun t =>
    intResult x.ty false (if i.predOf x.q t then extTy x.ty (i.val x.a x.ty.regs t) else extTy x.ty (i.src x.b x.ty.regs t))) } s
def execMov (x : IUn) (s : State) : Result := runCore (intUn x false false (fun a => extTy x.ty a)) s
/-- MOVI (R56). -/
def execMovi (x : IMovi) (s : State) : Result :=
  runCore { view := x.view, lit := x.b.isLit, body := fun i => i.writeV x.d x.ty.regs (fun t =>
    intResult x.ty false (extTy x.ty (i.src x.b x.ty.regs t))) } s

end Sys2Proof.Machine
end

