-- ==== Sys2Proof/Machine/Member.lean ====
section
/-! DEFINITION. Exchange among members, member-shared registers and the arrival at REGRP and REGRET
(spec/06_member_local_sync_instructions.md R134 to R139, spec/04_groups_and_members.md R98). -/

namespace Sys2Proof.Machine

/-- Active threads of a thread's lane, members ascending (R134). -/
def Iss.mates (i : Iss) (t : Nat) : List Nat := i.threads.filter (fun u => i.g0.laneOf u = i.g0.laneOf t)

/-- The lowest-numbered active thread of each lane that has one (R135, R136). -/
def Iss.laneFirsts (i : Iss) : List Nat := i.threads.filter (fun t => (i.mates t).all (fun u => decide (t ≤ u)))

/-- A result into a member-shared register (R135). -/
def Iss.writeW (i : Iss) (o : Opnd) (regs : Nat) (f : Nat → Word64) : Act :=
  if !i.any then .ok i
  else
    match i.s.mapWs i.g (namesFrom o.num regs) with
    | none => i.noEntry
    | some g =>
      let m := i.laneFirsts.foldl (fun m t => m ||| BitVec.twoPow 512 t) 0#512
      .ok { i with g := g.writeShared o.num regs m (fun t => (f t).toNat) (fun _ => true) }

/-- MBCAST (R134). -/
def execMbcast (x : MBcast) (s : State) : Result :=
  let n := if x.wide then 2 else 1
  runCore
    { view := x.view
      lit := x.b.isLit
      body := fun i => i.writeV x.d n (fun t =>
        let j := (i.src x.b 1 t).toNat % 2 ^ 32
        let u := j * i.g0.w + i.g0.laneOf t
        i.val x.a n (if j < i.g0.m && i.act.getLsbD u then u else t)) } s

/-- MRED (R134, R135): over the lane's active members, into each thread's v register or the lane's w register. -/
def execMred (x : Red) (s : State) : Result :=
  let n := x.op.regs x.flag
  runCore
    { view := x.view [.v, .w]
      body := fun i =>
        let r (t : Nat) : Word64 × BitVec 5 := reduce x.op (redBits x) ((i.mates t).map (fun u => i.val x.a n u))
        match x.d with
        | .w _ => (i.writeW x.d n (fun t => (r t).1)).andThen (fun j => .ok (j.raise (fun t => (r t).2)))
        | _ => i.writeF x.d n r } s

/-- MVOTE (R134). -/
def execMvote (x : Vote) (s : State) : Result :=
  runCore
    { view := x.view 1
      body := fun i =>
        match x.mode with
        | .ballot => i.writeV x.d 1 (fun t => BitVec.ofNat 64 ((i.mates t).foldl (fun acc u =>
            if i.predOf x.a u then acc + 2 ^ i.g0.memberOf u else acc) 0))
        | _ => .ok (i.writeP x.d i.act (fun t => voteOf x.mode ((i.mates t).map (i.predOf x.a)))) } s

/-- LDW (R136): one access for each lane with an active thread. -/
def execLdw (x : Sys2Proof.Mem) (s : State) : Result :=
  runCore
    { view := x.view [.w] [.a] offSrc
      body := fun i =>
        i.load { threads := i.laneFirsts, ea := i.eaOf (i.areg x.a) x.addr, reg := i.areg x.a, size := x.w.bytes
                 signed := x.w.signed, dest := .w x.d.num x.w.regs } } s

/-- MOVW (R137). -/
def execMovw (x : UMovi) (s : State) : Result :=
  runCore
    { view := x.movwView
      lit := x.b.isLit
      body := fun i => i.writeW x.d 1 (fun t => i.src x.b 1 t) } s

/-! ## REGRP and REGRET (R98, R138) -/

/-- The arrival at REGRP or REGRET: the split blocks with its threads' keys. It stays in its region until the Corral
unit has moved the threads (R125, R126). -/
def Iss.corral (i : Iss) (ret : Bool) (vb : Opnd) (n : BitVec 9) (key : Nat → Nat) : Act :=
  if !i.any then .ok i
  else if i.s0.unchecked i.k i.sid i.p0.region || !i.released i.act .team then .stall 0 none
  else
    let keys := (List.range i.g0.f).map (fun t => if i.act.getLsbD t then key t else 16)
    let order := i.s.sched.nextOrder
    .ok { i with s := i.s.setSched { i.s.sched with nextOrder := order + 1 }
                 flow := .block (.corral ret vb.num n.toNat order keys) }

/-- REGRP (R98, R138). DEDUCED: log entry 24. -/
def execRegrp (x : Regrp) (s : State) : Result :=
  runCore { view := x.view, body := fun i => i.corral false x.vb x.n (fun t => (i.val x.key 1 t).toNat % 16) } s
/-- REGRET (R103, R138). -/
def execRegret (x : Regret) (s : State) : Result :=
  runCore { view := x.view, body := fun i => i.corral true x.vb x.n (fun _ => 15) } s

end Sys2Proof.Machine
end

