-- ==== Sys2Proof/Machine/Remote.lean ====
section
/-! DEFINITION. RGET, RPUT and RATOM as they issue: their passes in the core's remote queue
(spec/10_atomic_fence_remote_instructions.md R232 to R235). -/

namespace Sys2Proof.Machine

/-- Ascending order without repeats. -/
def ascending (l : List Nat) : List Nat := (sortBy id l).foldl (fun acc x => if x ∈ acc then acc else acc ++ [x]) []

/-- A remote instruction. -/
structure RemoteSpec where
  kind : RemoteKind
  win : Nat
  size : Nat
  signed : Bool
  align : Bool
  peer : Nat → Nat
  off : Nat → Nat
  data : Nat → List Byte
  arg : Nat → AtomArg
  dest : Dest
  perm : Perm

/-- The passes of an instruction: one for each distinct peer, ascending (R233). -/
def Iss.passes (i : Iss) (l : RemoteSpec) (inst first : Nat) : List RemoteOp :=
  (ascending (i.threads.map l.peer)).mapIdx (fun n peer =>
    { id := first + n, inst := inst, kind := l.kind, g := i.opKey, sid := i.sid, core := i.core, ctx := i.g0.ctx, peer := peer, win := l.win
      size := l.size, signed := l.signed
      args := (i.threads.filter (fun t => l.peer t = peer)).map (fun t => ⟨t, l.off t, l.data t, (l.arg t).b, (l.arg t).c⟩)
      dest := l.dest, flag := i.flag?, checked := decide (512 ≤ peer)
      bad := if peer < 512 then [] else (i.threads.filter (fun t => l.peer t = peer)).map (fun t => (t, cENDPOINT_DOWN))
      heldAt := none, retries := 0, region := i.p0.region
      iaddr := i.p0.iaddr, word := i.p0.word })

/-- A remote instruction issues: the checks that need nothing of the peer, then its passes join the queue (R233). A peer of 512 or
more beside others waits for their checks: a thread whose peer is not reached reports the same cause (R127). -/
def Iss.remote (i : Iss) (l : RemoteSpec) : Act :=
  if !i.any then .ok i
  else
    let gone := i.threads.filterMap (fun t =>
      if l.peer t < 512 then none else some (⟨t, cENDPOINT_DOWN, BitVec.ofNat 64 (l.peer t), true, none⟩ : ThrFault))
    let mis := i.threads.filterMap (fun t =>
      if l.peer t < 512 && l.align && decide (l.off t % l.size ≠ 0) then some (⟨t, cALIGN, BitVec.ofNat 64 (l.off t), false, none⟩ : ThrFault)
      else none)
    match faultOf (if mis.isEmpty && gone.length ≠ i.threads.length then [] else gone ++ mis) l.perm false i.p0.iaddr i.p0.word with
    | some info => .trap { i with s := i.s0, g := i.g0 } info
    | none =>
      i.allocDest l.dest i.act (fun i =>
        if i.k.shadow then .ok { i.markBusy l.dest i.act (i.shared.headD 0) with flagUp := true }
        else
          let first := i.s.sched.nextId
          let ps := i.passes l first first
          let s1 := i.s.setSched { i.s.sched with nextId := first + ps.length }
          let s2 := s1.setOps { s1.ops with remote := s1.ops.remote ++ ps }
          .ok { i.markBusy l.dest i.act first with s := s2, shared := [first], flagUp := true })

/-- The peer operand of a thread: bits 31:0 (R232). -/
def Iss.peerOf (i : Iss) (o : Opnd) (t : Nat) : Nat := ((i.val o 1 t).setWidth 32).toNat
/-- The offset operand of a thread: .N32 from a v register, .N64 from an s register. -/
def Iss.remoteOff (i : Iss) (o : Opnd) (t : Nat) : Nat := (i.val o 1 t).toNat

/-- Every operand of a remote operation, as R108 compares it. -/
def Iss.remoteItems (i : Iss) (l : RemoteSpec) : List (Nat × List Word64) :=
  i.threads.map (fun t => (t, [BitVec.ofNat 64 (l.peer t), BitVec.ofNat 64 (l.off t), BitVec.ofNat 64 (leNat ((l.data t).take 8)),
    BitVec.ofNat 64 (leNat ((l.data t).drop 8)), (l.arg t).b, (l.arg t).c]))

def noArg (t : Nat) : AtomArg := ⟨t, 0, 0, none⟩

def rgetSpec (x : Rmt) (i : Iss) : RemoteSpec :=
  { kind := .get, win := x.win.toNat, size := x.w.bytes, signed := x.w.signed, align := false, peer := i.peerOf x.a
    off := fun t => i.remoteOff x.b t * x.scale.factor.toNat, data := fun _ => [], arg := noArg, dest := .v x.d.num x.w.regs, perm := .load }
/-- RGET (R232). -/
def execRget (x : Rmt) (s : State) : Result :=
  runCore
    { view := x.view [.v]
      nonIdem := fun _ => true
      cmp := some fun i => i.remoteItems (rgetSpec x i)
      whole := true
      body := fun i => i.remote (rgetSpec x i) } s

def rputSpec (x : Rmt) (i : Iss) : RemoteSpec :=
  { kind := .put, win := x.win.toNat, size := x.w.bytes, signed := false, align := false, peer := i.peerOf x.a
    off := fun t => i.remoteOff x.b t * x.scale.factor.toNat, data := i.dataBytes x.d x.w.bytes, arg := noArg, dest := .none, perm := .store }
/-- RPUT (R232). -/
def execRput (x : Rmt) (s : State) : Result :=
  runCore
    { view := x.view dataSrc
      data := some x.d
      nonIdem := fun _ => true
      cmp := some fun i => i.remoteItems (rputSpec x i)
      whole := true
      body := fun i => i.remote (rputSpec x i) } s

/-- DEDUCED: log entry 22. -/
def ratomSpec (x : RAtom) (i : Iss) : RemoteSpec :=
  { kind := .atomic x.op x.wide, win := x.win.toNat, size := atomBytes x.wide, signed := false, align := true, peer := i.peerOf x.a
    off := i.remoteOff x.b, data := fun _ => [], arg := i.atomArg x.op x.wide x.d, dest := .v x.d.num (atomBytes x.wide / 4), perm := .atomic }
/-- RATOM (R232, R236). -/
def execRatom (x : RAtom) (s : State) : Result :=
  runCore
    { view := x.view
      data := some x.d
      det := fun _ => true
      nonIdem := fun _ => true
      cmp := some fun i => i.remoteItems (ratomSpec x i)
      whole := true
      body := fun i => i.remote (ratomSpec x i) } s

end Sys2Proof.Machine
end

