-- ==== Sys2Proof/Machine/RemoteEvents.lean ====
section
/-! DEFINITION. The remote queue as its passes are checked and performed
(spec/10_atomic_fence_remote_instructions.md R232 to R235; spec/20_fabric_and_island.md R368, R375), and the retry
of requests to a peer that is not reached (R234, R375). -/

namespace Sys2Proof.Machine

/-- The pass a core's queue serves. -/
def State.remoteHead (s : State) (core : Nat) : Option RemoteOp := s.ops.remote.find? (fun o => o.core = core)

def State.putRemote (s : State) (o : RemoteOp) : State :=
  s.setOps { s.ops with remote := s.ops.remote.map (fun p => if p.id = o.id then o else p) }

/-- What a pass needs of a window. -/
def RemoteKind.need : RemoteKind → WinNeed
  | .get => .read
  | .put => .write
  | .atomic _ _ => .atomic

/-- The permission whose class T mark a pass's fault carries. -/
def RemoteKind.perm : RemoteKind → Perm
  | .get => .load
  | .put => .store
  | .atomic _ _ => .atomic

/-! ## Checks (R233) -/

/-- The threads of a pass that this device's own window refuses. -/
def State.passRefused (s : State) (o : RemoteOp) : List (Nat × BitVec 8) :=
  (o.args.filter (fun a => (s.windowAddr o.win a.off o.size o.kind.need).isNone)).map (fun a => (a.thread, cREMOTE_WINDOW))

/-- The threads of a pass that its peer's answer refuses; none where the answer does not fit the pass. DEDUCED: log entry 22. -/
def RemoteOp.refusals (o : RemoteOp) (reply : PeerReply) (n : Nat) (bad : List (Nat × BitVec 8)) : Option (List (Nat × BitVec 8)) :=
  match metOf reply n with
  | .unfit => none
  | .refused c => some (o.args.map (fun a => (a.thread, c)))
  | .bytes _ =>
    if bad.all (fun p => o.args.any (fun a => a.thread = p.1) && (metOf (.fault p.2) 0 == .refused p.2)) then some bad else none

/-- A thread's refusal, if it has one. -/
def causeIn (bad : List (Nat × BitVec 8)) (t : Nat) : Option (BitVec 8) := (bad.find? (fun p => p.1 = t)).map Prod.snd

/-- The first refused thread of a pass, in the order of its threads. DEDUCED: log entry 22. -/
def RemoteOp.firstBad (o : RemoteOp) (bad : List (Nat × BitVec 8)) : Option (RemoteArg × BitVec 8) :=
  o.args.findSome? (fun a => (causeIn bad a.thread).map (fun c => (a, c)))

/-- The faults of an instruction's failing passes: each thread whose check failed, with its address (R127, R233). -/
def State.remoteFaults (s : State) (inst : Nat) : List ThrFault :=
  (s.ops.remote.filter (fun o => o.inst = inst)).flatMap (fun o =>
    o.args.filterMap (fun a =>
      (causeIn o.bad a.thread).map (fun c => ⟨a.thread, c, BitVec.ofNat 64 (if c = cENDPOINT_DOWN then o.peer else a.off), true, none⟩)))

/-- An instruction's results stop being awaited, and the flag counts down; the registers keep what the passes wrote. -/
def State.remoteDone (s : State) (o : RemoteOp) : State :=
  let s1 := (List.range 64).foldl (fun (s : State) n => s.arriveBoth o.g o.inst o.dest n 0 (fun _ => 0)) s
  (s1.flagDown o.g o.flag).afterPerform o.g

/-- Every pass of an instruction has its answer: where a check failed the instruction faults and none is performed. -/
def State.remoteChecked (s : State) (o : RemoteOp) : Option State :=
  let mine := s.ops.remote.filter (fun p => p.inst = o.inst)
  if mine.any (fun p => !p.checked) || mine.all (fun p => p.bad.isEmpty) then some s
  else
    let s1 := (s.setOps { s.ops with remote := s.ops.remote.filter (fun p => p.inst ≠ o.inst) }).remoteDone o
    match faultOf (s.remoteFaults o.inst) o.kind.perm false o.iaddr o.word with
    | some i => s1.lateFault o.g o.sid o.inst i o.region
    | none => some s1

/-- One pass is checked at its peer. -/
def State.checkPass (s : State) (o : RemoteOp) (reply : PeerReply) (refused : List (Nat × BitVec 8)) : Option State :=
  match (if o.peer = s.pkg.device.toNat then some (s.passRefused o) else o.refusals reply 0 refused) with
  | none => none
  | some bad =>
    let o1 := { o with checked := true, bad := bad, heldAt := none, retries := 0 }
    (s.putRemote o1).remoteChecked o1

/-! ## Performance (R235, R400) -/

/-- A thread's result goes to the entries that await the instruction, which stay unready until its last pass. -/
def Group.keepResult (g : Group) (inst : Nat) (d : Dest) (t : Nat) (x : Nat) : Group :=
  match d with
  | .v n r => g.writeRegs n r (BitVec.twoPow 512 t) (fun _ => x) (fun e => e.busy == some inst)
  | _ => g

/-- A write through this device's own window: the home's bytes, and the issuing core's L1 copy of the line (R255). -/
def State.ownWrite (s : State) (o : RemoteOp) (pa : Nat) (key : BitVec 10) (bs : List Byte) : State :=
  (s.setMem (s.mem.l1Store o.core o.ctx pa bs false)).homeWrite pa bs key none

/-- One thread's operation through this device's own window. -/
def State.ownThread (s : State) (o : RemoteOp) (a : RemoteArg) : State × Option (BitVec 8) :=
  match s.windowAddr o.win a.off o.size o.kind.need with
  | none => (s, some cREMOTE_WINDOW)
  | some (pa, key) =>
    let s1 := s.homeSeen o.ctx 0 pa o.size normalAttr
    if s.baseLost pa then (s, some cENDPOINT_DOWN)
    else
    match o.kind with
    | .put => if s.dieLost (homeDie pa) then (s, some cMEM_UNCORRECTABLE) else (s1.ownWrite o pa key a.data, none)
    | .get =>
      match s.homeRead pa o.size key with
      | none => (s, some cMEM_UNCORRECTABLE)
      | some bs => (s1.bothCopies o.g (fun g => g.keepResult o.inst o.dest a.thread (loadVal o.signed o.size bs)), none)
    | .atomic op wide =>
      match s.homeRead pa o.size key with
      | none => (s, some cMEM_UNCORRECTABLE)
      | some bs =>
        let old : Word64 := BitVec.ofNat 64 (leNat bs)
        let (new, fl) := atomNew op wide old a.b a.c
        let s2 := (s1.ownWrite o pa key (leBytes o.size new.toNat)).raiseFlags o.g a.thread fl
        (s2.bothCopies o.g (fun g => g.keepResult o.inst o.dest a.thread old.toNat), none)

/-- One thread's operation at another device, with the part of the peer's answer that is its own. -/
def State.peerThread (s : State) (o : RemoteOp) (a : RemoteArg) (bs : List Byte) : State :=
  match o.kind with
  | .put => s
  | .get => s.bothCopies o.g (fun g => g.keepResult o.inst o.dest a.thread (loadVal o.signed o.size bs))
  | .atomic op wide =>
    let old : Word64 := BitVec.ofNat 64 (leNat bs)
    (s.raiseFlags o.g a.thread (atomNew op wide old a.b a.c).2).bothCopies o.g (fun g => g.keepResult o.inst o.dest a.thread old.toNat)

/-- Every thread of a pass, ascending, on this device: the state and the first thread refused. -/
def State.ownPass (o : RemoteOp) : List RemoteArg → State → State × Option (RemoteArg × BitVec 8)
  | [], s => (s, none)
  | a :: rest, s =>
    let (s1, bad) := s.ownThread o a
    let (s2, more) := State.ownPass o rest s1
    (s2, match bad with
      | some c => some (a, c)
      | none => more)

/-- Bytes of the peer's answer for each thread of a pass. -/
def RemoteOp.answer (o : RemoteOp) : Nat :=
  match o.kind with
  | .put => 0
  | _ => o.size

/-- A pass is over: it leaves the queue, and the instruction's results are ready with its last pass (R119, R235). -/
def State.endPass (s : State) (o : RemoteOp) (bad : Option (RemoteArg × BitVec 8)) : State :=
  let s1 := s.setOps { s.ops with remote := s.ops.remote.filter (fun p => p.id ≠ o.id) }
  let s2 := match bad with
    | some (a, c) => s1.raiseAsync o.g c (BitVec.ofNat 64 (if c = cENDPOINT_DOWN then o.peer else a.off)) true
    | none => s1
  if s2.ops.remote.any (fun p => p.inst = o.inst) then s2 else s2.remoteDone o

/-- The pass at the head of the queue is performed. -/
def State.performPass (s : State) (o : RemoteOp) (reply : PeerReply) (refused : List (Nat × BitVec 8)) : Option State :=
  if o.peer = s.pkg.device.toNat then
    let (s1, bad) := State.ownPass o o.args s
    some (s1.endPass o bad)
  else
    (o.refusals reply (o.answer * o.args.length) refused).map (fun bad =>
      let bs : List Byte := match reply with
        | .data l => l
        | .fault _ => []
      let parts := (o.args.mapIdx (fun n a => (a, (bs.drop (o.answer * n)).take o.answer))).filter (fun p => (causeIn bad p.1.thread).isNone)
      (parts.foldl (fun (s : State) (p : RemoteArg × List Byte) => s.peerThread o p.1 p.2) s).endPass o (o.firstBad bad))

/-- REMOTE_OPERATION_PERFORM: the next check of the queue's first instruction, and when all have passed, its next pass. A
request to a peer that is not reached is held (R234). -/
def execRemoteOperationPerform (x : EvRemote) (s : State) : Result :=
  match s.remoteHead x.core with
  | none => notDue "REMOTE_OPERATION_PERFORM"
  | some h =>
    let next := (s.ops.remote.find? (fun p => p.inst = h.inst && !p.checked)).getD h
    if !s.reachable next.peer then
      dueIf "REMOTE_OPERATION_PERFORM" next.heldAt.isNone (s.putRemote { next with heldAt := some s.cycle })
    else
      let out := if !next.checked then s.checkPass next x.reply x.bad
        else if s.engineReady h.g h.mask h.inst && !s.qfenceHolds h.g 9 h.inst && h.args.all (fun a => !s.acquireHolds h.g a.thread h.inst) then
          s.performPass h x.reply x.bad
        else none
      match out with
      | some s1 => .next s1
      | none => notDue "REMOTE_OPERATION_PERFORM"

/-! ## Retry (R234, R375) -/

/-- The request is sent once more: 10 µs after the last time. -/
def State.resendDue (s : State) (heldAt : Option Nat) (retries : Nat) : Bool :=
  match heldAt with
  | some c => s.passed c (10 * (retries + 1)) && decide (10 * (retries + 1) < s.isl.retry)
  | none => false

/-- A request of the host that waits for a device that is not reached (R375). -/
def State.hostHeld? (s : State) (id : Nat) : Option HostHeld := s.isl.hostHeld.find? (fun h => h.id = id)
def State.dropHeld (s : State) (id : Nat) : State := s.setIsl { s.isl with hostHeld := s.isl.hostHeld.filter (fun h => h.id ≠ id) }

/-- REMOTE_RETRY_RESEND (R375): a held request goes out once more, by the number of its operation or its own; the host's, where its device is reached again, is answered, and
so is one that waited for an earlier one that waits no more (R390). -/
def execRemoteRetryResend (x : EvOp) (s : State) : Result :=
  match s.ops.remote.find? (fun o => o.id = x.op), s.memOp? x.op with
  | some o, _ =>
    dueIf "REMOTE_RETRY_RESEND" (!s.reachable o.peer && s.resendDue o.heldAt o.retries) (s.putRemote { o with retries := o.retries + 1 })
  | none, some o =>
    dueIf "REMOTE_RETRY_RESEND" (o.heldPieces s && s.resendDue o.heldAt o.retries) (s.putMemOp { o with retries := o.retries + 1 })
  | none, none =>
    match s.hostHeld? x.op with
    | none =>
      (match s.ops.copies.find? (fun o => o.id = x.op) with
       | some o =>
         dueIf "REMOTE_RETRY_RESEND" (((o.units[o.done]?).map (fun u => u.far s)).getD false && s.resendDue o.heldAt o.retries)
           (s.setOps { s.ops with copies := s.ops.copies.map (fun p => if p.id = o.id then { o with retries := o.retries + 1 } else p) })
       | none =>
         (match s.isl.holds.find? (fun h => h.id = x.op) with
          | some h =>
            dueIf "REMOTE_RETRY_RESEND" (!s.reachable h.dev && s.resendDue (some h.since) h.retries)
              (s.setIsl { s.isl with holds := s.isl.holds.map (fun e => if e.id = h.id then { e with retries := e.retries + 1 } else e) })
          | none => notDue "REMOTE_RETRY_RESEND"))
    | some h =>
      let put (f : HostHeld → HostHeld) : State := s.setIsl { s.isl with hostHeld := s.isl.hostHeld.map (fun e => if e.id = h.id then f e else e) }
      let run : Result := match (s.dropHeld h.id).hostRun h.r h.physOk h.ps with
        | some s1 => .next s1
        | none => notDue "REMOTE_RETRY_RESEND"
      match h.heldAt with
      | none =>
        if (s.isl.hostHeld.takeWhile (fun e => e.id != h.id)).any (fun e => e.first h.r h.mgmt h.ps) then notDue "REMOTE_RETRY_RESEND"
        else if s.hostFar h.ps then .next (put (fun e => { e with heldAt := some s.cycle }))
        else run
      | some c =>
        if !s.passed c (10 * (h.retries + 1)) then notDue "REMOTE_RETRY_RESEND"
        else if !s.hostFar h.ps then run
        else dueIf "REMOTE_RETRY_RESEND" (decide (10 * (h.retries + 1) < s.isl.retry)) (put (fun e => { e with retries := e.retries + 1 }))

/-- RETRY_PERIOD_EXPIRY (R234): ENDPOINT_DOWN is answered. -/
def execRetryPeriodExpiry (x : EvOp) (s : State) : Result :=
  let settle (s : Option State) : Result :=
    match s with
    | some s1 => .next s1
    | none => notDue "RETRY_PERIOD_EXPIRY"
  match s.ops.remote.find? (fun o => o.id = x.op), s.memOp? x.op with
  | some o, _ =>
    if s.reachable o.peer || !s.retryOver o.heldAt then notDue "RETRY_PERIOD_EXPIRY"
    else if o.checked then .next (s.endPass o (o.args.head?.map (fun a => (a, cENDPOINT_DOWN))))
    else
      let o1 := { o with checked := true, bad := o.args.map (fun a => (a.thread, cENDPOINT_DOWN)), heldAt := none, retries := 0 }
      settle ((s.putRemote o1).remoteChecked o1)
  | none, some o => if !o.heldPieces s || !s.retryOver o.heldAt then notDue "RETRY_PERIOD_EXPIRY" else settle (s.memDown o)
  | none, none =>
    match s.hostHeld? x.op with
    | none =>
      (match (s.ops.copies.find? (fun o => o.id = x.op)).bind (fun o => (o.units[o.done]?).map (fun u => (o, u))) with
       | some (o, u) =>
         dueIf "RETRY_PERIOD_EXPIRY" (u.far s && s.retryOver o.heldAt) (s.stopCopy o cENDPOINT_DOWN ((u.away s).getD 0))
       | none => notDue "RETRY_PERIOD_EXPIRY")
    | some h =>
      dueIf "RETRY_PERIOD_EXPIRY" (s.hostFar h.ps && s.retryOver h.heldAt)
        ((s.dropHeld h.id).answer (statusOf cENDPOINT_DOWN) [])

end Sys2Proof.Machine
end

