-- ==== Sys2Proof/Machine/Return.lean ====
section
/-! DEFINITION. RTE (spec/05_registers_private_memory_traps.md R129, R132; spec/04_groups_and_members.md R110), with the restart of
a stopped drain (spec/18_matrix_engine_and_drain.md R348), and the words the opcode map leaves unassigned (R34). -/

namespace Sys2Proof.Machine

/-- The split holds every non-exited thread of the handler (R129). -/
def Group.holdsHandler (g : Group) (p : Split) : Bool :=
  let others := (g.handler.map Handler.others).getD []
  let live (m : Mask) : Bool := (m &&& ~~~g.exitedMask) != 0#512
  p.defer.all (fun d => !live d.mask)
    && g.splits.all (fun q => q.sid = p.sid || others.contains q.sid || (!live q.mask && q.defer.all (fun d => !live d.mask)))

/-- The a register image the drain-restart registers hold (R349). -/
def DrainRegs.areg (d : DrainRegs) : AReg :=
  { ptr := d.aptr, base := d.abase, limit := d.alim, rd := bitAt d.aperm 0, wr := bitAt d.aperm 1, atm := bitAt d.aperm 2, pv := bitAt d.aperm 3 }

/-- A stopped drain goes on as its registers now say, or is abandoned (R348). DEDUCED: log entry 29. -/
def State.resumeDrain (s : State) (g : Group) : State :=
  let d := g.dr
  match s.mtx.ops.find? (fun o => o.g = g.key && o.stopped) with
  | none => s
  | some o =>
    if bitAt d.pos 61 then s.setMtx (s.mtx.abandon g.key)
    else
      let octet := field d.pos 5 6
      let m := s.mtx
      let again (p : MatOp) (r : DrainRegs) : MatOp :=
        { p with stopped := false, areg2 := some (octet, r.areg), fmt0 := r.fmt0, fmt1 := r.fmt1
                 reqs := p.reqs.map (fun q => if q.octet = octet then { q with rows := r.rows.setWidth 8 } else q) }
      let ops := m.ops.map (fun p =>
        if p.id = o.id then again p d
        else if some p.id = o.mate then again p (((s.group? p.g).map Group.dr).getD d)
        else p)
      s.setMtx { m with ops := ops, drains := ⟨o.id, octet, field d.pos 11 7⟩ :: m.drains.filter (fun e => e.op ≠ o.id) }

/-- The survivor of a check pair goes on alone (R110). -/
def State.degrade (s : State) (g : Group) : State :=
  (s.modGroup g.key (fun h => { h with pairchk := false, chk := false })).modTeam g.key.team (fun t =>
    { t with pair := false, pairchk := false, degraded := true, core := g.core })

/-- What RTE does to the group, and where its split goes on (R129, R132, R348). -/
def State.rte (s : State) (k : GroupKey) (sid : Nat) (target : Option Word64) : State :=
  match s.group? k with
  | none => s
  | some g =>
    let code := (g.handler.map Handler.code).getD 0
    let check := ((s.team? k.team).map Team.pairchk).getD false
    let degrade := ((s.launch? k.team.launch).map (fun l => l.lrec.degrade)).getD false
    if code = cPAIR_LOST && !(check && degrade) && !((s.team? k.team).map Team.degraded).getD false then
      (s.exitThreads k (~~~0#512)).returnNowhere k sid
    else
      let s1 := if code = cPAIR_LOST then s.degrade g else s
      let s2 := if code = cDRAIN_FAULT && bitAt g.dr.pos 63 then s1.resumeDrain g else s1
      match target with
      | some t => s2.returnFrom k sid t
      | none => if bitAt g.trap.cause 9 then s2.returnNowhere k sid else s2.returnFrom k sid g.trap.entry

/-- The handler is left, and its clause has ended (R129, R208). -/
def Iss.leaves (i : Iss) (target : Option Word64) : Iss :=
  { i with flow := .own (fun st => (st.modGroup i.k (fun g => g.yields i.p0.header)).rte i.k i.sid target) }

/-- RTE (R71, R129): outside a handler the encoding is illegal, whatever the predicate (R33). In a handler it has no effect with no
active thread. DESIGN CHOICE: log entry 42. -/
def execRte (x : Rte) (s : State) : Result :=
  runCore
    { view := x.view
      body := fun i =>
        if !i.g0.priv then i.illegal
        else if !i.any then .ok i
        else if !i.g0.holdsHandler i.p0 then i.illegal
        else
          match x.target.map i.uni with
          | some t =>
            if aligned64 t then .ok (i.leaves (some t)) else i.fault cALIGN t i.splitLive
          | none => .ok (i.leaves none) } s

/-- UNASSIGNED_OPCODE (R33, R34): the issue of a word whose opcode the map does not assign raises ILLEGAL_INSTRUCTION. -/
def execUnassignedOpcode (x : EvWord) (s : State) : Result :=
  match s.issuer with
  | none => .fault .noIssuer
  | some (_, p) => if p.word = x.w then decodeFault cILLEGAL_INSTRUCTION 0 s else notDue "UNASSIGNED_OPCODE"

end Sys2Proof.Machine
end

