-- ==== Sys2Proof/Machine/Uniform.lean ====
section
/-! DEFINITION. The uniform instructions (spec/02_core_instructions.md R67): one value for the split, when some thread
is active. -/

namespace Sys2Proof.Machine

/-- A uniform result into an s register; nothing where no thread is active. -/
def Iss.uniWrite (i : Iss) (d : Opnd) (v : Word64) : Act := .ok (if i.any then i.writeS d v else i)

/-- Two uniform sources. -/
def uniBin (x : UBin) (e : Word64 → Word64 → Word64) : Meaning :=
  { view := x.view, lit := x.b.isLit, body := fun i => i.uniWrite x.d (e (i.uni x.a) (i.uniSrc x.b)) }

/-- The shift amount s of R67. -/
def uniShift (b : Word64) : Nat := b.toNat % 256

/-- A comparison of 64-bit values. -/
def cond64 (c : Sys2Proof.Cond) (nat : Bool) (a b : Word64) : Bool := condInt c (extInt (!nat) 64 a) (extInt (!nat) 64 b)

def execSadd (x : UBin) (s : State) : Result := runCore (uniBin x (fun a b => a + b)) s
def execSsub (x : UBin) (s : State) : Result := runCore (uniBin x (fun a b => a - b)) s
def execSmul (x : UBin) (s : State) : Result := runCore (uniBin x (fun a b => a * b)) s
def execSand (x : UBin) (s : State) : Result := runCore (uniBin x (fun a b => a &&& b)) s
def execSor (x : UBin) (s : State) : Result := runCore (uniBin x (fun a b => a ||| b)) s
def execSxor (x : UBin) (s : State) : Result := runCore (uniBin x (fun a b => a ^^^ b)) s
def execSshl (x : UBin) (s : State) : Result := runCore (uniBin x (fun a b => a <<< uniShift b)) s
def execSshr (x : UShr) (s : State) : Result :=
  runCore { view := x.view, lit := x.b.isLit, body := fun i =>
    let a := i.uni x.a
    let n := uniShift (i.uniSrc x.b)
    i.uniWrite x.d (if x.arith then a.sshiftRight n else a >>> n) } s
/-- SCMP (R67): an s destination receives 1 or 0, a p destination the result in every thread of the split
that has not exited. -/
def execScmp (x : UCmp) (s : State) : Result :=
  runCore { view := x.view, lit := x.b.isLit, body := fun i =>
    let r := cond64 x.cc x.nat (i.uni x.a) (i.uniSrc x.b)
    match x.d with
    | .p _ => .ok (if i.any then i.writeP x.d i.splitLive (fun _ => r) else i)
    | _ => i.uniWrite x.d (if r then 1 else 0) } s
def execSmov (x : UMov) (s : State) : Result :=
  runCore { view := x.view, body := fun i => i.uniWrite x.d (i.uni x.a) } s
def execSmovi (x : UMovi) (s : State) : Result :=
  runCore { view := x.view, lit := x.b.isLit, body := fun i => i.uniWrite x.d (i.uniSrc x.b) } s
/-- RDLANE (R67); an awaited result of the lane read stalls like any other read (R119). -/
def execRdlane (x : UBin) (s : State) : Result :=
  runCore { view := x.rdlaneView, lit := x.b.isLit, body := fun i =>
    let j := (i.uniSrc x.b).toNat % 2 ^ 16
    let here := j < i.g0.f && i.splitLive.getLsbD j
    match if i.any && here then (i.g0.vEnt? x.a.num (j / 8)).bind VEnt.busy else none with
    | some op => .stall (i.s0.resultCode op) (some op)
    | none => i.uniWrite x.d (if here then (i.g0.vWord x.a.num j).setWidth 64 else 0) } s

end Sys2Proof.Machine
end

