-- ==== Sys2Proof/Machine/Dispatch.lean ====
section
/-! DEFINITION. One arm for each constructor of Instr. -/

namespace Sys2Proof.Machine

/-- The meaning of an instruction or event in a state. -/
def exec (i : Instr) (s : State) : Host.Outcome State Fault Refusal :=
  match i with
  | .nop x => Sys2Proof.Machine.execNop x s
  | .iadd x => Sys2Proof.Machine.execIadd x s
  | .isub x => Sys2Proof.Machine.execIsub x s
  | .imul x => Sys2Proof.Machine.execImul x s
  | .imulh x => Sys2Proof.Machine.execImulh x s
  | .imad x => Sys2Proof.Machine.execImad x s
  | .imin x => Sys2Proof.Machine.execImin x s
  | .imax x => Sys2Proof.Machine.execImax x s
  | .iabs x => Sys2Proof.Machine.execIabs x s
  | .ineg x => Sys2Proof.Machine.execIneg x s
  | .and x => Sys2Proof.Machine.execAnd x s
  | .or x => Sys2Proof.Machine.execOr x s
  | .xor x => Sys2Proof.Machine.execXor x s
  | .not x => Sys2Proof.Machine.execNot x s
  | .shl x => Sys2Proof.Machine.execShl x s
  | .shr x => Sys2Proof.Machine.execShr x s
  | .sar x => Sys2Proof.Machine.execSar x s
  | .rot x => Sys2Proof.Machine.execRot x s
  | .popc x => Sys2Proof.Machine.execPopc x s
  | .clz x => Sys2Proof.Machine.execClz x s
  | .brev x => Sys2Proof.Machine.execBrev x s
  | .bfx x => Sys2Proof.Machine.execBfx x s
  | .bfi x => Sys2Proof.Machine.execBfi x s
  | .icmp x => Sys2Proof.Machine.execIcmp x s
  | .sel x => Sys2Proof.Machine.execSel x s
  | .mov x => Sys2Proof.Machine.execMov x s
  | .movi x => Sys2Proof.Machine.execMovi x s
  | .fadd x => Sys2Proof.Machine.execFadd x s
  | .fsub x => Sys2Proof.Machine.execFsub x s
  | .fmul x => Sys2Proof.Machine.execFmul x s
  | .ffma x => Sys2Proof.Machine.execFfma x s
  | .fmin x => Sys2Proof.Machine.execFmin x s
  | .fmax x => Sys2Proof.Machine.execFmax x s
  | .fabs x => Sys2Proof.Machine.execFabs x s
  | .fneg x => Sys2Proof.Machine.execFneg x s
  | .frcp x => Sys2Proof.Machine.execFrcp x s
  | .frsq x => Sys2Proof.Machine.execFrsq x s
  | .fsqrt x => Sys2Proof.Machine.execFsqrt x s
  | .fex2 x => Sys2Proof.Machine.execFex2 x s
  | .flg2 x => Sys2Proof.Machine.execFlg2 x s
  | .fsin x => Sys2Proof.Machine.execFsin x s
  | .fcos x => Sys2Proof.Machine.execFcos x s
  | .fcmp x => Sys2Proof.Machine.execFcmp x s
  | .fclass x => Sys2Proof.Machine.execFclass x s
  | .cvt x => Sys2Proof.Machine.execCvt x s
  | .pack x => Sys2Proof.Machine.execPack x s
  | .unpack x => Sys2Proof.Machine.execUnpack x s
  | .shfl x => Sys2Proof.Machine.execShfl x s
  | .vote x => Sys2Proof.Machine.execVote x s
  | .lred x => Sys2Proof.Machine.execLred x s
  | .scan x => Sys2Proof.Machine.execScan x s
  | .sadd x => Sys2Proof.Machine.execSadd x s
  | .ssub x => Sys2Proof.Machine.execSsub x s
  | .smul x => Sys2Proof.Machine.execSmul x s
  | .sand x => Sys2Proof.Machine.execSand x s
  | .sor x => Sys2Proof.Machine.execSor x s
  | .sxor x => Sys2Proof.Machine.execSxor x s
  | .sshl x => Sys2Proof.Machine.execSshl x s
  | .sshr x => Sys2Proof.Machine.execSshr x s
  | .scmp x => Sys2Proof.Machine.execScmp x s
  | .smov x => Sys2Proof.Machine.execSmov x s
  | .smovi x => Sys2Proof.Machine.execSmovi x s
  | .rdlane x => Sys2Proof.Machine.execRdlane x s
  | .bra x => Sys2Proof.Machine.execBra x s
  | .brc x => Sys2Proof.Machine.execBrc x s
  | .brx x => Sys2Proof.Machine.execBrx x s
  | .call x => Sys2Proof.Machine.execCall x s
  | .ret x => Sys2Proof.Machine.execRet x s
  | .exit x => Sys2Proof.Machine.execExit x s
  | .yield x => Sys2Proof.Machine.execYield x s
  | .pause x => Sys2Proof.Machine.execPause x s
  | .trap x => Sys2Proof.Machine.execTrap x s
  | .rte x => Sys2Proof.Machine.execRte x s
  | .rdsr x => Sys2Proof.Machine.execRdsr x s
  | .wrsr x => Sys2Proof.Machine.execWrsr x s
  | .bkpt x => Sys2Proof.Machine.execBkpt x s
  | .aset x => Sys2Proof.Machine.execAset x s
  | .adv x => Sys2Proof.Machine.execAdv x s
  | .ard x => Sys2Proof.Machine.execArd x s
  | .anarrow x => Sys2Proof.Machine.execAnarrow x s
  | .ld x => Sys2Proof.Machine.execLd x s
  | .st x => Sys2Proof.Machine.execSt x s
  | .ldu x => Sys2Proof.Machine.execLdu x s
  | .pref x => Sys2Proof.Machine.execPref x s
  | .ldAcq x => Sys2Proof.Machine.execLdAcq x s
  | .stRel x => Sys2Proof.Machine.execStRel x s
  | .mbcast x => Sys2Proof.Machine.execMbcast x s
  | .mred x => Sys2Proof.Machine.execMred x s
  | .mvote x => Sys2Proof.Machine.execMvote x s
  | .ldw x => Sys2Proof.Machine.execLdw x s
  | .movw x => Sys2Proof.Machine.execMovw x s
  | .regrp x => Sys2Proof.Machine.execRegrp x s
  | .regret x => Sys2Proof.Machine.execRegret x s
  | .ldl x => Sys2Proof.Machine.execLdl x s
  | .stl x => Sys2Proof.Machine.execStl x s
  | .atoml x => Sys2Proof.Machine.execAtoml x s
  | .cpy x => Sys2Proof.Machine.execCpy x s
  | .cpyh x => Sys2Proof.Machine.execCpyh x s
  | .cpyout x => Sys2Proof.Machine.execCpyout x s
  | .cpywp x => Sys2Proof.Machine.execCpywp x s
  | .cpywait x => Sys2Proof.Machine.execCpywait x s
  | .barArr x => Sys2Proof.Machine.execBarArr x s
  | .barWait x => Sys2Proof.Machine.execBarWait x s
  | .barSync x => Sys2Proof.Machine.execBarSync x s
  | .barDefer x => Sys2Proof.Machine.execBarDefer x s
  | .barLast x => Sys2Proof.Machine.execBarLast x s
  | .launch x => Sys2Proof.Machine.execLaunch x s
  | .tdone x => Sys2Proof.Machine.execTdone x s
  | .atom x => Sys2Proof.Machine.execAtom x s
  | .red x => Sys2Proof.Machine.execRed x s
  | .atomr x => Sys2Proof.Machine.execAtomr x s
  | .fence x => Sys2Proof.Machine.execFence x s
  | .ldra x => Sys2Proof.Machine.execLdra x s
  | .qfence x => Sys2Proof.Machine.execQfence x s
  | .waitc x => Sys2Proof.Machine.execWaitc x s
  | .rget x => Sys2Proof.Machine.execRget x s
  | .rput x => Sys2Proof.Machine.execRput x s
  | .ratom x => Sys2Proof.Machine.execRatom x s
  | .laclr x => Sys2Proof.Machine.execLaclr x s
  | .laadd x => Sys2Proof.Machine.execLaadd x s
  | .lamad x => Sys2Proof.Machine.execLamad x s
  | .lamrg x => Sys2Proof.Machine.execLamrg x s
  | .larnd x => Sys2Proof.Machine.execLarnd x s
  | .lald x => Sys2Proof.Machine.execLald x s
  | .lasv x => Sys2Proof.Machine.execLasv x s
  | .lafl x => Sys2Proof.Machine.execLafl x s
  | .redla x => Sys2Proof.Machine.execRedla x s
  | .collSum x => Sys2Proof.Machine.execCollSum x s
  | .collMin x => Sys2Proof.Machine.execCollMin x s
  | .collMax x => Sys2Proof.Machine.execCollMax x s
  | .collHist x => Sys2Proof.Machine.execCollHist x s
  | .collRank x => Sys2Proof.Machine.execCollRank x s
  | .collSelect x => Sys2Proof.Machine.execCollSelect x s
  | .collStat x => Sys2Proof.Machine.execCollStat x s
  | .collBcast x => Sys2Proof.Machine.execCollBcast x s
  | .mma x => Sys2Proof.Machine.execMma x s
  | .mmad x => Sys2Proof.Machine.execMmad x s
  | .mdrain x => Sys2Proof.Machine.execMdrain x s
  | .mzero x => Sys2Proof.Machine.execMzero x s
  | .mkld x => Sys2Proof.Machine.execMkld x s
  | .mkst x => Sys2Proof.Machine.execMkst x s
  | .dpld x => Sys2Proof.Machine.execDpld x s
  | .dpinv x => Sys2Proof.Machine.execDpinv x s
  | .mstat x => Sys2Proof.Machine.execMstat x s
  | .dmov x => Sys2Proof.Machine.execDmov x s
  | .dmovI x => Sys2Proof.Machine.execDmovI x s
  | .drow x => Sys2Proof.Machine.execDrow x s
  | .dcol x => Sys2Proof.Machine.execDcol x s
  | .dlds x => Sys2Proof.Machine.execDlds x s
  | .dadd x => Sys2Proof.Machine.execDadd x s
  | .dmul x => Sys2Proof.Machine.execDmul x s
  | .dfma x => Sys2Proof.Machine.execDfma x s
  | .dmin x => Sys2Proof.Machine.execDmin x s
  | .dmax x => Sys2Proof.Machine.execDmax x s
  | .dclamp x => Sys2Proof.Machine.execDclamp x s
  | .dsel x => Sys2Proof.Machine.execDsel x s
  | .dcmp x => Sys2Proof.Machine.execDcmp x s
  | .dscale x => Sys2Proof.Machine.execDscale x s
  | .dbias x => Sys2Proof.Machine.execDbias x s
  | .dcvt x => Sys2Proof.Machine.execDcvt x s
  | .dexp2 x => Sys2Proof.Machine.execDexp2 x s
  | .drcp x => Sys2Proof.Machine.execDrcp x s
  | .dst x => Sys2Proof.Machine.execDst x s
  | .dstv x => Sys2Proof.Machine.execDstv x s
  | .dla x => Sys2Proof.Machine.execDla x s
  | .clauseStart x => Sys2Proof.Machine.execClauseStart x s
  | .pauseExpiry x => Sys2Proof.Machine.execPauseExpiry x s
  | .variableLatencyResultArrival x => Sys2Proof.Machine.execVariableLatencyResultArrival x s
  | .waitSatisfied x => Sys2Proof.Machine.execWaitSatisfied x s
  | .regpoolEviction x => Sys2Proof.Machine.execRegpoolEviction x s
  | .takeClassATrap x => Sys2Proof.Machine.execTakeClassATrap x s
  | .groupEnd x => Sys2Proof.Machine.execGroupEnd x s
  | .corralSort x => Sys2Proof.Machine.execCorralSort x s
  | .coreUncorrectableError x => Sys2Proof.Machine.execCoreUncorrectableError x s
  | .watchdogExpiry x => Sys2Proof.Machine.execWatchdogExpiry x s
  | .distributorTakeLaunch x => Sys2Proof.Machine.execDistributorTakeLaunch x s
  | .teamDispatch x => Sys2Proof.Machine.execTeamDispatch x s
  | .teamBitmapSet x => Sys2Proof.Machine.execTeamBitmapSet x s
  | .launchComplete x => Sys2Proof.Machine.execLaunchComplete x s
  | .completionRingPost x => Sys2Proof.Machine.execCompletionRingPost x s
  | .timeSliceExpiry x => Sys2Proof.Machine.execTimeSliceExpiry x s
  | .priorityPreemption x => Sys2Proof.Machine.execPriorityPreemption x s
  | .groupEviction x => Sys2Proof.Machine.execGroupEviction x s
  | .groupResume x => Sys2Proof.Machine.execGroupResume x s
  | .homeAccess x => Sys2Proof.Machine.execHomeAccess x s
  | .atomicUnitOperation x => Sys2Proof.Machine.execAtomicUnitOperation x s
  | .ldraFlush x => Sys2Proof.Machine.execLdraFlush x s
  | .monitorRegister x => Sys2Proof.Machine.execMonitorRegister x s
  | .monitorRecheck x => Sys2Proof.Machine.execMonitorRecheck x s
  | .tableWalk x => Sys2Proof.Machine.execTableWalk x s
  | .packetResend x => Sys2Proof.Machine.execPacketResend x s
  | .copyChannelOperation x => Sys2Proof.Machine.execCopyChannelOperation x s
  | .deferredArrivalPerform x => Sys2Proof.Machine.execDeferredArrivalPerform x s
  | .matrixPromotion x => Sys2Proof.Machine.execMatrixPromotion x s
  | .matrixGrant x => Sys2Proof.Machine.execMatrixGrant x s
  | .matrixQueueOperationPerform x => Sys2Proof.Machine.execMatrixQueueOperationPerform x s
  | .dpldInstall x => Sys2Proof.Machine.execDpldInstall x s
  | .dpinvPerform x => Sys2Proof.Machine.execDpinvPerform x s
  | .drainElement x => Sys2Proof.Machine.execDrainElement x s
  | .remoteOperationPerform x => Sys2Proof.Machine.execRemoteOperationPerform x s
  | .windowAccess x => Sys2Proof.Machine.execWindowAccess x s
  | .remoteFrameAccess x => Sys2Proof.Machine.execRemoteFrameAccess x s
  | .remoteRetryResend x => Sys2Proof.Machine.execRemoteRetryResend x s
  | .retryPeriodExpiry x => Sys2Proof.Machine.execRetryPeriodExpiry x s
  | .collContribution x => Sys2Proof.Machine.execCollContribution x s
  | .collPartialReceive x => Sys2Proof.Machine.execCollPartialReceive x s
  | .collResultDelivery x => Sys2Proof.Machine.execCollResultDelivery x s
  | .collInstanceTimeout x => Sys2Proof.Machine.execCollInstanceTimeout x s
  | .flitReceive x => Sys2Proof.Machine.execFlitReceive x s
  | .nakReceive x => Sys2Proof.Machine.execNakReceive x s
  | .portDown x => Sys2Proof.Machine.execPortDown x s
  | .portUp x => Sys2Proof.Machine.execPortUp x s
  | .lendingPeriod x => Sys2Proof.Machine.execLendingPeriod x s
  | .lendingFlitReceive x => Sys2Proof.Machine.execLendingFlitReceive x s
  | .multicastDelivery x => Sys2Proof.Machine.execMulticastDelivery x s
  | .keyChangeMarker x => Sys2Proof.Machine.execKeyChangeMarker x s
  | .markerReceive x => Sys2Proof.Machine.execMarkerReceive x s
  | .rekeyThreshold x => Sys2Proof.Machine.execRekeyThreshold x s
  | .rekeyStallTimeout x => Sys2Proof.Machine.execRekeyStallTimeout x s
  | .islandPowerGood x => Sys2Proof.Machine.execIslandPowerGood x s
  | .stateAnnouncementReceive x => Sys2Proof.Machine.execStateAnnouncementReceive x s
  | .peerUnreachableTimeout x => Sys2Proof.Machine.execPeerUnreachableTimeout x s
  | .managementRequest x => Sys2Proof.Machine.execManagementRequest x s
  | .dieBoot x => Sys2Proof.Machine.execDieBoot x s
  | .dieFaultReport x => Sys2Proof.Machine.execDieFaultReport x s
  | .heartbeatMiss x => Sys2Proof.Machine.execHeartbeatMiss x s
  | .thermalThrottle x => Sys2Proof.Machine.execThermalThrottle x s
  | .thermalShutdown x => Sys2Proof.Machine.execThermalShutdown x s
  | .thermalReturn x => Sys2Proof.Machine.execThermalReturn x s
  | .debugHalt x => Sys2Proof.Machine.execDebugHalt x s
  | .featreq1Write x => Sys2Proof.Machine.execFeatreq1Write x s
  | .qtailWrite x => Sys2Proof.Machine.execQtailWrite x s
  | .crheadWrite x => Sys2Proof.Machine.execCrheadWrite x s
  | .retryWrite x => Sys2Proof.Machine.execRetryWrite x s
  | .curbbudgetWrite x => Sys2Proof.Machine.execCurbbudgetWrite x s
  | .registerWrite x => Sys2Proof.Machine.execRegisterWrite x s
  | .hostRead x => Sys2Proof.Machine.execHostRead x s
  | .hostWrite x => Sys2Proof.Machine.execHostWrite x s
  | .hostAtomic x => Sys2Proof.Machine.execHostAtomic x s
  | .hostRegisterAccess x => Sys2Proof.Machine.execHostRegisterAccess x s
  | .unassignedOpcode x => Sys2Proof.Machine.execUnassignedOpcode x s
  | .flitTransmission x => Sys2Proof.Machine.execFlitTransmission x s
  | .linkKeyLoad x => Sys2Proof.Machine.execLinkKeyLoad x s
  | .storeAcknowledgement x => Sys2Proof.Machine.execStoreAcknowledgement x s
  | .dnop => Sys2Proof.Machine.execDnop s
  | .dend => Sys2Proof.Machine.execDend s
  | .issueSlotSelection => Sys2Proof.Machine.execIssueSlotSelection s
  | .curbWindowStart => Sys2Proof.Machine.execCurbWindowStart s
  | .computeJoin => Sys2Proof.Machine.execComputeJoin s
  | .computeLeave => Sys2Proof.Machine.execComputeLeave s
  | .islandResetRequest => Sys2Proof.Machine.execIslandResetRequest s
  | .islandPowerLoss => Sys2Proof.Machine.execIslandPowerLoss s
  | .bootWindowExpiry => Sys2Proof.Machine.execBootWindowExpiry s
  | .ctxStart => Sys2Proof.Machine.execCtxStart s
  | .ctxEnd => Sys2Proof.Machine.execCtxEnd s
  | .resUpdate => Sys2Proof.Machine.execResUpdate s
  | .tlbInv => Sys2Proof.Machine.execTlbInv s
  | .keyLoad => Sys2Proof.Machine.execKeyLoad s
  | .keyClear => Sys2Proof.Machine.execKeyClear s
  | .attest => Sys2Proof.Machine.execAttest s
  | .dbgAttach => Sys2Proof.Machine.execDbgAttach s
  | .dbgDetach => Sys2Proof.Machine.execDbgDetach s
  | .dbgHalt => Sys2Proof.Machine.execDbgHalt s
  | .dbgResume => Sys2Proof.Machine.execDbgResume s
  | .dbgLocate => Sys2Proof.Machine.execDbgLocate s
  | .badCommand => Sys2Proof.Machine.execBadCommand s

end Sys2Proof.Machine
end

