-- ==== Sys2Proof/Machine/Step.lean ====
section
/-! DEFINITION. One step (log entry 2): the drain element in progress goes first, then the agenda's next
event, then the next split selected to issue, then one of the moments that are due by themselves. -/

namespace Sys2Proof.Machine

/-- The instruction of a split that was selected to issue; a split that no longer issues, or that another's handler has stopped
(R128), is passed over. -/
def State.stepSplit (s : State) : Host.Outcome State Fault Refusal :=
  match s.issuer with
  | none => .next s.clearCur
  | some (g, p) =>
    if p.issuing && !g.stopped p.sid then
      match p.instr with
      | .ok i => exec i s
      | .error e => decodeFault e.cause e.taddr s
    else .next s.clearCur

/-- A moment of the machine's own is due: its event has an effect here. -/
def State.due (s : State) (i : Instr) : Bool :=
  match exec i s with
  | .next _ => true
  | _ => false

/-- One of the moments that are due, those the cycle count brings first; when none is, a cycle passes. DESIGN CHOICE: log entry 2. -/
def State.stepOwn (s : State) : Host.Outcome State Fault Refusal :=
  match s.timed.find? s.due with
  | some i => exec i s
  | none =>
    let l := s.candidates.filter s.due
    exec (s.pick l) s.afterPick

/-- One step of the machine. DESIGN CHOICE: log entry 2. -/
def step (s : State) : Host.Outcome State Fault Refusal :=
  match s.mtx.run with
  | some r =>
    match decodeMicro (s.mtx.runWord r) with
    | some i => exec i s
    | none => .fault .noElement
  | none =>
    match s.sched.schedule with
    | i :: rest => if i.isEvent then exec i (s.setSched { s.sched with schedule := rest }) else .fault .notAnEvent
    | [] =>
      match s.sched.issue with
      | k :: rest => (s.setSched { s.sched with issue := rest, cur := some k }).stepSplit
      | [] => s.stepOwn

/-- An instruction placed where the next step fetches it. DEDUCED: log entry 1. -/
def State.withFetchWord (s : State) (nbits w : Nat) : State :=
  if nbits ≤ 32 then s.placeMicro (BitVec.ofNat 32 w) else s.placeSlot (BitVec.ofNat 64 w)

end Sys2Proof.Machine
end

