-- ==== Sys2Proof/Safety.lean ====
section
/-! DEFINITION. What counts as a sound state, and the terms in which statements speak of an issue: when a split
issues unhindered, where it stands afterwards, and what its registers read. -/

namespace Sys2Proof.Machine

/-- Memory and every scratchpad, those of evicted teams too, keep their canonical form. -/
structure State.Inv (s : State) : Prop where
  mem : s.mem.wf = true
  spads : ∀ t ∈ s.teams, cellsWf t.spad = true ∧ cellsWf t.spad2 = true
  saved : ∀ t ∈ s.savedTeams, cellsWf t.t.spad = true ∧ cellsWf t.t.spad2 = true

/-! ## An issue that nothing holds back -/

/-- A split of a group, in its primary copy, is selected to issue, and no shadow copy runs compared with it (R106). -/
structure Issues (s : State) (g : Group) (p : Split) : Prop where
  selected : s.issuer = some (g, p)
  primary : g.key.shadow = false
  alone : s.shadowOf g p.sid = none

/-- The issue of an instruction as it begins: what it reads, and its active threads (R22). -/
def issueOf (s : State) (g : Group) (p : Split) (w : View) : Iss := Iss.start s g p w.c []

/-- No operand that is read awaits a result (R22, R119), no pass of the group waits for request entries (R194), and the completion
flag has room (R18, R25); with a thread active, no source is an expired latch entry (R118) and none an invalidated w register
(R101). -/
structure Clear (x : Iss) (w : View) (data : Option Opnd := none) : Prop where
  awaited : x.stalledOn w = none
  entries : x.s0.passWaits { x.k with shadow := false } = false
  room : ∀ n, x.flag? = some n → x.g0.flag n < 63
  latch : x.any = true → x.expired w data = none
  shared : x.any = true → x.staleW w data = none

/-- No instruction of the split's region still has its class T checks to pass (R125). -/
def Checked (x : Iss) : Prop := x.s0.unchecked x.k x.sid x.p0.region = false

/-! ## Where the split stands afterwards -/

/-- The split after an instruction that holds a value or none: its view of the operand latch (R23). -/
def holding (x : Iss) (w : View) : Split := x.p0.pushLatch (x.held w)

/-- The group's counters after an issue (R93, R208, R213). -/
def counted (x : Iss) (h : Group) : Group := { h with lastIssue := x.s0.cycle, lastSplit := x.sid, readyFor := 0, wd := 0 }

/-- The next slot of the clause, the literal's slot passed over; after the last, the clause that follows (R19, R28), with the
header's YIELD as a hint (R208). -/
def goesOn (s : State) (h : Group) (q : Split) (lit : Bool) : State :=
  let slot := q.slot + (if lit then 2 else 1)
  (if q.count < slot then (s.putGroup ((h.yields q.header).putSplit { q with pc := q.pc + 64, slot := 1 })).reachBoundary h.key q.sid
   else s.putGroup (h.putSplit { q with slot := slot })).clearCur

/-- The splits of the group after an instruction that sends threads elsewhere (R69, R91, R92, R208). -/
def goesTo (s : State) (h : Group) (q : Split) (parts : List Part) : State :=
  ((s.putGroup ((h.yields q.header).putSplit q)).divideTo h.key q.sid parts).clearCur

/-- The split blocks after an instruction that has issued (R97). -/
def blocksOn (s : State) (h : Group) (q : Split) (b : Wait) : State := (s.putGroup (h.putSplit { q with st := .blocked b })).clearCur

/-! ## Registers read -/

/-- The v registers whose value an instruction reads for the last time (R24). -/
def lastNames (w : View) : List Nat :=
  w.sources.flatMap (fun e =>
    if (if e.1 = 1 then w.c.lrA else if e.1 = 2 then w.c.lrB else w.c.lrC) then
      (match e.2.1 with
       | .v i => namesFrom i.toNat e.2.2
       | _ => [])
    else [])

/-- Entries for a destination's octets with an active thread are there or can be had (R111, R112, R116). -/
def RoomFor (x : Iss) (w : View) (d : Opnd) (regs : Nat) : Prop :=
  (x.s0.mapVs (x.lastReads w).g (namesFrom d.num regs) x.octs).isSome = true

/-- Entries for a member-shared destination are there or can be had (R115). -/
def RoomForShared (x : Iss) (w : View) (d : Opnd) (regs : Nat) : Prop :=
  x.any = true → (x.s0.mapWs (x.lastReads w).g (namesFrom d.num regs)).isSome = true

/-- A group's v registers afterwards: the destination of each thread of a mask holds its value, one register its low word;
every other register of every thread, the destination of the other threads too, reads as before, save those read for the
last time. -/
structure LanesOf (x : Iss) (w : View) (m : Mask) (d regs : Nat) (f : Nat → Nat) (h : Group) : Prop where
  active : ∀ t, m.getLsbD t = true → ∀ n, n < regs → h.vWord (d + n) t = BitVec.ofNat 32 (f t / 2 ^ (32 * n))
  others : ∀ name t, (name ∈ namesFrom d regs → m.getLsbD t = false) → name ∉ lastNames w → h.vWord name t = x.g0.vWord name t

/-- A result of one or two registers for each active thread. -/
structure Lanes (x : Iss) (w : View) (d : Opnd) (regs : Nat) (f : Nat → Word64) (h : Group) : Prop where
  active : ∀ t, x.act.getLsbD t = true → h.vVal d.num regs t = if regs = 1 then ((f t).setWidth 32).setWidth 64 else f t
  others : ∀ name t, (name ∈ namesFrom d.num regs → x.act.getLsbD t = false) → name ∉ lastNames w →
    h.vWord name t = x.g0.vWord name t

/-- No v register changes, save those read for the last time. -/
def LanesKept (x : Iss) (w : View) (h : Group) : Prop := ∀ name t, name ∉ lastNames w → h.vWord name t = x.g0.vWord name t

/-- A group's w registers afterwards: in each lane with an active thread the destination holds the value of the lane's
lowest such thread; every other word reads as before (R135). -/
structure Shared (x : Iss) (d : Opnd) (regs : Nat) (f : Nat → Word64) (h : Group) : Prop where
  active : ∀ t ∈ x.laneFirsts, h.wVal d.num regs (x.g0.laneOf t) = if regs = 1 then ((f t).setWidth 32).setWidth 64 else f t
  others : ∀ name l, l < x.g0.w → (name ∈ namesFrom d.num regs → ∀ t ∈ x.threads, x.g0.laneOf t ≠ l) →
    h.wWord name l = x.g0.wWord name l

/-- Every thread's record afterwards (predicates, FFLAGS, pending flags, accumulators). -/
def Threads (x : Iss) (f : Nat → Thread → Thread) (h : Group) : Prop :=
  h.threads.length = x.g0.threads.length ∧ ∀ t, h.threads[t]? = (x.g0.threads[t]?).map (f t)

/-- The rest of a group's record is as it was: all but its v registers, its threads and its issue counters. -/
def RestKept (x : Iss) (h : Group) : Prop := h = counted x { x.g0 with v := h.v, seq := h.seq, threads := h.threads }

/-- The same of an instruction with a member-shared destination. -/
def RestKeptShared (x : Iss) (h : Group) : Prop :=
  h = counted x { x.g0 with v := h.v, seq := h.seq, threads := h.threads, wr := h.wr, stale := h.stale }

/-! ## Operations under way -/

/-- The completion flag an instruction selects counts up (R25). -/
def flagged (x : Iss) (h : Group) : Group :=
  match x.flag? with
  | some n => h.incFlag n
  | none => h

/-- The counter of free values passes those a memory instruction may use. -/
def spent (x : Iss) (s : State) : State := s.setSched { s.sched with free := s.sched.free + x.g0.f }

/-- An operation's number is taken and the operation added to the memory operations under way. -/
def launched (s : State) (op : MemOp) : State := s.freshId.2.addMemOp op

/-- The rest of a group's record is as it was, the completion flag counted. -/
def RestKeptFlagged (x : Iss) (h : Group) : Prop :=
  h = flagged x (counted x { x.g0 with v := h.v, seq := h.seq, wr := h.wr, stale := h.stale })

/-- No word of a w register changes. -/
def WordsKept (x : Iss) (h : Group) : Prop := ∀ name l, l < x.g0.w → h.wWord name l = x.g0.wWord name l

/-- Destination entries are there or can be had, for the threads of a mask (R111, R115, R116). -/
def DestRoom (x : Iss) (w : View) (d : Dest) (m : Mask) : Prop :=
  match d with
  | .v n r => (x.s0.mapVs (x.lastReads w).g (namesFrom n r) (x.g0.octets m)).isSome = true
  | .w n r => m ≠ 0#512 → (x.s0.mapWs (x.lastReads w).g (namesFrom n r)).isSome = true
  | _ => True

/-- What a destination awaits: its entries, or its s register, are not ready until the operation's result arrives (R119). -/
def Awaits (h : Group) (q : Split) (d : Dest) (octs : List Nat) (op : Nat) : Prop :=
  match d with
  | .v n r => ∀ name ∈ namesFrom n r, ∀ o ∈ octs, ∃ e, h.vEnt? name o = some e ∧ e.busy = some op
  | .w n r => ∀ name ∈ namesFrom n r, ∃ e, h.wEnt? name = some e ∧ e.busy = some op
  | .s n => (n, op) ∈ q.sBusy
  | _ => True

/-- The split's s registers that await a result, once an operation's destination does too. -/
def awaiting (p : Split) (d : Dest) (op : Nat) : List (Nat × Nat) :=
  match d with
  | .s n => (n, op) :: p.sBusy.filter (fun e => e.1 ≠ n)
  | _ => p.sBusy

/-- A loaded value in its destination, for the threads of a mask; every other register reads as before. -/
def Delivered (x : Iss) (w : View) (h : Group) (q : Split) (d : Dest) (m : Mask) (f : Nat → Nat) : Prop :=
  match d with
  | .v n r => LanesOf x w m n r f h ∧ q.s = x.p0.s ∧ WordsKept x h ∧ h.threads = x.g0.threads
  | .w n r =>
    LanesKept x w h ∧ q.s = x.p0.s ∧ h.threads = x.g0.threads
      ∧ (∀ t, m.getLsbD t = true → ∀ k, k < r → h.wWord (n + k) (x.g0.laneOf t) = BitVec.ofNat 32 (f t / 2 ^ (32 * k)))
      ∧ ∀ name l, l < x.g0.w → (name ∈ namesFrom n r → ∀ t, m.getLsbD t = true → x.g0.laneOf t ≠ l) → h.wWord name l = x.g0.wWord name l
  | .s n => LanesKept x w h ∧ q.s = x.p0.s.set n (BitVec.ofNat 64 (f x.low)) ∧ WordsKept x h ∧ h.threads = x.g0.threads
  | .x n =>
    LanesKept x w h ∧ q.s = x.p0.s ∧ WordsKept x h
      ∧ Threads x (fun t th => if m.getLsbD t then
          { th with acc := th.acc.mapIdx (fun j a => if j = n then Image.ofNat a.wide (f t) else a) } else th) h
  | .none => LanesKept x w h ∧ q.s = x.p0.s ∧ WordsKept x h ∧ h.threads = x.g0.threads

/-- Nothing delivered yet: every register reads as before. -/
def Undelivered (x : Iss) (w : View) (h : Group) (q : Split) : Prop :=
  LanesKept x w h ∧ WordsKept x h ∧ q.s = x.p0.s ∧ h.threads = x.g0.threads

end Sys2Proof.Machine
end

