-- ==== Sys2Proof/Certificates/Slice0/Obligations.lean ====
section
/-! DEFINITION. The statements about the model, one definition each, for the provers. -/

open Sys2Proof Sys2Proof.Machine

/-! ## Lanes: integers (R56 to R59) -/

namespace Sys2Proof.Claims
open Sys2Proof.Machine

/-- A result in the lanes: its destination, how many registers it takes, whether a literal follows, each thread's value and
the IEEE flags it raises. -/
structure LaneForm where
  d : Opnd
  regs : Nat
  lit : Bool := false
  val : Iss → Nat → Word64
  raised : Iss → Nat → BitVec 5 := fun _ _ => 0

/-- e of R57 narrowed, saturated first where SAT is set. -/
def result (ty : IntTy) (sat : Bool) (e : Int) : Word64 :=
  let lo : Int := if ty.signed then -(2 ^ (ty.bits - 1)) else 0
  let hi : Int := if ty.signed then 2 ^ (ty.bits - 1) - 1 else 2 ^ ty.bits - 1
  narrowInt ty.signed ty.bits (if sat then max lo (min hi e) else e)

def two (x : IBin) (e : Word64 → Word64 → Int) : LaneForm :=
  { d := x.d, regs := x.ty.regs, lit := x.b.isLit
    val := fun i t => result x.ty x.sat (e (i.val x.a x.ty.regs t) (i.src x.b x.ty.regs t)) }
def one (x : IUn) (e : Word64 → Int) : LaneForm :=
  { d := x.d, regs := x.ty.regs, val := fun i t => result x.ty x.sat (e (i.val x.a x.ty.regs t)) }
def three (x : ITern) (e : Word64 → Word64 → Word64 → Int) : LaneForm :=
  { d := x.d, regs := x.ty.regs, lit := x.b.isLit
    val := fun i t => result x.ty x.sat (e (i.val x.a x.ty.regs t) (i.src x.b x.ty.regs t) (i.val x.x x.ty.regs t)) }
/-- A count, in one 32-bit register whatever the type. -/
def counts (x : IUn) (e : Nat → Nat) : LaneForm :=
  { d := x.d, regs := 1, val := fun i t => BitVec.ofNat 64 (e ((i.val x.a x.ty.regs t).toNat % 2 ^ x.ty.bits)) }

/-- The unsigned value of an operand's n bits, and the shift amount (R56). -/
def low (ty : IntTy) (x : Word64) : Nat := x.toNat % 2 ^ ty.bits
def amount (b : Word64) : Nat := b.toNat % 256

/-- What each lane-integer instruction computes (R56 to R59); a term that is none of them has no form. -/
def laneInteger : Instr → Option LaneForm
  | .iadd x => some (two x (fun a b => extTy x.ty a + extTy x.ty b))
  | .isub x => some (two x (fun a b => extTy x.ty a - extTy x.ty b))
  | .imul x => some (two x (fun a b => extTy x.ty a * extTy x.ty b))
  | .imulh x => some (two { x with sat := false } (fun a b => (extTy x.ty a * extTy x.ty b).fdiv (2 ^ x.ty.bits)))
  | .imad x => some (three x (fun a b c => extTy x.ty a * extTy x.ty b + extTy x.ty c))
  | .imin x => some (two x (fun a b => if extTy x.ty a ≤ extTy x.ty b then extTy x.ty a else extTy x.ty b))
  | .imax x => some (two x (fun a b => if extTy x.ty a ≤ extTy x.ty b then extTy x.ty b else extTy x.ty a))
  | .iabs x => some (one x (fun a => if extTy x.ty a < 0 then -extTy x.ty a else extTy x.ty a))
  | .ineg x => some (one x (fun a => 0 - extTy x.ty a))
  | .and x => some (two x (fun a b => ((a &&& b).toNat : Int)))
  | .or x => some (two x (fun a b => ((a ||| b).toNat : Int)))
  | .xor x => some (two x (fun a b => ((a ^^^ b).toNat : Int)))
  | .not x => some (one x (fun a => ((~~~a).toNat : Int)))
  | .shl x => some (two x (fun a b => if x.ty.bits ≤ amount b then 0 else (low x.ty a * 2 ^ amount b : Nat)))
  | .shr x => some (two x (fun a b => (low x.ty a / 2 ^ amount b : Nat)))
  | .sar x => some (two x (fun a b => (extTy x.ty a).fdiv (2 ^ min (amount b) (x.ty.bits - 1))))
  | .rot x => some (two x (fun a b =>
      (low x.ty a * 2 ^ (amount b % x.ty.bits) + low x.ty a / 2 ^ (x.ty.bits - amount b % x.ty.bits) : Nat)))
  | .popc x => some (counts x (fun a => ((List.range x.ty.bits).filter (fun n => a.testBit n)).length))
  | .clz x => some (counts x (fun a => if a = 0 then x.ty.bits else x.ty.bits - 1 - Nat.log2 a))
  | .brev x => some (one x (fun a => (revBits (low x.ty a) x.ty.bits : Int)))
  | .bfx x => some (two x (fun a b => bfx x.ty a b))
  | .bfi x => some (three x (fun a b c => bfi x.ty a b c))
  | .sel x => some
      { d := x.d, regs := x.ty.regs, lit := x.b.isLit
        val := fun i t => result x.ty false (extTy x.ty (if i.predOf x.q t then i.val x.a x.ty.regs t else i.src x.b x.ty.regs t)) }
  | .mov x => some (one x (fun a => extTy x.ty a))
  | .movi x => some
      { d := x.d, regs := x.ty.regs, lit := x.b.isLit, val := fun i t => result x.ty false (extTy x.ty (i.src x.b x.ty.regs t)) }
  | _ => none

end Sys2Proof.Claims


/-- R57, R58, R59: a lane-integer instruction that nothing holds back issues; each active thread's destination receives
the result of the instruction's type, and nothing else of the group changes but its issue counters.
It rests on the model's readings of log entries 11, 14. -/
def Obligations.LaneIntegerResult : Prop :=
  ∀ (i : Instr) (r : Claims.LaneForm) (w : View), Claims.laneInteger i = some r → i.view = some w →
    ∀ (s : State) (g : Group) (p : Split), Issues s g p → Clear (issueOf s g p w) w → RoomFor (issueOf s g p w) w r.d r.regs →
      ∃ h, exec i s = .next (goesOn s h (holding (issueOf s g p w) w) r.lit) ∧ RestKept (issueOf s g p w) h ∧ h.threads = g.threads
        ∧ Lanes (issueOf s g p w) w r.d r.regs (r.val (issueOf s g p w)) h

/-! ## Lanes: floating point, conversion and exchange (R52, R53, R60 to R66, R134) -/

namespace Sys2Proof.Claims
open Sys2Proof.Machine

/-- An operation on the elements of a register: one of 32 or 64 bits, or the two of 16 bits (R49), whose flags join. -/
def elements (f : FFmt) (op : (Word64 → Nat) → Nat × BitVec 5) : Word64 × BitVec 5 :=
  match f with
  | .f64 => (BitVec.ofNat 64 (op (fun x => x.toNat)).1, (op (fun x => x.toNat)).2)
  | .f32 => (BitVec.ofNat 64 (op (fun x => x.toNat % 2 ^ 32)).1, (op (fun x => x.toNat % 2 ^ 32)).2)
  | _ =>
    let lo := op (fun x => x.toNat % 65536)
    let hi := op (fun x => x.toNat / 65536 % 65536)
    (BitVec.ofNat 64 (lo.1 + 65536 * hi.1), lo.2 ||| hi.2)

def floats (d : Opnd) (regs : Nat) (lit : Bool) (r : Iss → Nat → Word64 × BitVec 5) : LaneForm :=
  { d := d, regs := regs, lit := lit, val := fun i t => (r i t).1, raised := fun i t => (r i t).2 }

def floatTwo (x : FBin) (op : Fmt → Nat → Nat → Nat × BitVec 5) : LaneForm :=
  floats x.d x.fmt.regs x.b.isLit (fun i t =>
    elements x.fmt (fun e => op (fmtOf x.fmt) (e (i.val x.a x.fmt.regs t)) (e (i.src x.b x.fmt.regs t))))
def floatOne (x : FUn) (op : Fmt → Nat → Nat × BitVec 5) : LaneForm :=
  floats x.d x.fmt.regs false (fun i t => elements x.fmt (fun e => op (fmtOf x.fmt) (e (i.val x.a x.fmt.regs t))))

/-- What each floating-point, conversion and exchange instruction computes, with the IEEE flags of each thread. -/
def laneFloat : Instr → Option LaneForm
  | .fadd x => some (floatTwo x (fun f a b => f.add x.rnd (f.unpack a) (f.unpack b)))
  | .fsub x => some (floatTwo x (fun f a b => f.add x.rnd (f.unpack a) (f.unpack b).negate))
  | .fmul x => some (floatTwo x (fun f a b => f.mul x.rnd (f.unpack a) (f.unpack b)))
  | .ffma x => some (floats x.d x.fmt.regs x.b.isLit (fun i t => elements x.fmt (fun e =>
      (fmtOf x.fmt).fma x.rnd ((fmtOf x.fmt).unpack (e (i.val x.a x.fmt.regs t))) ((fmtOf x.fmt).unpack (e (i.src x.b x.fmt.regs t)))
        ((fmtOf x.fmt).unpack (e (i.val x.x x.fmt.regs t))))))
  | .fmin x => some (floatTwo x (fun f a b => f.minmax true a b))
  | .fmax x => some (floatTwo x (fun f a b => f.minmax false a b))
  | .fabs x => some (floatOne x (fun f a => (a % 2 ^ (f.width - 1), 0)))
  | .fneg x => some (floatOne x (fun f a => (a ^^^ 2 ^ (f.width - 1), 0)))
  | .frcp x => some (floatOne x (fun f a => f.rcp x.rnd (f.unpack a)))
  | .frsq x => some (floatOne x (fun f a => f.rsq x.rnd (f.unpack a)))
  | .fsqrt x => some (floatOne x (fun f a => f.sqrt x.rnd (f.unpack a)))
  | .fex2 x => some (floatOne x (fun f a => f.exp2 x.rnd (f.unpack a)))
  | .flg2 x => some (floatOne x (fun f a => f.log2 x.rnd (f.unpack a)))
  | .fsin x => some (floatOne x (fun f a => f.sin x.rnd (f.unpack a)))
  | .fcos x => some (floatOne x (fun f a => f.cos x.rnd (f.unpack a)))
  | .fclass x => some (floatOne x (fun f a => (f.classMask a, 0)))
  | .cvt x => some (floats x.d x.dt.regs false (fun i t => convert x.sat x.rnd x.dt x.st (i.val x.a x.st.regs t)))
  | .pack x => some (floats x.d 1 false (fun i t =>
      let lo := packHalf x.sat x.rnd x.fmt (i.val x.a 1 t)
      let hi := packHalf x.sat x.rnd x.fmt (i.val x.b 1 t)
      (BitVec.ofNat 64 (lo.1 + 65536 * hi.1), lo.2 ||| hi.2)))
  | .unpack x => some (floats x.d 2 false (fun i t =>
      let lo := unpackHalf x.fmt ((i.val x.a 1 t).toNat % 65536)
      let hi := unpackHalf x.fmt ((i.val x.a 1 t).toNat / 65536 % 65536)
      (BitVec.ofNat 64 (lo.1 + 2 ^ 32 * hi.1), lo.2 ||| hi.2)))
  | .lred x => some (floats x.d (x.op.regs x.flag) false (fun i t =>
      reduce x.op (32 * x.op.regs x.flag) ((i.peers t).map (fun u => i.val x.a (x.op.regs x.flag) u))))
  | _ => none

/-- Exchange among lanes and members: each thread's value. -/
def laneExchange : Instr → Option LaneForm
  | .shfl x => some
      { d := x.d, regs := if x.wide then 2 else 1, lit := x.b.isLit
        val := fun i t => i.val x.a (if x.wide then 2 else 1) (shflFrom i x.mode (extInt true 32 (i.src x.b 1 t)) t) }
  | .vote x =>
    if x.mode = .ballot then some
      { d := x.d, regs := 2
        val := fun i t => BitVec.ofNat 64 ((i.peers t).foldl (fun acc u => if i.predOf x.a u then acc + 2 ^ i.g0.laneOf u else acc) 0) }
    else none
  | .scan x => some
      { d := x.d, regs := 1
        val := fun i t =>
          let l := (i.peers t).filter (fun u => if x.flag then decide (u < t) else decide (u ≤ t))
          if l = [] then redIdentity x.op else (reduce x.op 32 (l.map (fun u => i.val x.a 1 u))).1 }
  | .mbcast x => some
      { d := x.d, regs := if x.wide then 2 else 1, lit := x.b.isLit
        val := fun i t =>
          let j := (i.src x.b 1 t).toNat % 2 ^ 32
          let u := j * i.g0.w + i.g0.laneOf t
          i.val x.a (if x.wide then 2 else 1) (if j < i.g0.m ∧ i.act.getLsbD u = true then u else t) }
  | .mvote x =>
    if x.mode = .ballot then some
      { d := x.d, regs := 1
        val := fun i t => BitVec.ofNat 64 ((i.mates t).foldl (fun acc u => if i.predOf x.a u then acc + 2 ^ i.g0.memberOf u else acc) 0) }
    else none
  | .rdsr x => if x.num = 0 then some { d := x.d, regs := 1, val := fun i t => ((i.g0.threads[t]?.map Thread.fflags).getD 0).setWidth 64 } else none
  | _ => none

end Sys2Proof.Claims

/-- R61 to R66: a floating-point instruction, a conversion or LRED that nothing holds back writes each active thread's
result and adds its IEEE flags to that thread's FFLAGS; nothing else of the group changes but its issue counters. -/
def Sys2Proof.Claims.LaneFloatForms : Prop :=
  ∀ (i : Instr) (r : Claims.LaneForm) (w : View), Claims.laneFloat i = some r → i.view = some w →
    ∀ (s : State) (g : Group) (p : Split), Issues s g p → Clear (issueOf s g p w) w → RoomFor (issueOf s g p w) w r.d r.regs →
      ∃ h, exec i s = .next (goesOn s h (holding (issueOf s g p w) w) r.lit) ∧ RestKept (issueOf s g p w) h
        ∧ Lanes (issueOf s g p w) w r.d r.regs (r.val (issueOf s g p w)) h
        ∧ Threads (issueOf s g p w) (fun t th =>
            if (issueOf s g p w).act.getLsbD t then { th with fflags := th.fflags ||| r.raised (issueOf s g p w) t } else th) h

/-! ## Correct rounding (R48, R50, R51, R61, R62, R64) -/

namespace Sys2Proof.Claims
open Sys2Proof.Machine

/-- The positive number x with x^deg = num / den × 2^exp. -/
structure Root where
  deg : Nat
  num : Nat
  den : Nat
  exp : Int

/-- x against m × 2^e. -/
def Root.versus (x : Root) (m : Nat) (e : Int) : Ordering :=
  let q := min x.exp ((x.deg : Int) * e)
  compare (x.num * 2 ^ (x.exp - q).toNat) (x.den * m ^ x.deg * 2 ^ ((x.deg : Int) * e - q).toNat)

/-- n × 2^q is the multiple of 2^q that a mode rounds x to, where x stands for −x if `neg`; `exact` says that x is that multiple. -/
def Root.nearest (x : Root) (r : Rnd) (neg : Bool) (q : Int) (n : Nat) (exact : Bool) : Prop :=
  ∃ k, x.versus k q ≠ .lt ∧ x.versus (k + 1) q = .lt ∧ exact = (x.versus k q == .eq)
    ∧ n = (if exact then k else match r with
      | .rn => (match x.versus (2 * k + 1) (q - 1) with
        | .lt => k
        | .gt => k + 1
        | .eq => if k % 2 = 0 then k else k + 1)
      | .rz => k
      | .ru => if neg then k else k + 1
      | .rd => if neg then k + 1 else k)

/-- A result is x (or −x) rounded once to a format in a mode, with the flags of R50: an exponent without bound first, then the
overflow rule; what is tiny after rounding and inexact underflows. -/
def Root.roundsTo (x : Root) (f : Fmt) (r : Rnd) (neg : Bool) (res : Nat × BitVec 5) : Prop :=
  ∃ (top : Int) (n u : Nat) (exact exact' : Bool),
    let lead := top - ((f.p : Int) - 1)
    let least := 2 - (f.bias : Int) - f.p
    let q := max lead least
    x.versus 1 top ≠ .lt ∧ x.versus 1 (top + 1) = .lt ∧ x.nearest r neg q n exact ∧ x.nearest r neg lead u exact' ∧ res.1 < 2 ^ f.width
      ∧ if 2 ^ ((f.bias : Int) + 1 - q).toNat ≤ n then
          res.2 = 0b00101#5 ∧ f.unpack res.1 =
            (if (match r with | .rn => true | .rz => false | .ru => !neg | .rd => neg) then FVal.inf neg
             else .fin neg (2 ^ f.p - 1) ((f.bias : Int) - f.p + 1))
        else (∃ m e, f.unpack res.1 = .fin neg m e ∧ least ≤ e ∧ m * 2 ^ (e - least).toNat = n * 2 ^ (q - least).toNat)
          ∧ res.2 = (if exact then 0 else if u < 2 ^ (1 - (f.bias : Int) - lead).toNat then 0b00011#5 else 0b00001#5)

/-- A result is a value of a format, with its flags; a NaN is the canonical one. -/
def isValue (f : Fmt) (v : FVal) (fl : BitVec 5) (res : Nat × BitVec 5) : Prop :=
  (if v.isNan then res.1 = f.qnan else f.unpack res.1 = v ∧ res.1 < 2 ^ f.width) ∧ res.2 = fl

/-- Zero and one of a format. -/
def zeroIn (f : Fmt) (neg : Bool) : FVal := .fin neg 0 (2 - (f.bias : Int) - f.p)
def oneIn (f : Fmt) : FVal := .fin false (2 ^ (f.p - 1)) (1 - (f.p : Int))

/-- A signalling NaN raises invalid (R51). -/
def invalidIf (l : List FVal) : BitVec 5 := if l.any FVal.isSnan then 0b10000#5 else 0

/-- m × 2^e (negated where `neg`) rounded once; a zero keeps its sign. -/
def finiteIs (f : Fmt) (r : Rnd) (neg : Bool) (m : Nat) (e : Int) (res : Nat × BitVec 5) : Prop :=
  if m = 0 then isValue f (zeroIn f neg) 0 res else Root.roundsTo ⟨1, m, 1, e⟩ f r neg res

/-- The rounded sum of two values (R50, R51, R61). -/
def sumIs (f : Fmt) (r : Rnd) (a b : FVal) (res : Nat × BitVec 5) : Prop :=
  match a, b with
  | .inf x, .inf y => if x = y then isValue f (.inf x) 0 res else isValue f (.nan false) 0b10000#5 res
  | .inf x, .fin _ _ _ => isValue f (.inf x) 0 res
  | .fin _ _ _, .inf y => isValue f (.inf y) 0 res
  | .fin x m e, .fin y n g =>
    let q := min e g
    let s := signed x (m * 2 ^ (e - q).toNat) + signed y (n * 2 ^ (g - q).toNat)
    if s = 0 then isValue f (zeroIn f (if x = y then x else r == .rd)) 0 res else Root.roundsTo ⟨1, s.natAbs, 1, q⟩ f r (decide (s < 0)) res
  | _, _ => isValue f (.nan false) (invalidIf [a, b]) res

/-- The exact product of two values; 0 × ∞ is a NaN. -/
def times (a b : FVal) : FVal :=
  match a, b with
  | .nan _, _ => .nan false
  | _, .nan _ => .nan false
  | .inf x, y => if y.isZero then .nan false else .inf (x != y.neg?)
  | x, .inf y => if x.isZero then .nan false else .inf (x.neg? != y)
  | .fin x m e, .fin y n g => .fin (x != y) (m * n) (e + g)

/-- A product rounded, and a product and a value summed and rounded once (R51). -/
def productIs (f : Fmt) (r : Rnd) (a b : FVal) (res : Nat × BitVec 5) : Prop :=
  match times a b with
  | .nan _ => isValue f (.nan false) (if a.isNan || b.isNan then invalidIf [a, b] else 0b10000#5) res
  | .inf x => isValue f (.inf x) 0 res
  | .fin x m e => finiteIs f r x m e res
def fusedIs (f : Fmt) (r : Rnd) (a b c : FVal) (res : Nat × BitVec 5) : Prop :=
  if a.isNan || b.isNan then isValue f (.nan false) (invalidIf [a, b, c]) res
  else if (times a b).isNan then isValue f (.nan false) 0b10000#5 res
  else sumIs f r (times a b) c res

/-- A number stands before another: it is less, or it is −0 and the other +0. -/
def before (a b : FVal) : Prop := a.lt b = true ∨ (a.eq b = true ∧ a.neg? = true ∧ b.neg? = false)

/-- The finite values of a list at a common exponent. -/
def lowest (l : List FVal) : Int := l.foldl (fun q v => match v with | .fin _ _ e => min q e | _ => q) 0
def total (l : List FVal) : Int :=
  (l.map (fun v => match v with | .fin x m e => signed x (m * 2 ^ (e - lowest l).toNat) | _ => 0)).sum

end Sys2Proof.Claims

/-- R50, R51, R61, R62, R64: a sum, a product, a fused product, a reciprocal, a root and a conversion give the exact value rounded once
to the format in the mode, with the flags of R50, and the values of R51 and R62 on NaNs, infinities, zeros and negative
numbers; a sum of many terms, in .RN, too (R308). FEX2 of an integer, FLG2 of a power of two and every function at R62's points are
exact likewise; of their irrational values this says nothing. -/
def Sys2Proof.Claims.FloatsRounded : Prop :=
  (∀ f ∈ [fF32, fF64, fF16, fBF16], ∀ r : Rnd,
    (∀ a b, Claims.sumIs f r a b (f.add r a b) ∧ Claims.productIs f r a b (f.mul r a b))
    ∧ (∀ a b c, Claims.fusedIs f r a b c (f.fma r a b c))
    ∧ (∀ sg, ∀ fn ∈ [f.convert r, f.rcp r, f.sqrt r, f.rsq r, f.exp2 r, f.log2 r, f.sin r, f.cos r],
        Claims.isValue f (.nan false) (if sg then 0b10000#5 else 0) (fn (.nan sg)))
    ∧ (∀ n m e, Claims.finiteIs f r n m e (f.convert r (.fin n m e)) ∧ Claims.isValue f (.inf n) 0 (f.convert r (.inf n)))
    ∧ (∀ v : Int, Claims.finiteIs f r (decide (v < 0)) v.natAbs 0 (f.roundInt r v 0 false))
    ∧ (∀ n e, Claims.isValue f (.inf n) 0b01000#5 (f.rcp r (.fin n 0 e)) ∧ Claims.isValue f (Claims.zeroIn f n) 0 (f.rcp r (.inf n))
        ∧ Claims.isValue f (.inf n) 0b01000#5 (f.rsq r (.fin n 0 e)) ∧ Claims.isValue f (Claims.zeroIn f n) 0 (f.sqrt r (.fin n 0 e))
        ∧ Claims.isValue f (Claims.oneIn f) 0 (f.exp2 r (.fin n 0 e)) ∧ Claims.isValue f (.inf true) 0b01000#5 (f.log2 r (.fin n 0 e))
        ∧ Claims.isValue f (Claims.zeroIn f n) 0 (f.sin r (.fin n 0 e)) ∧ Claims.isValue f (Claims.oneIn f) 0 (f.cos r (.fin n 0 e))
        ∧ Claims.isValue f (.nan false) 0b10000#5 (f.sin r (.inf n)) ∧ Claims.isValue f (.nan false) 0b10000#5 (f.cos r (.inf n)))
    ∧ (∀ fn ∈ [f.rsq r, f.sqrt r, f.log2 r], Claims.isValue f (.nan false) 0b10000#5 (fn (.inf true))
        ∧ ∀ m e, 0 < m → Claims.isValue f (.nan false) 0b10000#5 (fn (.fin true m e)))
    ∧ Claims.isValue f (Claims.zeroIn f false) 0 (f.rsq r (.inf false)) ∧ Claims.isValue f (.inf false) 0 (f.sqrt r (.inf false))
    ∧ Claims.isValue f (.inf false) 0 (f.exp2 r (.inf false)) ∧ Claims.isValue f (Claims.zeroIn f false) 0 (f.exp2 r (.inf true))
    ∧ Claims.isValue f (.inf false) 0 (f.log2 r (.inf false))
    ∧ (∀ n m e, 0 < m → Claims.Root.roundsTo ⟨1, 1, m, -e⟩ f r n (f.rcp r (.fin n m e))
        ∧ Claims.Root.roundsTo ⟨2, m, 1, e⟩ f r false (f.sqrt r (.fin false m e))
        ∧ Claims.Root.roundsTo ⟨2, 1, m, -e⟩ f r false (f.rsq r (.fin false m e)))
    ∧ (∀ n m (k : Nat) e, 0 < k → (if 0 ≤ e then m * 2 ^ e.toNat = k else m = k * 2 ^ (-e).toNat) →
        Claims.Root.roundsTo ⟨1, 1, 1, signed n k⟩ f r false (f.exp2 r (.fin n m e)))
    ∧ (∀ (k : Nat) (e : Int), Claims.finiteIs f r (decide (k + e < 0)) (k + e : Int).natAbs 0 (f.log2 r (.fin false (2 ^ k) e)))
    ∧ (∀ (sg : Bool) n, n ∈ [8, 16, 32, 64] →
        (∀ b, floatToInt r sg n (.nan b) = (0, 0b10000#5))
        ∧ (∀ neg, floatToInt r sg n (.inf neg)
            = (if neg then (if sg then -2 ^ (n - 1) else 0) else (if sg then 2 ^ (n - 1) - 1 else 2 ^ n - 1), 0b10000#5))
        ∧ ∀ neg m e, 0 < m → ∃ k exact, Claims.Root.nearest ⟨1, m, 1, e⟩ r neg 0 k exact ∧
            let v : Int := if neg then -k else k
            let lo : Int := if sg then -2 ^ (n - 1) else 0
            let hi : Int := if sg then 2 ^ (n - 1) - 1 else 2 ^ n - 1
            floatToInt r sg n (.fin neg m e)
              = if v < lo then (lo, 0b10000#5) else if hi < v then (hi, 0b10000#5) else (v, if exact then 0 else 0b00001#5)))
  ∧ ∀ f ∈ [fF32, fF64], ∀ (l : List FVal) (nv : Bool),
      ((∃ v ∈ l, v.isNan = true) → Claims.isValue f (.nan false)
        (if nv = true ∨ (FVal.inf true ∈ l ∧ FVal.inf false ∈ l) then 0b10000#5 else Claims.invalidIf l) (f.sumVals l nv))
      ∧ ((∀ v ∈ l, v.isNan = false) →
        (FVal.inf true ∈ l → FVal.inf false ∈ l → Claims.isValue f (.nan false) 0b10000#5 (f.sumVals l nv))
        ∧ (∀ n, FVal.inf n ∈ l → FVal.inf (!n) ∉ l → Claims.isValue f (.inf n) 0 (f.sumVals l nv))
        ∧ (FVal.inf true ∉ l → FVal.inf false ∉ l → if Claims.total l = 0
            then Claims.isValue f (Claims.zeroIn f (l.all (fun v => v.isZero && v.neg?))) 0 (f.sumVals l nv)
            else Claims.Root.roundsTo ⟨1, (Claims.total l).natAbs, 1, Claims.lowest l⟩ f .rn (decide (Claims.total l < 0)) (f.sumVals l nv)))

/-- Floating-point, conversion and reduction instructions write their correctly rounded results and flags. It rests on the model's
readings of log entries 14, 15. -/
def Obligations.LaneFloatResult : Prop := Claims.LaneFloatForms ∧ Claims.FloatsRounded

/-- R66, R72, R134: SHFL, SCAN, MBCAST, the ballots and a read of FFLAGS write each active thread's value and change no
thread's flags.
It rests on the model's readings of log entry 14. -/
def Obligations.LaneExchangeResult : Prop :=
  ∀ (i : Instr) (r : Claims.LaneForm) (w : View), Claims.laneExchange i = some r → i.view = some w →
    ∀ (s : State) (g : Group) (p : Split), Issues s g p → Clear (issueOf s g p w) w → RoomFor (issueOf s g p w) w r.d r.regs →
      ∃ h, exec i s = .next (goesOn s h (holding (issueOf s g p w) w) r.lit) ∧ RestKept (issueOf s g p w) h ∧ h.threads = g.threads
        ∧ Lanes (issueOf s g p w) w r.d r.regs (r.val (issueOf s g p w)) h

/-- R134: MRED over each lane's active members, into v registers with the flags of its threads, or into a w register of
the lane; R137: MOVW.
It rests on the model's readings of log entries 14, 15. -/
def Obligations.MemberResult : Prop :=
  (∀ (x : Red) (n : BitVec 8) (s : State) (g : Group) (p : Split), x.d = .v n →
    let i := issueOf s g p (x.view [.v, .w])
    let r (t : Nat) := reduce x.op (32 * x.op.regs x.flag) ((i.mates t).map (fun u => i.val x.a (x.op.regs x.flag) u))
    Issues s g p → Clear i (x.view [.v, .w]) → RoomFor i (x.view [.v, .w]) x.d (x.op.regs x.flag) →
      ∃ h, exec (.mred x) s = .next (goesOn s h (holding i (x.view [.v, .w])) false) ∧ RestKept i h
        ∧ Lanes i (x.view [.v, .w]) x.d (x.op.regs x.flag) (fun t => (r t).1) h
        ∧ Threads i (fun t th => if i.act.getLsbD t then { th with fflags := th.fflags ||| (r t).2 } else th) h)
  ∧ (∀ (x : Red) (n : BitVec 5) (s : State) (g : Group) (p : Split), x.d = .w n →
    let i := issueOf s g p (x.view [.v, .w])
    let r (t : Nat) := reduce x.op (32 * x.op.regs x.flag) ((i.mates t).map (fun u => i.val x.a (x.op.regs x.flag) u))
    Issues s g p → Clear i (x.view [.v, .w]) → RoomForShared i (x.view [.v, .w]) x.d (x.op.regs x.flag) →
      ∃ h, exec (.mred x) s = .next (goesOn s h (holding i (x.view [.v, .w])) false) ∧ RestKeptShared i h
        ∧ LanesKept i (x.view [.v, .w]) h ∧ Shared i x.d (x.op.regs x.flag) (fun t => (r t).1) h
        ∧ Threads i (fun t th => if i.act.getLsbD t then { th with fflags := th.fflags ||| (r t).2 } else th) h)
  ∧ (∀ (x : UMovi) (s : State) (g : Group) (p : Split),
    let i := issueOf s g p x.movwView
    Issues s g p → Clear i x.movwView → RoomForShared i x.movwView x.d 1 →
      ∃ h, exec (.movw x) s = .next (goesOn s h (holding i x.movwView) x.b.isLit) ∧ RestKeptShared i h ∧ h.threads = g.threads
        ∧ LanesKept i x.movwView h ∧ Shared i x.d 1 (fun t => i.src x.b 1 t) h)

/-! ## Predicates (R59, R63, R66, R67, R134) -/

namespace Sys2Proof.Claims
open Sys2Proof.Machine

/-- A predicate result: its register, the threads that receive it, their values and the IEEE flags raised. -/
structure PredForm where
  d : Opnd
  lit : Bool := false
  mask : Iss → Mask := Iss.act
  val : Iss → Nat → Bool
  raised : Iss → Nat → BitVec 5 := fun _ _ => 0

/-- A vote's truth. -/
def truth (mode : VoteMode) (l : List Bool) : Bool :=
  match mode with
  | .any => decide (true ∈ l)
  | .all => decide (false ∉ l)
  | _ => decide (false ∉ l) || decide (true ∉ l)

/-- The comparisons and votes. -/
def predicate : Instr → Option PredForm
  | .icmp x => some { d := x.d, lit := x.b.isLit
                      val := fun i t => condInt x.cc (extTy x.ty (i.val x.a x.ty.regs t)) (extTy x.ty (i.src x.b x.ty.regs t)) }
  | .fcmp x =>
    let el (w : Word64) : FVal := (fmtOf x.fmt).unpack (w.toNat % 2 ^ (fmtOf x.fmt).width)
    some { d := x.d, lit := x.b.isLit
           val := fun i t => (fcond x.cc (el (i.val x.a x.fmt.regs t)) (el (i.src x.b x.fmt.regs t))).1
           raised := fun i t => (fcond x.cc (el (i.val x.a x.fmt.regs t)) (el (i.src x.b x.fmt.regs t))).2 }
  | .vote x => if x.mode = .ballot then none else some { d := x.d, val := fun i t => truth x.mode ((i.peers t).map (i.predOf x.a)) }
  | .mvote x => if x.mode = .ballot then none else some { d := x.d, val := fun i t => truth x.mode ((i.mates t).map (i.predOf x.a)) }
  | .scmp x =>
    match x.d with
    | .p _ => some { d := x.d, lit := x.b.isLit, mask := fun i => if i.any then i.splitLive else 0
                     val := fun i _ => condInt x.cc (extInt (!x.nat) 64 (i.uni x.a)) (extInt (!x.nat) 64 (i.uniSrc x.b)) }
    | _ => none
  | _ => none

end Sys2Proof.Claims

/-- R59, R63, R66, R67: a comparison or vote writes its predicate in the threads it names, inactive threads keep theirs, p7
goes on reading true (R30), and nothing else of a thread changes but the IEEE flags an FCMP raises. -/
def Obligations.PredicateResult : Prop :=
  ∀ (i : Instr) (r : Claims.PredForm) (w : View) (n : BitVec 3), Claims.predicate i = some r → i.view = some w → r.d = .p n →
    ∀ (s : State) (g : Group) (p : Split), Issues s g p → Clear (issueOf s g p w) w →
      ∃ h, exec i s = .next (goesOn s h (holding (issueOf s g p w) w) r.lit) ∧ RestKept (issueOf s g p w) h ∧ LanesKept (issueOf s g p w) w h
        ∧ ∃ f, Threads (issueOf s g p w) f h ∧ ∀ t th,
            f t th = { th with p := (f t th).p, fflags := (f t th).fflags }
            ∧ (f t th).fflags = (if (issueOf s g p w).act.getLsbD t then th.fflags ||| r.raised (issueOf s g p w) t else th.fflags)
            ∧ (f t th).pred 7 = true
            ∧ ∀ q, q ≠ 7 → (f t th).pred q =
                if q = n ∧ (r.mask (issueOf s g p w)).getLsbD t = true then r.val (issueOf s g p w) t else th.pred q

/-! ## Uniform registers (R67, R72, R74) -/

namespace Sys2Proof.Claims
open Sys2Proof.Machine

/-- A result in an s register of the split. -/
structure UniForm where
  d : Opnd
  lit : Bool := false
  val : Iss → Word64

def uniTwo (x : UBin) (e : Word64 → Word64 → Word64) : UniForm :=
  { d := x.d, lit := x.b.isLit, val := fun i => e (i.uni x.a) (i.uniSrc x.b) }

/-- The uniform instructions, RDSR but of FFLAGS, and ARD: each with its value. -/
def uniform : Instr → Option UniForm
  | .sadd x => some (uniTwo x (fun a b => BitVec.ofNat 64 (a.toNat + b.toNat)))
  | .ssub x => some (uniTwo x (fun a b => BitVec.ofInt 64 (a.toInt - b.toInt)))
  | .smul x => some (uniTwo x (fun a b => BitVec.ofNat 64 (a.toNat * b.toNat)))
  | .sand x => some (uniTwo x (fun a b => a &&& b))
  | .sor x => some (uniTwo x (fun a b => a ||| b))
  | .sxor x => some (uniTwo x (fun a b => a ^^^ b))
  | .sshl x => some (uniTwo x (fun a b => BitVec.ofNat 64 (a.toNat * 2 ^ amount b)))
  | .sshr x => some
      { d := x.d, lit := x.b.isLit
        val := fun i => if x.arith then BitVec.ofInt 64 ((i.uni x.a).toInt.fdiv (2 ^ amount (i.uniSrc x.b)))
          else BitVec.ofNat 64 ((i.uni x.a).toNat / 2 ^ amount (i.uniSrc x.b)) }
  | .scmp x =>
    match x.d with
    | .p _ => none
    | _ => some
        { d := x.d, lit := x.b.isLit
          val := fun i => if condInt x.cc (extInt (!x.nat) 64 (i.uni x.a)) (extInt (!x.nat) 64 (i.uniSrc x.b)) then 1 else 0 }
  | .smov x => some { d := x.d, val := fun i => i.uni x.a }
  | .smovi x => some { d := x.d, lit := x.b.isLit, val := fun i => i.uniSrc x.b }
  | .ard x => some
      { d := x.d
        val := fun i => match x.fld with
          | .ptr => (i.areg x.a).ptr
          | .base => (i.areg x.a).base
          | .limit => (i.areg x.a).limit
          | .perm => BitVec.ofNat 64 ((i.areg x.a).rd.toNat + 2 * (i.areg x.a).wr.toNat + 4 * (i.areg x.a).atm.toNat + 8 * (i.areg x.a).pv.toNat) }
  | .rdsr x => if x.num = 0 then none else some { d := x.d, val := fun i => i.s0.sysRead i.g0 x.num.toNat }
  | _ => none

end Sys2Proof.Claims

/-- R67, R72, R74: a uniform instruction, ARD or RDSR with a thread active writes its value into the split's s register and
changes no other register; with none active it writes nothing. -/
def Obligations.UniformResult : Prop :=
  ∀ (i : Instr) (r : Claims.UniForm) (w : View), Claims.uniform i = some r → i.view = some w →
    ∀ (s : State) (g : Group) (p : Split), Issues s g p → Clear (issueOf s g p w) w →
      ∃ h, exec i s = .next (goesOn s h
          { holding (issueOf s g p w) w with
            s := if (issueOf s g p w).any then p.s.set r.d.num (r.val (issueOf s g p w)) else p.s } r.lit)
        ∧ RestKept (issueOf s g p w) h ∧ LanesKept (issueOf s g p w) w h ∧ h.threads = g.threads

/-- R67: RDLANE reads the v register of the thread its second operand numbers, 0 where the split has no such thread; where
that register awaits a result the split waits (R119). -/
def Obligations.RdlaneResult : Prop :=
  ∀ (x : UBin) (s : State) (g : Group) (p : Split),
    let i := issueOf s g p x.rdlaneView
    let j := (i.uniSrc x.b).toNat % 65536
    let here := j < g.f ∧ p.mask.getLsbD j = true ∧ g.exitedMask.getLsbD j = false
    Issues s g p → Clear i x.rdlaneView → i.any = true →
      ((here → (g.vEnt? x.a.num (j / 8)).bind VEnt.busy = none) →
        ∃ h, exec (.rdlane x) s = .next (goesOn s h
            { holding i x.rdlaneView with s := p.s.set x.d.num (if here then (g.vWord x.a.num j).setWidth 64 else 0) } x.b.isLit)
          ∧ RestKept i h ∧ LanesKept i x.rdlaneView h ∧ h.threads = g.threads)
      ∧ (∀ op, here → (g.vEnt? x.a.num (j / 8)).bind VEnt.busy = some op →
        exec (.rdlane x) s = .next (s.waitAt g.key p.sid (s.resultCode op) (some op)).clearCur)

/-- R73, R74: ASET, ADV and ANARROW write the image they compute into the split's a register; ASET with P outside a handler, and an ASET or ANARROW of a private image while the team is regrouped (R102), are illegal. -/
def Obligations.AddressRegisterResult : Prop :=
  ∀ (s : State) (g : Group) (p : Split), Issues s g p →
    (∀ x : ASet,
      let i := issueOf s g p x.view
      Clear i x.view →
        ((x.pv = true → g.priv = true ∧ i.regrouped = false) → (i.regrouped = true → (i.areg x.d).pv = false) →
          ∃ h, exec (.aset x) s = .next (goesOn s h
              { holding i x.view with
                a := if i.any then p.a.set x.d.num ⟨i.uni x.a, i.uni x.b, i.uni x.x, x.rd, x.wr, x.atm, x.pv⟩ else p.a } false)
            ∧ RestKept i h ∧ LanesKept i x.view h ∧ h.threads = g.threads)
        ∧ ((x.pv = true ∧ g.priv = false) ∨ (i.regrouped = true ∧ (x.pv = true ∨ (i.areg x.d).pv = true)) →
            exec (.aset x) s = .next (((s.putGroup (g.putSplit p)).takeTrap g.key p.sid
              (p.trapInfo cILLEGAL_INSTRUCTION 0 (g.splitLive p)) p.region).clearCur)))
    ∧ (∀ x : UBin,
      let i := issueOf s g p x.advView
      Clear i x.advView →
        ∃ h, exec (.adv x) s = .next (goesOn s h
            { holding i x.advView with
              a := if i.any then p.a.set x.d.num { i.areg x.a with ptr := (i.areg x.a).ptr + i.uniSrc x.b } else p.a } x.b.isLit)
          ∧ RestKept i h ∧ LanesKept i x.advView h ∧ h.threads = g.threads)
    ∧ (∀ x : ANarrow,
      let i := issueOf s g p x.view
      let a := i.areg x.a
      Clear i x.view → (i.regrouped = true → a.pv = false ∧ (i.areg x.d).pv = false) →
        ∃ h, exec (.anarrow x) s = .next (goesOn s h
            { holding i x.view with
              a := if i.any then p.a.set x.d.num
                  { a with base := BitVec.ofNat 64 (max a.base.toNat (i.uni x.b).toNat)
                           limit := BitVec.ofNat 64 (min a.limit.toNat (i.uni x.x).toNat)
                           rd := a.rd && x.rd, wr := a.wr && x.wr, atm := a.atm && x.atm }
                else p.a } false)
          ∧ RestKept i h ∧ LanesKept i x.view h ∧ h.threads = g.threads)
    ∧ (∀ x : ANarrow,
      let i := issueOf s g p x.view
      Clear i x.view → i.regrouped = true → ((i.areg x.a).pv = true ∨ (i.areg x.d).pv = true) →
        exec (.anarrow x) s = .next (((s.putGroup (g.putSplit p)).takeTrap g.key p.sid
          (p.trapInfo cILLEGAL_INSTRUCTION 0 (g.splitLive p)) p.region).clearCur))

/-! ## System registers (R72) -/

/-- R72: a WRSR writes FFLAGS in each active thread, or, with a thread active, the group's register by its access code;
the group's other state and every other thread stay. -/
def Sys2Proof.Claims.SystemRegisterWrite : Prop :=
  ∀ (x : Wrsr) (s : State) (g : Group) (p : Split),
    let i := issueOf s g p x.view
    Issues s g p → Clear i x.view →
      (x.num = 0 →
        ∃ h, exec (.wrsr x) s = .next (goesOn s h (holding i x.view) false) ∧ RestKept i h ∧ LanesKept i x.view h
          ∧ Threads i (fun t th => if i.act.getLsbD t then { th with fflags := (i.val x.a 1 t).setWidth 5 } else th) h)
      ∧ (x.num ≠ 0 →
        ∃ h, exec (.wrsr x) s = .next (goesOn s (counted i h) (holding i x.view) false) ∧ LanesKept i x.view h
          ∧ h = { (if i.any then g.sysWrite x.num.toNat (i.uni x.a) else g) with v := h.v, seq := h.seq })

/-- R72, R123, R349: what a write of each system register leaves in it, as an RDSR then reads it: the handler's registers
take the handler's value, TVEC without its low six bits, DRPOS its bit 61 and DRAPERM its low four; out of a handler none of
them changes; writing 1 to GSTAT's bit 0 clears it in either. -/
def Sys2Proof.Claims.SystemRegisterAccess : Prop :=
  ∀ (s : State) (g : Group) (v : Word64),
    (∀ num, num ≠ 1 → g.priv = false → g.sysWrite num v = g)
    ∧ s.sysRead (g.sysWrite 1 v) 1 = (if v.getLsbD 0 then s.sysRead g 1 &&& ~~~1#64 else s.sysRead g 1)
    ∧ (g.priv = true →
        s.sysRead (g.sysWrite 0x15 v) 0x15 = v &&& 0xFFFFFFFFFFFFFFC0#64
        ∧ (∀ k, k < 4 → k < g.trap.scr.length → s.sysRead (g.sysWrite (0x20 + k) v) (0x20 + k) = v)
        ∧ (∀ n, n ≠ 61 → (s.sysRead (g.sysWrite 0x43 v) 0x43).getLsbD n = (s.sysRead g 0x43).getLsbD n)
        ∧ (s.sysRead (g.sysWrite 0x43 v) 0x43).getLsbD 61 = v.getLsbD 61
        ∧ s.sysRead (g.sysWrite 0x46 v) 0x46 = v ∧ s.sysRead (g.sysWrite 0x47 v) 0x47 = v ∧ s.sysRead (g.sysWrite 0x48 v) 0x48 = v
        ∧ s.sysRead (g.sysWrite 0x49 v) 0x49 = v &&& 15#64
        ∧ s.sysRead (g.sysWrite 0x2F0 v) 0x2F0 = v &&& 0x8000000000007FFF#64)

/-- WRSR and what each system register then reads. -/
def Obligations.SystemRegisters : Prop := Claims.SystemRegisterWrite ∧ Claims.SystemRegisterAccess

/-! ## Control (R68 to R71) -/

namespace Sys2Proof.Claims
open Sys2Proof.Machine

/-- The clause a displacement names (R68). -/
def clauseAt (p : Split) (disp : BitVec 18) : Word64 := p.pc + BitVec.ofInt 64 (64 * disp.toInt)

/-- A division into so many parts finds room among the group's splits or in its deferral entries (R91, R92). -/
def RoomToDivide (g : Group) (parts : List Part) : Prop :=
  parts.length ≤ 1 ∨ g.splits.length + (parts.length - 1) ≤ 4 ∨ g.deferCount + (parts.length - 1) ≤ 32

end Sys2Proof.Claims

/-- R56, R68: NOP has no effect, YIELD leaves a hint and PAUSE the end of the pause; nothing else changes but the issue
counters. -/
def Sys2Proof.Claims.HintsComplete : Prop :=
  ∀ (s : State) (g : Group) (p : Split), Issues s g p →
    (∀ x : INone, Clear (issueOf s g p x.view) x.view →
      exec (.nop x) s = .next (goesOn s (counted (issueOf s g p x.view) g) (holding (issueOf s g p x.view) x.view) false)
      ∧ exec (.yield x) s = .next (goesOn s (counted (issueOf s g p x.view) { g with yieldHint := true }) (holding (issueOf s g p x.view) x.view) false))
    ∧ (∀ x : Pause, Clear (issueOf s g p x.view) x.view →
      exec (.pause x) s = .next (goesOn s
        (counted (issueOf s g p x.view) (if (issueOf s g p x.view).any then { g with pauseEnd := s.cycle + x.n.toNat } else g))
        (holding (issueOf s g p x.view) x.view) false))

/-- R68, R69: BRA, CALL and RET send every thread of the split to one clause; CALL links the next clause, and RET
to an address that is no clause raises ALIGN. -/
def Sys2Proof.Claims.JumpsComplete : Prop :=
  ∀ (s : State) (g : Group) (p : Split), Issues s g p →
    (∀ x : Bra, Clear (issueOf s g p (x.view true)) (x.view true) →
      exec (.bra x) s = .next (goesTo s (counted (issueOf s g p (x.view true)) g) (holding (issueOf s g p (x.view true)) (x.view true))
        (mkParts [(g.splitLive p, Claims.clauseAt p x.disp)])))
    ∧ (∀ x : Call, Clear (issueOf s g p x.view) x.view →
      exec (.call x) s = .next (goesTo s (counted (issueOf s g p x.view) g)
        { holding (issueOf s g p x.view) x.view with s := p.s.set x.d.num (p.pc + 64) }
        (mkParts [(g.splitLive p, Claims.clauseAt p x.disp)])))
    ∧ (∀ x : Ret,
      let i := issueOf s g p x.view
      Clear i x.view → i.uni x.a &&& 63#64 = 0#64 →
        ∃ h, exec (.ret x) s = .next (goesTo s h (holding i x.view) (mkParts [(g.splitLive p, i.uni x.a)]))
          ∧ RestKept i h ∧ LanesKept i x.view h ∧ h.threads = g.threads)
    ∧ (∀ x : Ret,
      let i := issueOf s g p x.view
      Clear i x.view → i.uni x.a &&& 63#64 ≠ 0#64 →
        exec (.ret x) s = .next (((s.putGroup (g.putSplit p)).takeTrap g.key p.sid
          (p.trapInfo cALIGN (i.uni x.a) (g.splitLive p)) p.region).clearCur))

/-- NOP, YIELD, PAUSE, BRA, CALL and RET complete. It rests on the model's readings of log entry 40. -/
def Obligations.HintsAndJumps : Prop := Claims.HintsComplete ∧ Claims.JumpsComplete

/-- R68, R69: BRC sends the active threads to its target and BRX each to its own, the others of the split to the next
clause, where there is room to divide; in either one part too many raises SPLIT_DEPTH (R92), and a BRX target that is no clause
address ALIGN.
It rests on the model's readings of log entries 16, 40. -/
def Obligations.BranchesComplete : Prop :=
  ∀ (s : State) (g : Group) (p : Split), Issues s g p →
    (∀ x : Bra,
      let w := x.view false
      let i := issueOf s g p w
      let parts := mkParts [(i.act, Claims.clauseAt p x.disp), (g.splitLive p &&& ~~~i.act, p.pc + 64)]
      Clear i w → (parts.length ≤ 1 ∨ s.unchecked g.key p.sid p.region = false) →
        (Claims.RoomToDivide g parts → exec (.brc x) s = .next (goesTo s (counted i g) (holding i w) parts))
        ∧ (¬Claims.RoomToDivide g parts →
            exec (.brc x) s = .next (((s.putGroup (g.putSplit p)).takeTrap g.key p.sid (p.trapInfo cSPLIT_DEPTH 0 i.act) p.region).clearCur)))
    ∧ (∀ x : Brx,
      let i := issueOf s g p x.view
      let tgt (t : Nat) : Word64 := i.val x.a 2 t
      let taken := i.threads.map (fun t => (BitVec.twoPow 512 t, tgt t))
      let parts := mkParts (taken ++ [(g.splitLive p &&& ~~~(taken.foldl (fun m q => m ||| q.1) 0#512), p.pc + 64)])
      Clear i x.view →
        ((∀ t ∈ i.threads, tgt t &&& 63#64 = 0#64) → (parts.length ≤ 1 ∨ s.unchecked g.key p.sid p.region = false) →
          Claims.RoomToDivide g parts →
          ∃ h, exec (.brx x) s = .next (goesTo s h
              { holding i x.view with
                s := match x.link with
                  | some d => if i.any then p.s.set d.num (p.pc + 64) else p.s
                  | none => p.s } parts)
            ∧ RestKept i h ∧ LanesKept i x.view h ∧ h.threads = g.threads)
        ∧ ((∀ t ∈ i.threads, tgt t &&& 63#64 = 0#64) → ¬Claims.RoomToDivide g parts →
          exec (.brx x) s = .next (((s.putGroup (g.putSplit p)).takeTrap g.key p.sid (p.trapInfo cSPLIT_DEPTH 0 i.act) p.region).clearCur))
        ∧ (∀ t, t ∈ i.threads → (∀ u ∈ i.threads, u < t → tgt u &&& 63#64 = 0#64) → tgt t &&& 63#64 ≠ 0#64 →
            ∃ m : Mask, (∀ u, m.getLsbD u = (i.act.getLsbD u && tgt u &&& 63#64 != 0#64))
              ∧ exec (.brx x) s = .next (((s.putGroup (g.putSplit p)).takeTrap g.key p.sid (p.trapInfo cALIGN (tgt t) m) p.region).clearCur)))

/-- R70, R103: EXIT ends the active threads, whose pending IEEE flags are lost (R54), and the others of the split go on at the next
clause; no other thread of the group changes, but that parked threads exit where the team has no other thread left.
It rests on the model's readings of log entry 16. -/
def Obligations.ExitCompletes : Prop :=
  ∀ (x : INone) (s : State) (g : Group) (p : Split),
    let i := issueOf s g p x.view
    let s1 := (s.putGroup (g.putSplit p)).exitThreads g.key i.act
    Issues s g p → Clear i x.view → Checked i →
      ∃ h q, s1.group? g.key = some h ∧ h.split? p.sid = some q
        ∧ exec (.exit x) s = .next (goesTo s1 (counted i h) (q.pushLatch none) (mkParts [(g.splitLive p &&& ~~~i.act, p.pc + 64)]))
        ∧ (∀ t th, g.threads[t]? = some th → h.threads[t]? = some (
            if i.act.getLsbD t = true then { th with exited := true, pend := 0 }
            else if th.parked = true then { th with exited := th.exited || decide (s1.teamLive g.key.team = 0) } else th))
        ∧ s1.mem = s.mem ∧ s1.ops = s.ops

/-- R71: TRAP and BKPT, with a thread active, take SOFTWARE_TRAP with the code in TADDR, and BREAKPOINT where no debugger is
attached; both name the active threads. With a debugger BKPT halts the group before it (R397). -/
def Sys2Proof.Claims.TrapsOnRequest : Prop :=
  ∀ (s : State) (g : Group) (p : Split), Issues s g p →
    (∀ x : Trap,
      let i := issueOf s g p x.view
      Clear i x.view → i.any = true →
        exec (.trap x) s = .next (((s.putGroup (g.putSplit p)).takeTrap g.key p.sid
          (p.trapInfo cSOFTWARE_TRAP (x.code.setWidth 64) i.act) p.region).clearCur))
    ∧ (∀ x : INone,
      let i := issueOf s g p x.view
      Clear i x.view → i.any = true →
        (i.debugged = false →
          exec (.bkpt x) s = .next (((s.putGroup (g.putSplit p)).takeTrap g.key p.sid (p.trapInfo cBREAKPOINT 0 i.act) p.region).clearCur))
        ∧ (i.debugged = true →
          ∃ t h q, exec (.bkpt x) s = .next t ∧ t.group? g.key = some h ∧ h.split? p.sid = some q
            ∧ h.haltReq = true ∧ q = { p with st := .blocked .halted } ∧ t.mem = s.mem ∧ h.threads = g.threads ∧ h.v = g.v))

/-- R33, R34: the issue of a word whose opcode the map does not assign takes ILLEGAL_INSTRUCTION, whatever its predicate, for
every thread of the split. -/
def Sys2Proof.Claims.UnassignedOpcodeTraps : Prop :=
  ∀ (x : EvWord) (s : State) (g : Group) (p : Split), Issues s g p → p.word = x.w →
    exec (.unassignedOpcode x) s
      = .next ((s.takeTrap g.key p.sid (p.trapInfo cILLEGAL_INSTRUCTION 0 (g.splitLive p)) p.region).clearCur)


/-! ## Loads, stores and prefetches (R75 to R78, R119, R136, R219, R229, R270) -/

/-- TRAP, BKPT and unassigned opcodes take their exceptions. It rests on the model's readings of log entries 16, 42. -/
def Obligations.RequestedTraps : Prop := Claims.TrapsOnRequest ∧ Claims.UnassignedOpcodeTraps

namespace Sys2Proof.Claims
open Sys2Proof.Machine

/-- What each load accesses: its threads, their addresses, the a register, the width and where the values go. -/
def loads : Instr → Option (Iss → LoadSpec)
  | .ld x => some (fun i =>
      { threads := i.threads, ea := fun t => Int.ofNat (i.areg x.a).ptr.toNat + i.addrOff x.addr t, reg := i.areg x.a, size := x.w.bytes
        signed := x.w.signed, dest := .v x.d.num x.w.regs })
  | .ldu x => some (fun i =>
      { threads := [i.low], ea := fun t => Int.ofNat (i.areg x.a).ptr.toNat + i.addrOff x.addr t, reg := i.areg x.a, size := x.w.bytes
        signed := x.w.signed, dest := .s x.d.num })
  | .ldw x => some (fun i =>
      { threads := i.laneFirsts, ea := fun t => Int.ofNat (i.areg x.a).ptr.toNat + i.addrOff x.addr t, reg := i.areg x.a, size := x.w.bytes
        signed := x.w.signed, dest := .w x.d.num x.w.regs })
  | .ldAcq x => some (fun i =>
      { threads := i.threads, ea := fun t => Int.ofNat (i.areg x.a).ptr.toNat + i.addrOff x.addr t, reg := i.areg x.a
        size := if x.wide then 8 else 4, signed := false, dest := .v x.d.num (if x.wide then 2 else 1), ordered := true, scope := x.scope })
  | .ldra x => some (fun i =>
      { threads := i.threads, ea := fun t => Int.ofNat (i.areg x.a).ptr.toNat + i.addrOff x.addr t, reg := i.areg x.a
        size := if x.wide then 8 else 4, signed := false, dest := .v x.d.num (if x.wide then 2 else 1), ordered := true, scope := x.scope
        ldra := true })
  | _ => none

/-- The checks of a load's accesses (R76, R181, R189). -/
def loadWant (l : LoadSpec) : Want := { perm := .load, allowed := AReg.rd, size := l.size, placed := l.placed }

/-- The state once the walks of a load are over (R193, R382), and the private lines it fills (R169). -/
def readied (x : Iss) (l : LoadSpec) (got : Gathered) : State :=
  if l.reg.pv then (x.walked got).fillPrivate x.core x.g0.ctx got.pieces else x.walked got

/-- How an issue ends: it goes on, or, where some of its threads fault, the trap is taken with what the others did (R127). -/
def ends (x : Iss) (s : State) (h : Group) (q : Split) (info : Option TrapInfo) : State :=
  match info with
  | none => goesOn s h q false
  | some t => ((s.putGroup (h.putSplit q)).takeTrap x.g0.key x.p0.sid t x.p0.region).clearCur

/-- The issue counts (R208, R213) and the latch ages (R23) where no thread faults. -/
def countedIf (x : Iss) (info : Option TrapInfo) (h : Group) : Group := if info.isNone then counted x h else h
def holdingIf (x : Iss) (w : View) (info : Option TrapInfo) : Split := if info.isNone then holding x w else x.p0

/-- A load of one spec. Without request entries for its first pass it waits (R194). With them, the threads that pass their checks
are served: where a cache of the core has every byte the values are delivered with the issue, else one operation with their pieces
is under way, its destination awaits it and the flag counts. The other threads' fault is taken with that (R127). -/
def LoadIssues (i : Instr) (s : State) (g : Group) (p : Split) (w : View) (l : LoadSpec) : Prop :=
  let x := issueOf s g p w
  let got := x.gatherFor (loadWant l) l.reg l.threads l.ea
  let m := pieceMask got.pieces
  let info := faultOf got.faults .load (m != 0#512) p.iaddr p.word
  let fits := s.entriesFit x.core got.pieces
  let s2 := readied x l got
  let near := !l.ldra && fits.2 && l.threads.all (fun t => !s2.serveHeld g.key t)
  let ps := if near then got.pieces.map (fun q => s2.serveNow x.core g.ctx l.ordered q) else got.pieces
  let s3 := spent x (s2.dropBad x.core g.ctx (ps.filter (fun q => !q.open' && q.st != .done)))
  let now := ps = [] ∨ ((∀ q ∈ ps, q.st = .done) ∧ g.pairchk = false)
  let fenced (t : State) : State := if l.ordered then t.fenceLoads g.key m l.scope s.sched.nextId else t
  x.any = true →
    (fits.1 = false → exec i s = .next (s.waitAt g.key p.sid 0 none).clearCur)
    ∧ (fits.1 = true → DestRoom x w l.dest m →
      (now →
        ∃ h q, exec i s = .next (ends x (fenced (if l.ordered = true ∧ m ≠ 0#512 then s3.acquire g.key x.core g.ctx l.scope else s3)) h q info)
          ∧ h = countedIf x info { g with v := h.v, seq := h.seq, wr := h.wr, stale := h.stale, threads := h.threads }
          ∧ q = { holdingIf x w info with s := q.s }
          ∧ (m ≠ 0#512 → Delivered x w h q l.dest m (fun t => loadVal l.signed l.size (threadBytes ps t))))
      ∧ (¬now →
        ∃ h q, exec i s = .next (ends x ((fenced s3.freshId.2).addMemOp
              { x.memOp s.sched.nextId (if l.ldra then .ldra else .load) m ps l.dest l.size l.signed with
                scope := l.scope, acq := l.ordered, priv := l.reg.pv, checked := false }) h q info)
          ∧ h = flagged x (countedIf x info { g with v := h.v, seq := h.seq, wr := h.wr, stale := h.stale })
          ∧ Undelivered x w h q
          ∧ q = { holdingIf x w info with sBusy := awaiting p l.dest s.sched.nextId }
          ∧ Awaits h q l.dest (g.octets m) s.sched.nextId))
    ∧ (l.reg.pv = false → s3.mem.cells = s.mem.cells)

end Sys2Proof.Claims

/-- R78, R119, R127, R136, R194, R219, R229: LD, LDU, LDW, LD.ACQ and LDRA issue: the threads that pass every check commit, and the
fault of the others, if any, is taken with that; through an image that is not private no byte of memory changes.
It rests on the model's readings of log entries 3, 10, 17, 42. -/
def Obligations.LoadsIssue : Prop :=
  ∀ (i : Instr) (f : Iss → LoadSpec) (w : View), Claims.loads i = some f → i.view = some w →
    ∀ (s : State) (g : Group) (p : Split), Issues s g p → Clear (issueOf s g p w) w → Claims.LoadIssues i s g p w (f (issueOf s g p w))

namespace Sys2Proof.Claims
open Sys2Proof.Machine

/-- What each store accesses, with the bytes of each thread. -/
def stores : Instr → Option (Opnd × (Iss → StoreSpec))
  | .st x => some (x.d, fun i =>
      { ea := fun t => Int.ofNat (i.areg x.a).ptr.toNat + i.addrOff x.addr t, reg := i.areg x.a, size := x.w.bytes
        bytes := i.dataBytes x.d x.w.bytes })
  | .stRel x => some (x.d, fun i =>
      { ea := fun t => Int.ofNat (i.areg x.a).ptr.toNat + i.addrOff x.addr t, reg := i.areg x.a, size := if x.wide then 8 else 4
        bytes := i.dataBytes x.d (if x.wide then 8 else 4), ordered := true, scope := x.scope })
  | _ => none

/-- A store of one spec. Without request entries for its first pass it waits (R194). With them, the threads that pass their checks
store: their pieces carry their bytes; a store that nothing orders behind earlier accesses is performed for its core with the issue
(a private one in the L1), the others wait; what is not performed is one operation under way. The other threads' fault is taken
with that (R127). -/
def StoreIssues (i : Instr) (s : State) (g : Group) (p : Split) (w : View) (l : StoreSpec) : Prop :=
  let x := issueOf s g p w
  let got := x.gatherFor { perm := .store, allowed := AReg.wr, size := l.size, placed := l.placed } l.reg x.threads l.ea
  let m := pieceMask got.pieces
  let info := faultOf got.faults .store (m != 0#512) p.iaddr p.word
  let fits := s.entriesFit x.core got.pieces
  let s1 := x.walked got
  let late := l.ordered || !fits.2 || got.pieces.any (fun q => q.attr.sc)
    || x.threads.any (fun t => s.acquiring g.key t || s.releasing g.key t) || s.behind g.key got.pieces
  let qs := got.pieces.map (fun q => q.withData (l.bytes q.thread))
  let r := if late then (s1, qs) else s1.storesNow x.core g.ctx l.reg.pv qs
  x.any = true →
    (fits.1 = false → exec i s = .next (s.waitAt g.key p.sid 0 none).clearCur)
    ∧ (fits.1 = true →
      ((∀ q ∈ r.2, q.st = .done) →
        ∃ h, exec i s = .next (ends x (spent x r.1) h (holdingIf x w info) info)
          ∧ h = countedIf x info { g with v := h.v, seq := h.seq } ∧ LanesKept x w h)
      ∧ (¬(∀ q ∈ r.2, q.st = .done) →
        ∃ h, exec i s = .next (ends x (launched (spent x r.1)
            { x.memOp s.sched.nextId .store m r.2 .none l.size false with
              scope := l.scope, rel := l.ordered, priv := l.reg.pv, late := late }) h (holdingIf x w info) info)
          ∧ h = flagged x (countedIf x info { g with v := h.v, seq := h.seq }) ∧ LanesKept x w h))
    ∧ (l.reg.pv = false → r.1.mem.cells = s.mem.cells)
    ∧ r.2.map (fun q => (q.thread, q.pa, q.data)) = got.pieces.map (fun q => (q.thread, q.pa, (l.bytes q.thread).drop q.at0 |>.take q.size))

end Sys2Proof.Claims

/-- R78, R127, R194, R218, R219, R400: ST and ST.REL issue: the threads that pass every check commit, and the fault of the others, if
any, is taken with that; through an image that is not private no byte
of memory changes at the issue (the home's write comes with HOME_ACCESS).
It rests on the model's readings of log entries 10, 17, 40, 42. -/
def Obligations.StoresIssue : Prop :=
  ∀ (i : Instr) (d : Opnd) (f : Iss → StoreSpec) (w : View), Claims.stores i = some (d, f) → i.view = some w →
    ∀ (s : State) (g : Group) (p : Split), Issues s g p → Clear (issueOf s g p w) w (some d) →
      Claims.StoreIssues i s g p w (f (issueOf s g p w))

/-- R75, R76: PREF never faults and changes no register: with request entries for its first pass (R194) it goes on, with the pieces
that pass their checks as one prefetch under way, or nothing; without them it waits. No byte of memory changes.
It rests on the model's readings of log entries 10, 17. -/
def Obligations.PrefetchIssues : Prop :=
  ∀ (x : Pref) (s : State) (g : Group) (p : Split),
    let i := issueOf s g p x.view
    let got := i.gatherFor { perm := .load, allowed := AReg.rd, size := 1 } (i.areg x.a) i.threads
      (fun t => Int.ofNat (i.areg x.a).ptr.toNat + i.addrOff x.addr t)
    let s1 := i.walked got
    Issues s g p → Clear i x.view →
      (got.pieces = [] ∨ (s.entriesFit i.core got.pieces).1 = true →
        ∃ h, exec (.pref x) s = .next (goesOn
              (if got.pieces = [] then s1 else launched (spent i s1)
                (i.memOp s.sched.nextId (.pref (x.lvl == .l1)) (pieceMask got.pieces) got.pieces .none 1 false)) h (holding i x.view) false)
          ∧ RestKept i h ∧ LanesKept i x.view h ∧ h.threads = g.threads ∧ s1.mem.cells = s.mem.cells)
      ∧ (got.pieces ≠ [] → (s.entriesFit i.core got.pieces).1 = false →
        exec (.pref x) s = .next (s.waitAt g.key p.sid 0 none).clearCur)

/-- R127: of the faults of an instruction's threads the lowest cause code is reported, with every thread that met it, and the
address the lowest of them met.
It rests on the model's readings of log entry 17. -/
def Obligations.FaultSelection : Prop :=
  ∀ (fs : List ThrFault) (pm : Perm) (part : Bool) (ia inst : Word64),
    (fs = [] → faultOf fs pm part ia inst = none)
    ∧ (fs ≠ [] → (∀ e ∈ fs, e.thread < 512) →
      ∃ info e, faultOf fs pm part ia inst = some info ∧ e ∈ fs ∧ info.code = e.code ∧ info.addr = e.addr
        ∧ (∀ f ∈ fs, e.code.toNat ≤ f.code.toNat) ∧ (∀ f ∈ fs, f.code = e.code → e.thread ≤ f.thread)
        ∧ (∀ t, info.mask.getLsbD t = true ↔ ∃ f ∈ fs, f.code = e.code ∧ f.thread = t)
        ∧ info.part = part ∧ info.iaddr = ia ∧ info.inst = inst)

/-! ## Scratchpad (R140, R141, R144, R145) -/

namespace Sys2Proof.Claims
open Sys2Proof.Machine

/-- A thread's scratchpad offset (R141). -/
def offset (x : Iss) (base : Opnd) (a : Addr) (t : Nat) : Int := Int.ofNat ((x.val base 1 t).toNat % 2 ^ 32) + x.addrOff a t

end Sys2Proof.Claims

/-- R140, R141: LDL whose threads' ranges all lie in the team's scratchpad gives each active thread the bytes at its offset,
extended as its width says; memory and scratchpad stay.
It rests on the model's readings of log entry 14. -/
def Obligations.ScratchpadLoad : Prop :=
  ∀ (x : Sys2Proof.Mem) (s : State) (g : Group) (p : Split) (tm : Team),
    let w := x.view [.v] [.s] offSrc
    let i := issueOf s g p w
    let off (t : Nat) : Nat := (Claims.offset i x.a x.addr t).toNat
    Issues s g p → Clear i w → s.team? g.key.team = some tm →
      (∀ t, i.act.getLsbD t = true → tm.spadIn (Claims.offset i x.a x.addr t) x.w.bytes = true) → DestRoom i w (.v x.d.num x.w.regs) i.act →
      ∃ h, exec (.ldl x) s = .next (goesOn s h (holding i w) false)
        ∧ h = counted i { g with v := h.v, seq := h.seq }
        ∧ LanesOf i w i.act x.d.num x.w.regs (fun t => loadVal x.w.signed x.w.bytes (cellRead tm.spad (off t) x.w.bytes)) h

/-- R140, R141: STL whose threads' ranges all lie in the team's scratchpad stores each active thread's bytes there, the highest
thread's standing where ranges overlap; every byte outside the ranges reads as before, and nothing else changes. -/
def Obligations.ScratchpadStore : Prop :=
  ∀ (x : Sys2Proof.Mem) (s : State) (g : Group) (p : Split) (tm : Team),
    let w := x.view dataSrc [.s] offSrc
    let i := issueOf s g p w
    let off (t : Nat) : Nat := (Claims.offset i x.a x.addr t).toNat
    let put (c : List Host.Cell) (t : Nat) : List Host.Cell := cellWrite c (off t) (i.dataBytes x.d x.w.bytes t)
    Issues s g p → Clear i w (some x.d) → s.team? g.key.team = some tm → cellsWf tm.spad = true →
      (∀ t, i.act.getLsbD t = true → tm.spadIn (Claims.offset i x.a x.addr t) x.w.bytes = true) →
      ∃ h, exec (.stl x) s = .next (goesOn (s.modTeam g.key.team (fun t => { t with spad := i.threads.foldl put t.spad })) h (holding i w) false)
        ∧ RestKept i h ∧ LanesKept i w h ∧ h.threads = g.threads
        ∧ (∀ a, (∀ t, i.act.getLsbD t = true → a < off t ∨ off t + x.w.bytes ≤ a) →
            cellGet (i.threads.foldl put tm.spad) a = cellGet tm.spad a)
        ∧ (∀ t k, i.act.getLsbD t = true → k < x.w.bytes →
            (∀ u, i.act.getLsbD u = true → t < u → off t + k < off u ∨ off u + x.w.bytes ≤ off t + k) →
            cellGet (i.threads.foldl put tm.spad) (off t + k) = (i.dataBytes x.d x.w.bytes t).getD k 0)

/-- R144, R145: ATOML whose threads' addresses are aligned and in the scratchpad performs the threads' operations in ascending
order, each on what the one before left, and gives each thread the old value; the split's region ends (R126).
It rests on the model's readings of log entry 14. -/
def Obligations.ScratchpadAtomic : Prop :=
  ∀ (x : AtomL) (s : State) (g : Group) (p : Split) (tm : Team),
    let w := x.view
    let i := issueOf s g p w
    let n := if x.ty.wide then 8 else 4
    let off (t : Nat) : Nat := (i.val x.a 1 t).toNat % 2 ^ 32
    let upd (c : List Host.Cell) (t : Nat) : List Host.Cell :=
      cellWrite c (off t) (leBytes n (lopNew x.op (LTy.signed x.ty) (8 * n) (BitVec.ofNat 64 (leNat (cellRead c (off t) n)))
        (i.src x.b (n / 4) t) ((x.cmp.map (fun o => i.val o (n / 4) t)).getD 0)).toNat)
    Issues s g p → Clear i w → Checked i → (g.det = true → i.any = true → i.teamGroups ≤ 1 ∧ i.holdsAll = true) →
      s.team? g.key.team = some tm → RoomFor i w x.d (n / 4) →
      (∀ t, i.act.getLsbD t = true → off t % n = 0 ∧ tm.spadIn (Int.ofNat (off t)) n = true) →
      ∃ h, exec (.atoml x) s = .next (goesOn
            (s.modTeam g.key.team (fun t => { t with spad := i.threads.foldl upd t.spad })) h
            { holding i w with region := none } x.b.isLit)
        ∧ RestKept i h ∧ h.threads = g.threads
        ∧ Lanes i w x.d (n / 4) (fun t => BitVec.ofNat 64 (leNat (cellRead ((i.threads.takeWhile (fun u => u ≠ t)).foldl upd tm.spad) (off t) n))) h


/-! ## Copies (R126, R146 to R153) -/

namespace Sys2Proof.Claims
open Sys2Proof.Machine

/-- Copy operations have joined their channel's queue (R146), and their numbers are taken. -/
def queued (s : State) (ops : List CopyOp) : State :=
  { s with sched := { s.sched with nextId := s.sched.nextId + ops.length }, ops := { s.ops with copies := s.ops.copies ++ ops } }

/-- The operation a copy instruction makes of some units. -/
def copyOp (x : Iss) (kind : CopyKind) (ch n : Nat) (us : List CopyUnit) (snap : Bool) : CopyOp :=
  { id := x.s0.sched.nextId + n, kind := kind, g := x.g0.key, core := x.g0.core, ctx := x.g0.ctx, ch := ch, threads := x.act, units := us
    snap := snap, snapshot := none, done := 0, flag := x.flag?, inst := x.s0.sched.nextId, heldAt := none, retries := 0 }

/-- Words of a linear copy: every word of each member's range once, ascending, from its source to its destination. -/
def Words (l : LinSpec) (src dst : Nat) (us : List CopyUnit) : Prop :=
  us.map (fun u => (u.src, u.dst, u.len)) = (List.range (l.len / 4)).map (fun n => (src + 4 * n, dst + 4 * n, 4))

/-- A linear copy whose operands are aligned and whose members' words all pass their checks. -/
def LinearIssues (i : Instr) (s : State) (g : Group) (p : Split) (w : View) (l : LinSpec) : Prop :=
  let x := issueOf s g p w
  ∀ units : Nat → List CopyUnit, x.any = true →
    copyMisaligned l.pm l.len l.stride (match l.kind with | .out => l.src | _ => l.dst) (match l.reg with | some a => a.ptr.toNat | none => l.src) = none →
    (∀ a, l.reg = some a → a.pv = false) → (x.linOverlap l = true → Checked x) →
    (∀ t ∈ x.copyMembers l.pm, x.linUnits l t = .ok (units t)) →
      (∃ h, exec i s = .next (goesOn
            (queued s ((x.copyMembers l.pm).mapIdx (fun n t => copyOp x l.kind l.ch n (units t) (x.linOverlap l)))) h
            { holding x w with region := if x.linOverlap l then none else p.region } false)
          ∧ RestKeptFlagged x h ∧ LanesKept x w h ∧ h.wr = g.wr)
      ∧ ∀ t ∈ x.copyMembers l.pm,
          let add := if l.pm then g.memberOf t * l.stride else 0
          match l.kind, l.reg with
          | .out, some a => Words l (l.src + add) a.ptr.toNat (units t)
          | _, some a => Words l a.ptr.toNat (l.dst + add) (units t)
          | .out, none => True
          | _, none => Words l (l.src + add) (l.dst + add) (units t)

end Sys2Proof.Claims

/-- R126, R146, R147, R150: CPY and CPYOUT whose operands are aligned and whose members' words pass their checks queue one
operation for each member, its words ascending; nothing is moved at the issue. A copy whose ranges overlap is marked to read all of
its source before it writes, and ends the region. -/
def Sys2Proof.Claims.LinearCopiesIssue : Prop :=
  ∀ (s : State) (g : Group) (p : Split), Issues s g p →
    (∀ x : Cpy, Clear (issueOf s g p x.view) x.view (some x.d) →
      let i := issueOf s g p x.view
      Claims.LinearIssues (.cpy x) s g p x.view
        { kind := if x.lin then .spadToSpad else .toSpad, ch := x.ch.toNat, pm := x.pm, reg := if x.lin then none else some (i.areg x.a)
          src := if x.lin then (i.uni x.a).toNat else 0, dst := (i.uni x.d).toNat, len := (i.uni x.b).toNat % 2 ^ 32
          stride := (i.uni x.b).toNat / 2 ^ 32 })
    ∧ (∀ x : CpyOut, Clear (issueOf s g p x.view) x.view (some x.d) →
      let i := issueOf s g p x.view
      Claims.LinearIssues (.cpyout x) s g p x.view
        { kind := .out, ch := x.ch.toNat, pm := x.pm, reg := some (i.areg x.d), src := (i.uni x.a).toNat, dst := 0
          len := (i.uni x.b).toNat % 2 ^ 32, stride := (i.uni x.b).toNat / 2 ^ 32 })

/-- R148, R149, R150: CPYH with a legal, aligned descriptor and an image that is not private, whose members' rows pass their
checks, queues one operation that delivers the rows of all members, row by row, members in order. -/
def Sys2Proof.Claims.HaloCopyIssues : Prop :=
  ∀ (x : CpyH) (s : State) (g : Group) (p : Split) (rows : Nat → List CopyUnit),
    let i := issueOf s g p x.view
    let d := haloDesc (p.s.getD x.b.num 0) (p.s.getD (x.b.num + 1) 0)
    let a := i.areg x.a
    let base := (i.uni x.d).toNat
    Issues s g p → Clear i x.view (some x.d) → i.any = true →
      d.reserved = false → d.nc * d.e ≤ d.lpitch → base % 4 = 0 → d.lpitch % 4 = 0 → d.mstride % 4 = 0 → a.ptr.toNat % d.e = 0 →
      d.gpitch % (d.e : Int) = 0 → a.pv = false →
      (∀ t ∈ i.copyMembers true, i.haloUnits d a base t = .ok (rows t)) →
      (∃ h, exec (.cpyh x) s = .next (goesOn
            (Claims.queued s [Claims.copyOp i .toSpad x.ch.toNat 0
              ((List.range d.nr).flatMap (fun r => (i.copyMembers true).filterMap (fun t => (rows t)[r]?))) false]) h (holding i x.view) false)
          ∧ RestKeptFlagged i h ∧ LanesKept i x.view h ∧ h.wr = g.wr)
      ∧ ∀ t ∈ i.copyMembers true,
          (rows t).map (fun u => (u.dst, u.len)) = (List.range d.nr).map (fun r => (base + g.memberOf t * d.mstride + r * d.lpitch, d.nc * d.e))

/-- CPY, CPYOUT and CPYH queue channel operations. It rests on the model's readings of log entries 10, 20, 40. -/
def Obligations.CopiesIssue : Prop := Claims.LinearCopiesIssue ∧ Claims.HaloCopyIssues

/-- R153: CPYWP reads the channel's write pointer into its s register, and with RST clears it once the team has nothing under
way on the channel; until then the split waits. CPYWAIT goes on once the pointer has reached its value or failed. A wait that a save
record resumes has the value of the record (R211).
It rests on the model's readings of log entries 20, 40. -/
def Obligations.WritePointers : Prop :=
  ∀ (s : State) (g : Group) (p : Split) (tm : Team), Issues s g p → s.team? g.key.team = some tm →
    (∀ x : CpyWp,
      let i := issueOf s g p x.view
      let busy := s.ops.copies.any (fun o => o.g.team = g.key.team && o.core = g.core && o.ch = x.ch.toNat) && p.bound != some 0
      let ptr := tm.ptr (g.half tm) x.ch.toNat
      Clear i x.view → (x.rst = true → Checked i) → i.any = true →
        (x.rst = true → busy = true → exec (.cpywp x) s = .next (s.waitAt g.key p.sid wWRITEPTR none).clearCur)
        ∧ ((x.rst = true → busy = false) → ∃ h, exec (.cpywp x) s = .next (goesOn
              (if x.rst then s.modTeam g.key.team (fun t => t.putPtr (WPtr.zero ptr.half x.ch.toNat)) else s) h
              { holding i x.view with s := p.s.set x.d.num (BitVec.ofNat 64 (ptr.count % 2 ^ 63 + (if ptr.failed then 2 ^ 63 else 0)))
                                      region := if x.rst then none else p.region } false)
            ∧ RestKept i h ∧ LanesKept i x.view h ∧ h.threads = g.threads))
    ∧ (∀ x : CpyWait,
      let i := issueOf s g p x.view
      let ptr := tm.ptr (g.half tm) x.ch.toNat
      let value := p.bound.getD (i.uniSrc x.b)
      Clear i x.view →
        (i.any = false ∨ ptr.failed = true ∨ value.toNat ≤ ptr.count →
          ∃ h, exec (.cpywait x) s = .next (goesOn s h (holding i x.view) x.b.isLit) ∧ RestKept i h ∧ LanesKept i x.view h ∧ h.threads = g.threads)
        ∧ (i.any = true → ptr.failed = false → ptr.count < value.toNat →
          exec (.cpywait x) s = .next (s.waitAt g.key p.sid wWRITEPTR none).clearCur))

/-! ## Barriers, launching and completion (R154 to R161) -/

namespace Sys2Proof.Claims
open Sys2Proof.Machine

/-- A barrier after some arrivals count toward its generation (R156): the first of them sets the expected count, explicit or
the team's live threads; where the arrivals reach it and no deferred arrival is pending in the generation, the generation ends
and what is over goes to the next. -/
def barrierAfter (t : Team) (n count explicit live : Nat) (det : Bool) : Barrier :=
  let b := t.bar n
  let exp := if b.exp = .unset then (if explicit = 0 then Expect.default else .count explicit) else b.exp
  let need := match exp with
    | .count k => k
    | _ => live
  if need ≤ b.arr + count ∧ t.defers.any (fun d => d.bar = n && d.gen = b.gen + 1) = false then
    ⟨b.gen + 1, .unset, b.arr + count - need, b.lasts.filter (fun l => l.gen ≠ b.gen + 1),
      b.elected ++ (electLast det (b.lasts.filter (fun l => l.gen = b.gen + 1))).toList⟩
  else { b with arr := b.arr + count, exp := exp }

/-- The arrivals of a split counted toward a barrier of its team. -/
def arrived (s : State) (k : TeamKey) (n count explicit : Nat) : State :=
  s.modTeam k (fun t => { t with bars := t.bars.set n (barrierAfter t n count explicit (s.teamLive k) (s.teamDet k)) })

/-- An arriving instruction with a legal count, an active thread, and its earlier accesses at the team (R155, R157). -/
structure MayArrive (x : Iss) (b : Src) (tm : Team) : Prop where
  some : x.any = true
  count : (x.uniSrc b).toNat ≤ 16384
  released : x.s0.earlierMet x.g0.key x.act x.s0.sched.nextId .team = true
  team : x.s0.team? x.g0.key.team = .some tm
  bars : tm.bars.length = 16

end Sys2Proof.Claims

/-- R155, R156, R157: BAR.ARR counts the active threads toward its barrier and gives the token, the generation they arrived
in. BAR.SYNC counts them and goes on as an acquire where that generation is over, else it blocks on it, in its region still
(R130). BAR.WAIT does the
same of the token its register holds.
It rests on the model's readings of log entry 20. -/
def Obligations.BarriersIssue : Prop :=
  ∀ (s : State) (g : Group) (p : Split) (tm : Team), Issues s g p →
    (∀ x : BarD,
      let w := x.view [.s]
      let i := issueOf s g p w
      Clear i w → Checked i → Claims.MayArrive i x.b tm →
        ∃ h, exec (.barArr x) s = .next (goesOn (Claims.arrived s g.key.team x.bar.toNat i.threads.length (i.uniSrc x.b).toNat) h
            { holding i w with s := p.s.set x.d.num (((tm.bar x.bar.toNat).gen + 1).setWidth 64), region := none } x.b.isLit)
          ∧ RestKept i h ∧ LanesKept i w h ∧ h.threads = g.threads)
    ∧ (∀ x : BarSync,
      let i := issueOf s g p x.view
      let tok := (tm.bar x.bar.toNat).gen + 1
      let s1 := Claims.arrived s g.key.team x.bar.toNat i.threads.length (i.uniSrc x.b).toNat
      let gen := (Claims.barrierAfter tm x.bar.toNat i.threads.length (i.uniSrc x.b).toNat (s.teamLive g.key.team) (s.teamDet g.key.team)).gen
      Clear i x.view → Checked i → Claims.MayArrive i x.b tm →
        ∃ h, RestKept i h ∧ LanesKept i x.view h ∧ h.threads = g.threads
          ∧ exec (.barSync x) s = .next (
              if (gen - tok).toNat < 2 ^ 31 then
                goesOn (s1.acquire g.key i.core g.ctx .team) h { holding i x.view with region := none } x.b.isLit
              else blocksOn s1 h (holding i x.view) (.barrier x.bar.toNat tok i.threads.length)))
    ∧ (∀ x : BarWait,
      let i := issueOf s g p x.view
      let tok := (i.uni x.a).setWidth 32
      Clear i x.view → i.any = true → s.team? g.key.team = some tm →
        ∃ h, RestKept i h ∧ LanesKept i x.view h ∧ h.threads = g.threads
          ∧ exec (.barWait x) s = .next (
              if ((tm.bar x.bar.toNat).gen - tok).toNat < 2 ^ 31 then goesOn (s.acquire g.key i.core g.ctx .team) h (holding i x.view) false
              else blocksOn s h (holding i x.view) (.barrier x.bar.toNat tok 0)))

/-- R155, R158, R162: BAR.DEFER gives the token; with no copy of the group under way on its channels, and its accesses at the
team, it counts the threads at once, else it registers one deferred arrival for each, bound to those copies. -/
def Sys2Proof.Claims.DeferredArrivalIssues : Prop :=
  ∀ (x : BarDefer) (s : State) (g : Group) (p : Split) (tm : Team),
    let i := issueOf s g p x.view
    let n := x.bar.toNat
    let tok := (tm.bar n).gen + 1
    let ops := (s.ops.copies.filter (fun o => o.g = g.key && x.chans.getLsbD o.ch)).map CopyOp.id
    let count := (i.uniSrc x.b).toNat
    let here := ops = [] ∧ s.earlierMet g.key i.act s.sched.nextId .team = true
    let reg := i.threads.mapIdx (fun a t => (⟨s.sched.nextId + a, n, tok, g.key, t, ops⟩ : DeferredArr))
    Issues s g p → Clear i x.view → Checked i → i.any = true → count ≤ 16384 → s.team? g.key.team = some tm → tm.bars.length = 16 →
      ∃ h, RestKept i h ∧ LanesKept i x.view h ∧ h.threads = g.threads
        ∧ exec (.barDefer x) s = .next (goesOn
            (if here then Claims.arrived s g.key.team n i.threads.length count
             else (s.setSched { s.sched with nextId := s.sched.nextId + reg.length }).modTeam g.key.team (fun t => { t.arrive n 0 count with defers := t.defers ++ reg }))
            h { holding i x.view with s := p.s.set x.d.num (tok.setWidth 64), region := none } x.b.isLit)

/-- R159: BAR.LAST arrives and waits as BAR.SYNC does; where the generation is over with the arrival, its predicate tells each
active thread whether the split's arrival was elected; an arrival is entered under the highest thread that its split holds. -/
def Sys2Proof.Claims.LastArrivalIssues : Prop :=
  ∀ (x : BarD) (n : BitVec 3) (s : State) (g : Group) (p : Split) (tm : Team),
    let w := x.view [.p]
    let i := issueOf s g p w
    let k := x.bar.toNat
    let tok := (tm.bar k).gen + 1
    let arrival : LastArr := ⟨tok, g.key.group, p.sid, ((maskThreads g.f (g.splitLive p)).getLast?).getD 0⟩
    let enter (t : Team) : Team := { t with bars := t.bars.set k { t.bar k with lasts := (t.bar k).lasts ++ [arrival] } }
    let s1 := Claims.arrived (s.modTeam g.key.team enter) g.key.team k i.threads.length (i.uniSrc x.b).toNat
    let b := Claims.barrierAfter (enter tm) k i.threads.length (i.uniSrc x.b).toNat ((s.modTeam g.key.team enter).teamLive g.key.team)
      ((s.modTeam g.key.team enter).teamDet g.key.team)
    let won := b.elected.any (fun l => l.gen = tok && l.group = g.key.group && l.sid = p.sid)
    Issues s g p → Clear i w → Checked i → Claims.MayArrive i x.b tm → x.d = .p n → g.pairchk = false →
      ∃ h, RestKept i h ∧ LanesKept i w h
        ∧ exec (.barLast x) s = .next (
            if (b.gen - tok).toNat < 2 ^ 31 then
              goesOn ((s1.acquire g.key i.core g.ctx .team).dropElected g.key p.sid k tok) h { holding i w with region := none } x.b.isLit
            else blocksOn s1 h (holding i w) (.barLast k tok n i.act))
        ∧ Threads i (fun u th => if i.act.getLsbD u = true ∧ (b.gen - tok).toNat < 2 ^ 31 then th.setPred n won else th) h

/-- BAR.DEFER and BAR.LAST. It rests on the model's readings of log entry 20. -/
def Obligations.ArrivalsIssue : Prop := Claims.DeferredArrivalIssues ∧ Claims.LastArrivalIssues

namespace Sys2Proof.Claims
open Sys2Proof.Machine

/-- What the machine is after a core's own read at an issue: the request is held back no more (R375), its pages are in the translation
buffers (R193), its lines stand in their home L2 and its M-dies are touched (R175, R382). -/
def readBy (i : Iss) (s : State) (ps : List Piece) : State := (s.unhold i.holdKey).readSeen i.core i.g0.ctx ps

/-- A class T fault that the instruction raises, with what its reading has left. -/
def refusal (s : State) (g : Group) (p : Split) (m : Mask) (code : BitVec 8) (addr : Word64) : State :=
  ((s.putGroup (g.putSplit p)).takeTrap g.key p.sid (p.trapInfo code addr m) p.region).clearCur

end Sys2Proof.Claims

/-- R160, R200: LAUNCH with a record that passes its checks writes it, arguments and all, to the next entry of its queue, and
gives the handle: the context, the queue and the context's next count; while the queue is full it waits (step 4). A queue of 64 or
more, and a record that fails a check, raise LAUNCH_INVALID with the record's address. The devices it needs are reached.
It rests on the model's readings of log entries 25, 39. -/
def Obligations.LaunchIssues : Prop :=
  ∀ (x : LaunchI) (s : State) (g : Group) (p : Split) (c : Context),
    let i := issueOf s g p x.view
    let q := (i.uniSrc x.q).toNat
    let n := countOf c.qtail q
    let handle := c.id * 2 ^ 54 + q * 2 ^ 48 + (c.seq + 1) % 2 ^ 48
    let invalid (s : State) := .next (Claims.refusal s g p i.act cLAUNCH_INVALID (i.areg x.a).ptr)
    Issues s g p → Clear i x.view → Checked i → i.any = true →
      (64 ≤ q → exec (.launch x) s = invalid s)
      ∧ ∀ (raw : List Byte) (ps : List Piece) (r : LRec) (nargs : Nat) (sound : Bool), q < 64 → s.earlierMet g.key i.act s.sched.nextId .dev = true →
        i.readRecord (i.areg x.a) = .ok (raw, ps) → i.owes ps = false → parseRec raw = (r, nargs, sound) → s.ctx? g.ctx = some c →
          (s.recordOk c.id r nargs sound = false → exec (.launch x) s = invalid (Claims.readBy i s ps))
          ∧ ∀ counts, s.recordOk c.id r nargs sound = true → s.readResv c.id r = some counts →
            (r.resv = 0 ∨ s.devFar c.id r.resv.toNat (4 * r.teams) .load = none) →
            (c.qdepth ≤ (n - countOf c.qhead q).toNat → exec (.launch x) s = .next (s.waitAt g.key p.sid wLAUNCHDEP none).clearCur)
            ∧ ∀ s1, (n - countOf c.qhead q).toNat < c.qdepth →
              let at0 := c.qbase.toNat + q * c.qdepth * 256 + n.toNat % c.qdepth * 256
              let read := Claims.readBy i s ps
              let counted := if r.resv = 0 then read else read.devTouch c.id r.resv.toNat (4 * r.teams) .load
              s.devFar c.id at0 raw.length .store = none → (counted.devTouch c.id at0 raw.length .store).devWrite c.id at0 raw = some s1 →
                ∃ h, exec (.launch x) s = .next (goesOn
                      (spent i ((s1.setSched { s1.sched with nextOrder := s1.sched.nextOrder + 1 }).modCtx c.id (fun c => { c with
                        seq := c.seq + 1, qtail := insertKey c.qtail q (n + 1)
                        pre := c.pre ++ [⟨q, n, handle, s1.sched.nextOrder, r.bitmap != 0, counts⟩] }))) h
                      { holding i x.view with s := p.s.set x.d.num (BitVec.ofNat 64 handle), region := none } false)
                  ∧ RestKept i h ∧ LanesKept i x.view h ∧ h.threads = g.threads

/-- R125, R126, R161: TDONE, once the class T checks of its region have passed, marks each active thread done, once; the split's
region ends, and nothing else changes. -/
def Sys2Proof.Claims.DoneMarks : Prop :=
  ∀ (x : INone) (s : State) (g : Group) (p : Split),
    let i := issueOf s g p x.view
    Issues s g p → Clear i x.view →
      (Checked i →
        ∃ h, exec (.tdone x) s = .next (goesOn s h { holding i x.view with region := none } false) ∧ RestKept i h ∧ h.v = g.v
          ∧ Threads i (fun t th => if i.act.getLsbD t && th.done.isNone then { th with done := some s.sched.nextId } else th) h)
      ∧ (¬Checked i → exec (.tdone x) s = .next (s.waitAt g.key p.sid 0 none).clearCur)

/-! ## Regrouping (R98, R138) -/

/-- R98, R125, R138, R249: at REGRP and REGRET a split whose accesses are checked and released blocks with each active thread's
key, 15 at REGRET, the threads it does not hold marked; its region stands until the sort. -/
def Sys2Proof.Claims.RegroupArrives : Prop :=
  ∀ (s : State) (g : Group) (p : Split), Issues s g p →
    (∀ x : Regrp,
      let i := issueOf s g p x.view
      Clear i x.view → i.any = true → Checked i → s.earlierMet g.key i.act s.sched.nextId .team = true →
        ∃ h, exec (.regrp x) s = .next (blocksOn (s.setSched { s.sched with nextOrder := s.sched.nextOrder + 1 }) h (holding i x.view)
              (.corral false x.vb.num x.n.toNat s.sched.nextOrder
                ((List.range g.f).map (fun t => if i.act.getLsbD t then (i.val x.key 1 t).toNat % 16 else 16))))
          ∧ RestKept i h ∧ LanesKept i x.view h ∧ h.threads = g.threads)
    ∧ (∀ x : Regret,
      let i := issueOf s g p x.view
      Clear i x.view → i.any = true → Checked i → s.earlierMet g.key i.act s.sched.nextId .team = true →
        ∃ h, exec (.regret x) s = .next (blocksOn (s.setSched { s.sched with nextOrder := s.sched.nextOrder + 1 }) h (holding i x.view)
              (.corral true x.vb.num x.n.toNat s.sched.nextOrder ((List.range g.f).map (fun t => if i.act.getLsbD t then 15 else 16))))
          ∧ RestKept i h ∧ LanesKept i x.view h ∧ h.threads = g.threads)

/-- TDONE marks threads; REGRP and REGRET arrive. It rests on the model's readings of log entry 24. -/
def Obligations.DoneAndRegroup : Prop := Claims.DoneMarks ∧ Claims.RegroupArrives

/-! ## Atomics, order and monitors (R221 to R231) -/

namespace Sys2Proof.Claims
open Sys2Proof.Machine

/-- ATOM, RED and REDLA: the source that stands in the DST field and what each does. -/
def atomics : Instr → Option (Option Opnd × (Iss → AtomSpec))
  | .atom x => some (some x.d, fun i =>
      { kind := .atomic x.op x.wide true, size := if x.wide then 8 else 4, reg := i.areg x.a
        ea := fun t => Int.ofNat (i.areg x.a).ptr.toNat + i.offVal x.b t * x.scale.factor
        arg := i.atomArg x.op x.wide x.d, scope := x.scope, acq := x.ord == .acq || x.ord == .ar, rel := x.ord == .rel || x.ord == .ar
        dest := .v x.d.num (if x.wide then 2 else 1), placed := natural (if x.wide then 8 else 4) true })
  | .red x => some (some x.d, fun i =>
      { kind := .atomic x.op x.wide false, size := if x.wide then 8 else 4, reg := i.areg x.a
        ea := fun t => Int.ofNat (i.areg x.a).ptr.toNat + i.offVal x.b t * x.scale.factor
        arg := i.atomArg x.op x.wide x.d, scope := x.scope, acq := x.ord == .acq || x.ord == .ar, rel := x.ord == .rel || x.ord == .ar
        dest := .none, placed := natural (if x.wide then 8 else 4) true })
  | .redla x => some ((match x.src with | .value _ d => some d | .image _ => none), fun i =>
      { kind := .redla x.kw (match x.src with | .image _ => none | .value f _ => some f), size := if x.kw then 280 else 56, reg := i.areg x.a
        ea := fun t => Int.ofNat (i.areg x.a).ptr.toNat + i.offVal x.b t * x.scale.factor
        arg := fun t => match x.src with
          | .image n => ⟨t, 0, 0, i.img t n.toNat⟩
          | .value f d => ⟨t, i.val d f.regs t, 0, none⟩
        scope := x.scope, acq := false, rel := x.rel, dest := .none
        allowed := fun a => a.atm && !a.pv, placed := fun _ a => slotAt x.kw a })
  | _ => none

/-- What REDLA asks of an image in an x register (R261, R271): bound in the lowest active thread, not awaited, and not wide
where the slot is narrow. -/
def imageFits (i : Instr) (x : Iss) : Prop :=
  match i with
  | .redla y =>
    (match y.src with
     | .image n => x.accAwaited [n.toNat] = none ∧ ∃ m, x.bound n.toNat = some m ∧ (m.wide = true → y.kw = true)
     | .value _ _ => True)
  | _ => True

/-- DET_VIOLATION is raised instead in deterministic mode (R295). -/
def barredInDet (i : Instr) : Prop :=
  match i with
  | .atom _ => True
  | .red x => x.op = .fadd
  | _ => False

end Sys2Proof.Claims

/-- R194, R221, R223, R271: ATOM, RED and REDLA all of whose threads pass their checks put one operation under way with every
active thread's piece and operands; memory changes only where it is executed. The region ends (R126), the destination awaits
the old values, the flag counts. Without request entries for its first pass it waits. Where a thread fails a check none takes effect
(R223). In deterministic mode ATOM and a RED of FADD raise DET_VIOLATION (R295). -/
def Sys2Proof.Claims.AtomicsIssue : Prop :=
  ∀ (i : Instr) (d : Option Opnd) (f : Iss → AtomSpec) (w : View), Claims.atomics i = some (d, f) → i.view = some w →
    ∀ (s : State) (g : Group) (p : Split),
      let x := issueOf s g p w
      let l := f x
      let got := x.gatherFor { perm := .atomic, allowed := l.allowed, size := l.size, placed := l.placed } l.reg x.threads l.ea
      let s1 := (spent x ((x.walked got).dropLines x.core g.ctx got.pieces)).freshId.2
      let trapped (s0 : State) (info : TrapInfo) : State := ((s0.putGroup (g.putSplit p)).takeTrap g.key p.sid info p.region).clearCur
      Issues s g p → Clear x w d → Checked x → x.any = true →
        ((g.det = true → ¬Claims.barredInDet i) → Claims.imageFits i x → got.faults = [] → (s.entriesFit x.core got.pieces).1 = true →
          DestRoom x w l.dest x.act →
          ∃ h q, exec i s = .next (goesOn ((if l.acq then s1.fenceLoads g.key x.act l.scope s.sched.nextId else s1).addMemOp
                { x.memOp s.sched.nextId l.kind x.act got.pieces l.dest l.size false with
                  args := x.threads.map l.arg, scope := l.scope, acq := l.acq, rel := l.rel }) h q false)
            ∧ q = { holding x w with region := none } ∧ RestKeptFlagged x h ∧ Undelivered x w h q ∧ Awaits h q l.dest (g.octets x.act) s.sched.nextId)
        ∧ ((g.det = true → ¬Claims.barredInDet i) → Claims.imageFits i x → got.faults = [] → (s.entriesFit x.core got.pieces).1 = false →
            exec i s = .next (s.waitAt g.key p.sid 0 none).clearCur)
        ∧ (∀ info, (g.det = true → ¬Claims.barredInDet i) → Claims.imageFits i x →
            faultOf got.faults .atomic false p.iaddr p.word = some info →
              exec i s = .next (trapped ((got.faults.filterMap ThrFault.page).foldl (fun (s : State) q => s.touchWalk x.core g.ctx q.at0) s) info))
        ∧ (g.det = true → Claims.barredInDet i → exec i s = .next (trapped s (p.trapInfo cDET_VIOLATION 0 x.act)))

/-- R226: ATOMR whose total stays within the team's reserved count gives each active thread, ascending, the base and the
offset before its own size, and advances the split's register by the total; beyond the count it faults. -/
def Sys2Proof.Claims.ReservedOffsets : Prop :=
  ∀ (x : UBin) (s : State) (g : Group) (p : Split) (tm : Team),
    let w := x.atomrView
    let i := issueOf s g p w
    let size (t : Nat) : Nat := (i.src x.b 1 t).toNat % 2 ^ 32
    let before (t : Nat) : Nat := (i.uni x.a).toNat + ((i.threads.filter (fun u => u < t)).map size).sum
    let total : Nat := (i.uni x.a).toNat + (i.threads.map size).sum
    Issues s g p → Clear i w → Checked i → i.any = true → (g.det = true → i.holdsAll = true) → s.team? g.key.team = some tm →
      (total ≤ tm.resCount → RoomFor i w x.d 2 →
        ∃ h, exec (.atomr x) s = .next (goesOn s h { holding i w with s := p.s.set x.a.num (BitVec.ofNat 64 total), region := none } x.b.isLit)
          ∧ RestKept i h ∧ h.threads = g.threads ∧ Lanes i w x.d 2 (fun t => BitVec.ofNat 64 (tm.resBase + before t)) h)
      ∧ (tm.resCount < total →
          exec (.atomr x) s = .next (((s.putGroup (g.putSplit p)).takeTrap g.key p.sid
            (p.trapInfo cADDR_BOUNDS (BitVec.ofNat 64 total) i.act) p.region).clearCur))

/-- ATOM, RED, REDLA and ATOMR begin, and what ATOMR reserves. It rests on the model's readings of log entries 10, 17, 22. -/
def Obligations.AtomicForms : Prop := Claims.AtomicsIssue ∧ Claims.ReservedOffsets

/-- R227, R228: FENCE and QFENCE with a thread active are a point of the issue order: met already, an acquire takes its action
and the split goes on; else the point is kept, with the flag, and the split goes on all the same. -/
def Sys2Proof.Claims.FencesIssue : Prop :=
  ∀ (s : State) (g : Group) (p : Split), Issues s g p →
    (∀ x : Fence,
      let i := issueOf s g p x.view
      let pt : OrderPt := ⟨s.sched.nextId, g.key, i.act, x.scope, x.kind != .acq, x.kind != .rel, 0, i.flag?⟩
      Clear i x.view → i.any = true →
        (s.ptMet pt = true → exec (.fence x) s = .next (goesOn (if x.kind = .rel then s else s.acquire g.key i.core g.ctx x.scope)
          (counted i g) (holding i x.view) false))
        ∧ (s.ptMet pt = false → exec (.fence x) s = .next (goesOn (s.freshId.2.setOps { s.ops with pts := s.ops.pts ++ [pt] })
          (flagged i (counted i g)) (holding i x.view) false)))
    ∧ (∀ x : QFence,
      let i := issueOf s g p x.view
      let pt : OrderPt := ⟨s.sched.nextId, g.key, i.act, .grp, false, false, x.queues, i.flag?⟩
      Clear i x.view → i.any = true → x.queues ≠ 0 →
        (s.ptMet pt = true → exec (.qfence x) s = .next (goesOn s (counted i g) (holding i x.view) false))
        ∧ (s.ptMet pt = false → exec (.qfence x) s = .next (goesOn (s.freshId.2.setOps { s.ops with pts := s.ops.pts ++ [pt] })
          (flagged i (counted i g)) (holding i x.view) false)))

/-- R194, R230, R231: WAITC whose location passes its checks puts a monitor under way for the lowest active thread's address and
blocks the split on it; without a request entry it waits, and a location that fails a check faults for every active thread. -/
def Sys2Proof.Claims.MonitorsIssue : Prop :=
  ∀ (x : Waitc) (s : State) (g : Group) (p : Split),
    let i := issueOf s g p x.view
    let size := if x.wide then 8 else 4
    let a := i.areg x.a
    let got := i.gatherFor { perm := .load, allowed := AReg.rd, size := size, placed := natural size true } a [i.low] (fun _ => Int.ofNat a.ptr.toNat)
    let s1 := (spent i (i.walked got)).freshId.2.fenceLoads g.key i.act x.scope s.sched.nextId
    Issues s g p → Clear i x.view → i.any = true →
      (got.faults = [] → (s.entriesFit i.core got.pieces).1 = true →
        ∃ h, exec (.waitc x) s = .next (blocksOn (s1.addMemOp
              { i.memOp s.sched.nextId (.monitor x.cc x.nat (i.uniSrc x.b)) i.act got.pieces .none size false with scope := x.scope, acq := true })
              h (holding i x.view) (.monitor s.sched.nextId))
          ∧ RestKept i h ∧ LanesKept i x.view h ∧ h.threads = g.threads)
      ∧ (got.faults = [] → (s.entriesFit i.core got.pieces).1 = false → exec (.waitc x) s = .next (s.waitAt g.key p.sid 0 none).clearCur)
      ∧ (∀ info, faultOf got.faults .load false p.iaddr p.word = some info →
          exec (.waitc x) s = .next ((((got.faults.filterMap ThrFault.page).foldl (fun (s : State) q => s.touchWalk i.core g.ctx q.at0) s).putGroup
            (g.putSplit p)).takeTrap g.key p.sid { info with mask := i.act } p.region).clearCur)

/-- FENCE, QFENCE and WAITC. It rests on the model's readings of log entries 10, 19, 21. -/
def Obligations.FencesAndMonitors : Prop := Claims.FencesIssue ∧ Claims.MonitorsIssue

/-! ## Remote operations (R232 to R236) -/

namespace Sys2Proof.Claims
open Sys2Proof.Machine

/-- RGET, RPUT and RATOM: the source in the DST field, and what each asks of its peers. -/
def remotes : Instr → Option (Option Opnd × (Iss → RemoteSpec))
  | .rget x => some (none, fun i =>
      { kind := .get, win := x.win.toNat, size := x.w.bytes, signed := x.w.signed, align := false, peer := fun t => (i.val x.a 1 t).toNat % 2 ^ 32
        off := fun t => (i.val x.b 1 t).toNat * x.scale.factor.toNat, data := fun _ => [], arg := noArg, dest := .v x.d.num x.w.regs, perm := .load })
  | .rput x => some (some x.d, fun i =>
      { kind := .put, win := x.win.toNat, size := x.w.bytes, signed := false, align := false, peer := fun t => (i.val x.a 1 t).toNat % 2 ^ 32
        off := fun t => (i.val x.b 1 t).toNat * x.scale.factor.toNat, data := i.dataBytes x.d x.w.bytes, arg := noArg, dest := .none, perm := .store })
  | .ratom x => some (some x.d, fun i =>
      { kind := .atomic x.op x.wide, win := x.win.toNat, size := if x.wide then 8 else 4, signed := false, align := true
        peer := fun t => (i.val x.a 1 t).toNat % 2 ^ 32, off := fun t => (i.val x.b 1 t).toNat, data := fun _ => []
        arg := i.atomArg x.op x.wide x.d, dest := .v x.d.num (if x.wide then 2 else 1), perm := .atomic })
  | _ => none

end Sys2Proof.Claims

/-- R126, R232, R233, R236: a remote instruction one of whose active threads names a device below 512 (and, for RATOM, whose
offsets at such devices are aligned) queues one pass for each distinct peer, ascending, with that peer's threads; its destination
awaits the answer, the region ends, the flag counts, and no memory changes. Where every thread names a device of 512 or more it
raises ENDPOINT_DOWN, and where an offset is misaligned the lowest cause, with no effect (R127).
It rests on the model's readings of log entries 10, 22. -/
def Obligations.RemoteOperationsIssue : Prop :=
  ∀ (i : Instr) (d : Option Opnd) (f : Iss → RemoteSpec) (w : View), Claims.remotes i = some (d, f) → i.view = some w →
    ∀ (s : State) (g : Group) (p : Split),
      let x := issueOf s g p w
      let l := f x
      let gone := (x.threads.filter (fun t => decide (512 ≤ l.peer t))).map (fun t =>
        (⟨t, cENDPOINT_DOWN, BitVec.ofNat 64 (l.peer t), true, none⟩ : ThrFault))
      let mis := (x.threads.filter (fun t => decide (l.peer t < 512) && l.align && decide (l.off t % l.size ≠ 0))).map (fun t =>
        (⟨t, cALIGN, BitVec.ofNat 64 (l.off t), false, none⟩ : ThrFault))
      Issues s g p → Clear x w d → Checked x → x.any = true → (g.det = true → l.perm ≠ .atomic) →
        (mis = [] → (∃ t ∈ x.threads, l.peer t < 512) → DestRoom x w l.dest x.act →
          ∃ h q ops, exec i s = .next (goesOn
                { s with sched := { s.sched with nextId := s.sched.nextId + ops.length }, ops := { s.ops with remote := s.ops.remote ++ ops } } h q false)
            ∧ q = { holding x w with region := none } ∧ RestKeptFlagged x h ∧ Undelivered x w h q ∧ Awaits h q l.dest (g.octets x.act) s.sched.nextId
            ∧ (ops.map RemoteOp.peer).Pairwise (· < ·) ∧ (∀ n, n ∈ ops.map RemoteOp.peer ↔ ∃ t ∈ x.threads, l.peer t = n)
            ∧ ∀ o ∈ ops, o.inst = s.sched.nextId ∧ o.kind = l.kind ∧ o.g = g.key ∧ o.win = l.win ∧ o.size = l.size ∧ o.dest = l.dest
                ∧ o.args = (x.threads.filter (fun t => l.peer t = o.peer)).map (fun t => ⟨t, l.off t, l.data t, (l.arg t).b, (l.arg t).c⟩))
        ∧ (∀ info, (mis ≠ [] ∨ ∀ t ∈ x.threads, 512 ≤ l.peer t) → faultOf (gone ++ mis) l.perm false p.iaddr p.word = some info →
            exec i s = .next (((s.putGroup (g.putSplit p)).takeTrap g.key p.sid info p.region).clearCur))

/-! ## Long accumulators (R261 to R271) -/

namespace Sys2Proof.Claims
open Sys2Proof.Machine

/-- What an accumulator instruction does to an image: the register, the one it reads, what it asks of their kinds, and each
thread's new image with the IEEE flags raised. -/
structure AccForm where
  x : Nat
  xs : Option Nat := none
  fits : Image → Option Image → Bool
  new : Iss → Nat → Image → Image × BitVec 5
  keeps : Bool := false

/-- An image of zero, of the same kind. -/
def zeroOf (m : Image) : Image := { wide := m.wide, limbs := 0, st := ⟨0, false, false, false, false, false⟩ }

def accumulators : Instr → Option AccForm
  | .laclr x => some { x := x.x.toNat, fits := fun _ _ => true, new := fun _ _ m => (zeroOf m, 0), keeps := true }
  | .laadd x => some { x := x.x.toNat, fits := fun m _ => m.wide || x.fmt != .f64, new := fun i t m => m.take (i.fval x.fmt x.a t) }
  | .lamad x => some { x := x.x.toNat, fits := fun m _ => m.wide || x.fmt != .f64
                       new := fun i t m => m.takeProduct (i.fval x.fmt x.a t) (i.fval x.fmt x.b t) }
  | .lamrg x => some { x := x.x.toNat, xs := some x.xs.toNat, fits := fun m n => m.wide || !((n.map Image.wide).getD false)
                       new := fun i t m => (((i.img t x.xs.toNat).map m.merge).getD m, 0) }
  | .lafl x => some { x := x.x.toNat, xs := some x.xs.toNat, fits := fun m n => m.wide || !((n.map Image.wide).getD false), keeps := true
                      new := fun i t m => ((i.threads.filter (fun u => match x.mode with
                          | .lane => decide (i.g0.memberOf u = i.g0.memberOf t)
                          | .memb => decide (i.g0.laneOf u = i.g0.laneOf t)
                          | .all => true)).foldl (fun acc u => ((i.img u x.xs.toNat).map acc.merge).getD acc) (zeroOf m), 0) }
  | _ => none

/-- The images an instruction names are bound in the lowest active thread, of fitting kinds, and none is awaited. -/
def Bound (i : Iss) (r : AccForm) : Prop :=
  i.accAwaited (r.x :: r.xs.toList) = none ∧ ∃ m, i.bound r.x = some m
    ∧ (match r.xs with
       | none => r.fits m none = true
       | some y => ∃ n, i.bound y = some n ∧ r.fits m (some n) = true)

end Sys2Proof.Claims

/-- R261, R267, R268: LACLR, LAADD, LAMAD, LAMRG and LAFL on bound registers of fitting kinds change the active threads' images of
their register, raise the IEEE flags, and leave every other register, accumulator and thread as it was; but for LACLR and
LAFL the region ends (R126). An unbound register raises ACCUM_UNBOUND. -/
def Sys2Proof.Claims.AccumulatorsIssue : Prop :=
  ∀ (i : Instr) (r : Claims.AccForm) (w : View), Claims.accumulators i = some r → i.view = some w →
    ∀ (s : State) (g : Group) (p : Split),
      let x := issueOf s g p w
      Issues s g p → Clear x w → (r.keeps = false → Checked x) → x.any = true →
        (Claims.Bound x r →
          ∃ h, exec i s = .next (goesOn s h { holding x w with region := if r.keeps then p.region else none } false) ∧ RestKept x h ∧ LanesKept x w h
            ∧ Threads x (fun t th => if x.act.getLsbD t then
                { th with acc := th.acc.mapIdx (fun n m => if n = r.x then (r.new x t m).1 else m)
                          fflags := th.fflags ||| ((th.acc[r.x]?).map (fun m => (r.new x t m).2)).getD 0 } else th) h)
        ∧ (x.accAwaited (r.x :: r.xs.toList) = none → x.bound r.x = none →
            exec i s = .next (((s.putGroup (g.putSplit p)).takeTrap g.key p.sid
              (p.trapInfo cACCUM_UNBOUND (BitVec.ofNat 64 r.x) x.act) p.region).clearCur))

/-- R269: LARND on a bound register writes each active thread's image rounded to the format, with its flags, and leaves the
image. -/
def Sys2Proof.Claims.AccumulatorRound : Prop :=
  ∀ (x : LaRnd) (s : State) (g : Group) (p : Split),
    let i := issueOf s g p x.view
    let res (t : Nat) : Nat × BitVec 5 := ((i.img t x.x.toNat).map (fun m => m.round (fmtOf x.fmt) x.rnd)).getD (0, 0)
    Issues s g p → Clear i x.view → i.any = true → i.accAwaited [x.x.toNat] = none → (i.bound x.x.toNat).isSome = true → RoomFor i x.view x.d x.fmt.regs →
      ∃ h, exec (.larnd x) s = .next (goesOn s h (holding i x.view) false) ∧ RestKept i h
        ∧ Lanes i x.view x.d x.fmt.regs (fun t => BitVec.ofNat 64 (res t).1) h
        ∧ Threads i (fun t th => if i.act.getLsbD t then { th with fflags := th.fflags ||| (res t).2 } else th) h

/-- Long accumulators: clear, add, multiply, merge, fold and round. -/
def Obligations.AccumulatorForms : Prop := Claims.AccumulatorsIssue ∧ Claims.AccumulatorRound

/-- R270: LALD and LASV on a bound register load and store its image, limbs and status word, at slots.
It rests on the model's readings of log entries 10, 23. -/
def Obligations.AccumulatorMemory : Prop :=
  ∀ (x : LaMem) (m : Image) (s : State) (g : Group) (p : Split),
    let i := issueOf s g p x.view
    Issues s g p → Clear i x.view → i.accAwaited [x.x.toNat] = none → i.bound x.x.toNat = some m →
      Claims.LoadIssues (.lald x) s g p x.view
        { threads := i.threads, ea := fun t => Int.ofNat (i.areg x.a).ptr.toNat + i.addrOff x.addr t, reg := i.areg x.a
          size := if m.wide then 280 else 56, signed := false, dest := .x x.x.toNat, placed := fun _ a => slotAt m.wide a }
      ∧ Claims.StoreIssues (.lasv x) s g p x.view
        { ea := fun t => Int.ofNat (i.areg x.a).ptr.toNat + i.addrOff x.addr t, reg := i.areg x.a, size := if m.wide then 280 else 56
          bytes := fun t => leBytes (if m.wide then 280 else 56) (((i.img t x.x.toNat).map Image.toNat).getD 0)
          placed := fun _ a => slotAt m.wide a }

/-! ## Collectives (R272 to R280) -/

namespace Sys2Proof.Claims
open Sys2Proof.Machine

/-- The eight collectives, each with its opcode (R272). -/
def collectives : Instr → Option (UMov × BitVec 10)
  | .collSum x => some (x, 0x340)
  | .collMin x => some (x, 0x341)
  | .collMax x => some (x, 0x342)
  | .collHist x => some (x, 0x343)
  | .collRank x => some (x, 0x344)
  | .collSelect x => some (x, 0x345)
  | .collStat x => some (x, 0x346)
  | .collBcast x => some (x, 0x347)
  | _ => none

end Sys2Proof.Claims

/-- R272, R273, R279, R280: a collective whose descriptor can be read, passes its checks and whose ranges are translated joins the
core's collective queue, its s register awaiting the completion word. Where the device has the instance in flight already it is a
DUPLICATE: with a STATUS to write it joins the queue as one, else it completes at once with that word in the s register. A descriptor
that fails a check raises COLL_INVALID.
It rests on the model's readings of log entries 10, 27, 39. -/
def Obligations.CollectivesIssue : Prop :=
  ∀ (c : Instr) (x : UMov) (op : BitVec 10), Claims.collectives c = some (x, op) →
    ∀ (s : State) (g : Group) (p : Split) (ps : List Piece) (bs : List Byte),
      let w := x.collView
      let i := issueOf s g p w
      let a := i.areg x.a
      let d := (collDesc bs).1
      let read := Claims.readBy i s ps
      let again := s.collInFlight g.ctx d
      Issues s g p → Clear i w → Checked i → i.any = true →
        i.access { perm := .load, allowed := AReg.rd, size := 64, placed := fun _ o => decide (o % 64 = 0) } a (Int.ofNat a.ptr.toNat) i.low = .ok ps →
        i.owes ps = false → i.descBytes ps = .ok bs →
          (∀ t pages, elemTy d.ty = some t → (collDesc bs).2 = false → s.collValid g.ctx (collKind op) d = true →
            i.pagesAll (d.ranges (collKind op) t s.pkg.device.toNat) = .ok pages →
              let s1 := spent i (i.rangesWalked read (d.ranges (collKind op) t s.pkg.device.toNat))
              (again = false ∨ d.status ≠ 0 →
                ∃ h q, exec c s = .next (goesOn (s1.freshId.2.setOps { s1.ops with colls := s1.ops.colls ++
                      [{ id := s.sched.nextId, op := op, g := g.key, sid := p.sid, core := g.core, ctx := g.ctx, threads := i.act
                         member := i.memberSel i.low, desc := d, sreg := x.d.num, flag := i.flag?
                         st := if again then .duplicate else .queued, pages := pages }] }) h q false)
                  ∧ q = { holding i w with sBusy := awaiting p (.s x.d.num) s.sched.nextId, region := none }
                  ∧ RestKeptFlagged i h ∧ LanesKept i w h ∧ h.wr = g.wr)
              ∧ (again = true → d.status = 0 →
                ∃ h, exec c s = .next (goesOn s1 h
                      { holding i w with s := p.s.set x.d.num (collWord 3 [] none false), region := none } false)
                  ∧ RestKept i h ∧ LanesKept i w h ∧ h.threads = g.threads))
          ∧ ((elemTy d.ty = none ∨ (collDesc bs).2 = true ∨ s.collValid g.ctx (collKind op) d = false) →
              exec c s = .next (Claims.refusal read g p i.act cCOLL_INVALID 0))


/-! ## Traps and the return from them (R128, R129) -/

/-- R128, R130: a trap taken in a split whose group has a handler address and is not in its handler: PRIV is set, the record reads as
the fault says (TENTRY is the region's entry, 0 with NORES but for a class A trap at a clause boundary, which has that clause's
address), the split goes on at TVEC with its mask and its registers, every thread keeps its own, and memory stays. -/
def Sys2Proof.Claims.TrapEntry : Prop :=
  ∀ (s : State) (g : Group) (p : Split) (i : TrapInfo) (entry : Option Word64),
    s.group? g.key = some g → g.split? p.sid = some p → g.trap.tvec ≠ 0 → g.priv = false →
      ∃ h q, (s.takeTrap g.key p.sid i entry).group? g.key = some h ∧ h.split? p.sid = some q
        ∧ h.priv = true ∧ h.threads = g.threads ∧ h.wr = g.wr
        ∧ q = { p with pc := g.trap.tvec, latch := [], st := .boundary, slot := 1, defer := [], bound := none, passed := 0 }
        ∧ (s.takeTrap g.key p.sid i entry).mem.cells = s.mem.cells
        ∧ (∀ t : State, t.sysRead h 0x11 = i.addr ∧ t.sysRead h 0x14 = i.iaddr ∧ t.sysRead h 0x16 = i.inst ∧ t.sysRead h 0x15 = g.trap.tvec
          ∧ t.sysRead h 0x12 = i.mask.extractLsb' 0 64 ∧ (∀ k, k < 7 → t.sysRead h (0x18 + k) = i.mask.extractLsb' (64 * (k + 1)) 64)
          ∧ t.sysRead h 0x13 = (if i.nores && i.again then 0 else entry.getD 0)
          ∧ (t.sysRead h 0x10).extractLsb' 0 8 = i.code ∧ (t.sysRead h 0x10).getLsbD 9 = (i.nores || entry.isNone))

/-- R128, step 4: with no handler address, or in the handler, every thread of the group exits and the launch keeps the cause. -/
def Sys2Proof.Claims.TrapEndsGroup : Prop :=
  ∀ (s : State) (g : Group) (p : Split) (i : TrapInfo) (entry : Option Word64),
    s.group? g.key = some g → g.split? p.sid = some p → g.threads.length ≤ 512 → (g.trap.tvec = 0 ∨ g.priv = true) →
      (∀ h, (s.takeTrap g.key p.sid i entry).group? g.key = some h → h.splits = [] ∧ ∀ th ∈ h.threads, th.exited = true)
      ∧ (∀ l, s.launch? g.key.team.launch = some l →
          ∃ l', (s.takeTrap g.key p.sid i entry).launch? g.key.team.launch = some l'
            ∧ l'.fault = (match l.fault with
              | some f => some f
              | none => some (g.key.team.team, i.code)))

/-- Taking a trap: the record, the handler, the end of a group. It rests on the model's readings of log entries 16, 38. -/
def Obligations.TrapTaken : Prop := Claims.TrapEntry ∧ Claims.TrapEndsGroup

/-- R71, R110, R129, R348: RTE by a split that holds the handler's threads clears PRIV, and the split goes on at its operand, or at
TENTRY where the trap allows it, with the deferral entries it had; where it does not, the split's threads exit. From the handler of
DRAIN_FAULT, with DRPOS.VALID set, it first abandons the stopped drain (ABORT) or restarts it from the drain-restart registers;
from that of PAIR_LOST the survivor of a DEGRADE launch goes on alone, and without DEGRADE every thread of the group exits. A target
that is no clause address raises ALIGN, and any other RTE is illegal, one outside a handler whatever its predicate.
It rests on the model's readings of log entries 16, 29. -/
def Obligations.ReturnCompletes : Prop :=
  ∀ (x : Rte) (s : State) (g : Group) (p : Split),
    let w := x.view
    let i := issueOf s g p w
    let code := (g.handler.map Handler.code).getD 0
    let check := ((s.team? g.key.team).map Team.pairchk).getD false
    let alone := ((s.team? g.key.team).map Team.degraded).getD false
    let degrade := ((s.launch? g.key.team.launch).map (fun l => l.lrec.degrade)).getD false
    let back (s1 : State) (h : Group) (t : Word64) : State :=
      (((s1.putGroup { ((h.yields p.header).putSplit { p with
          pc := t, latch := [], defer := p.defer ++ (g.handler.map Handler.defer).getD [], st := .boundary, slot := 1, bound := none }) with
        priv := false, handler := none }).reachBoundary g.key p.sid).clearCur)
    let goes (s1 : State) (h : Group) : Prop :=
      (∀ o, x.target = some o → i.uni o &&& 63#64 = 0#64 → exec (.rte x) s = .next (back s1 h (i.uni o)))
      ∧ (x.target = none → g.trap.cause.getLsbD 9 = false → exec (.rte x) s = .next (back s1 h g.trap.entry))
    Issues s g p → Clear i w →
      (g.priv = true → i.any = true → g.holdsHandler p = true →
        (code ≠ cPAIR_LOST → (code ≠ cDRAIN_FAULT ∨ bitAt g.dr.pos 63 = false) →
          ∃ h, goes s h ∧ RestKept i h ∧ LanesKept i w h ∧ h.threads = g.threads
            ∧ (x.target = none → g.trap.cause.getLsbD 9 = true → exec (.rte x) s
                = .next ((((s.putGroup ((h.yields p.header).putSplit (holding i w))).exitThreads g.key p.mask).returnFrom g.key p.sid p.pc).clearCur)))
        ∧ (∀ o, code = cDRAIN_FAULT → bitAt g.dr.pos 63 = true → s.mtx.ops.find? (fun o => o.g = g.key && o.stopped) = some o →
          let octet := field g.dr.pos 5 6
          let image : AReg := ⟨g.dr.aptr, g.dr.abase, g.dr.alim, bitAt g.dr.aperm 0, bitAt g.dr.aperm 1, bitAt g.dr.aperm 2, bitAt g.dr.aperm 3⟩
          ∃ h, RestKept i h ∧ LanesKept i w h ∧ h.threads = g.threads
            ∧ (bitAt g.dr.pos 61 = true →
                goes (s.setMtx { s.mtx with ops := s.mtx.ops.map (fun o =>
                  if o.g.team = g.key.team && o.g.group = g.key.group && o.stopped then { o with stopped := false, cut := true } else o) }) h)
            ∧ (bitAt g.dr.pos 61 = false → o.mate = none →
                goes (s.setMtx { s.mtx with
                  ops := s.mtx.ops.map (fun r => if r.id = o.id then
                    { r with stopped := false, areg2 := some (octet, image), fmt0 := g.dr.fmt0, fmt1 := g.dr.fmt1
                             reqs := r.reqs.map (fun q => if q.octet = octet then { q with rows := g.dr.rows.setWidth 8 } else q) }
                    else r)
                  drains := ⟨o.id, octet, field g.dr.pos 11 7⟩ :: s.mtx.drains.filter (fun e => e.op ≠ o.id) }) h))
        ∧ (code = cPAIR_LOST → check = true → degrade = true →
          ∃ h, RestKept i h ∧ LanesKept i w h ∧ h.threads = g.threads
            ∧ goes (s.modTeam g.key.team (fun t => { t with pair := false, pairchk := false, degraded := true, core := g.core }))
                { h with pairchk := false, chk := false })
        ∧ (code = cPAIR_LOST → (check = false ∨ degrade = false) → alone = false → g.threads.length ≤ 512 →
          (∀ o, x.target = some o → i.uni o &&& 63#64 = 0#64) →
            ∃ t, exec (.rte x) s = .next t ∧ ∀ h, t.group? g.key = some h → ∀ th ∈ h.threads, th.exited = true)
        ∧ (∀ o, x.target = some o → i.uni o &&& 63#64 ≠ 0#64 →
          exec (.rte x) s = .next (((s.putGroup (g.putSplit p)).takeTrap g.key p.sid (p.trapInfo cALIGN (i.uni o) (g.splitLive p)) p.region).clearCur)))
      ∧ (g.priv = true → i.any = false → exec (.rte x) s = .next (goesOn s (counted i g) (holding i w) false))
      ∧ (g.priv = false ∨ (i.any = true ∧ g.holdsHandler p = false) →
          exec (.rte x) s = .next (((s.putGroup (g.putSplit p)).takeTrap g.key p.sid (p.trapInfo cILLEGAL_INSTRUCTION 0 (g.splitLive p)) p.region).clearCur))

/-! ## Matrix instructions (R303 to R319, R334, R337) -/

namespace Sys2Proof.Claims
open Sys2Proof.Machine

/-- The request of an octet with nothing read for it: its active rows. -/
def rowsOf (x : Iss) (o : Nat) : MatReq :=
  { id := 0, octet := o, rows := x.act.extractLsb' (8 * o) 8, a := [], b := 0, records := [], sa := [], sb := [], va := 0, pas := [], drained := false }

/-- What an instruction asks of the matrix engine: its kind, tile, format block, a register, drain program and requests. -/
structure MatAsk where
  kind : MatKind
  tile : Nat := 0
  fmt0 : Word64 := 0
  fmt1 : Word64 := 0
  areg : AReg := .zero
  wb : Nat := 0
  words : List (BitVec 32) := []
  reqs : List MatReq

/-- The operation it makes, as it takes its entry in the table of its cluster. -/
def matOp (x : Iss) (s1 : State) (m : MatAsk) : MatOp :=
  { id := s1.sched.nextId, cluster := coreCluster x.g0.core, core := x.g0.core, kind := m.kind, g := x.g0.key, ctx := x.g0.ctx, threads := x.act
    tile := m.tile, fmt0 := m.fmt0, fmt1 := m.fmt1, areg := m.areg, areg2 := none
    reqs := m.reqs.mapIdx (fun n r => { r with id := lookupD s1.mtx.nextReq (coreCluster x.g0.core) 0 + BitVec.ofNat 16 n })
    wb := m.wb, level := ((x.s0.launch? x.g0.key.team.launch).map (fun l => l.q / 16)).getD 0, posted := x.s0.cycle, levelAt := x.s0.cycle
    granted := false, flag := x.flag?, words := m.words, stopped := false, cut := false, mate := none, sid := x.p0.sid
    region := x.p0.region, iaddr := x.p0.iaddr, word := x.p0.word, quiet := false }

/-- The state once it is in the table. -/
def posted (x : Iss) (s1 : State) (m : MatAsk) : State :=
  let c := coreCluster x.g0.core
  s1.freshId.2.setMtx { s1.mtx with
    ops := s1.mtx.ops ++ [matOp x s1 m], nextReq := insertKey s1.mtx.nextReq c (lookupD s1.mtx.nextReq c 0 + BitVec.ofNat 16 m.reqs.length) }

/-- The cluster's table has an entry to give, and one for each copy of a check pair (R334, R351). -/
def EntryFree (s : State) (g : Group) : Prop :=
  (s.mtx.ops.filter (fun o => o.cluster = coreCluster g.core && !o.granted)).length + (if g.pairchk then 2 else 1) ≤ 32

/-- With no entry free the split waits at the instruction, which has had no effect (R334). -/
def WaitsForEntry (s : State) (g : Group) (p : Split) (x : Instr) : Prop :=
  ¬EntryFree s g → exec x s = .next (s.waitAt g.key p.sid wMATRIX none).clearCur

/-- The instruction raises a class T fault that names its active threads, and has no effect (R128). -/
def Refused (s : State) (g : Group) (p : Split) (m : Mask) (x : Instr) (code : BitVec 8) (addr : Word64) : Prop :=
  exec x s = .next (((s.putGroup (g.putSplit p)).takeTrap g.key p.sid (p.trapInfo code addr m) p.region).clearCur)

/-- Where the instruction drains with a VOUT range, those registers of the active octets: none awaits a result, and there are
entries for them (R313, R324). -/
def vout (w1 : Word64) : Dest := if bitAt w1 60 then .v (field w1 52 8) (if bitAt w1 61 then 32 else 16) else .none
def VoutFree (x : Iss) (g1 : Group) (w1 : Word64) : Prop :=
  match vout w1 with
  | .v n r =>
    (∀ e ∈ x.g0.v, e.busy.isSome = true → e.pend.isEmpty = true → n ≤ e.name → e.name < n + r → e.octet ∉ x.octs)
      ∧ (x.s0.mapVs g1 (namesFrom n r) x.octs).isSome = true
  | _ => True

end Sys2Proof.Claims

/-- R312, R314, R316, R317, R318: MZERO, MDRAIN, MKLD, MKST, DPLD and DPINV whose checks pass take one entry of the cluster's table with
a request for each octet that has an active thread, and the flag counts; nothing of memory, tile or register changes at the
issue, but that an MDRAIN's VOUT range awaits it. With no entry free the split waits. An MDRAIN whose format block is refused
raises FORMAT_INVALID (R311); a DPLD waits for what its threads have under way on the program (R248), and a program that R325 rejects raises
DRAIN_INVALID. -/
def Sys2Proof.Claims.MatrixEntriesIssue : Prop :=
  ∀ (s : State) (g : Group) (p : Split), Issues s g p →
    (∀ x : MZero,
      let i := issueOf s g p x.view
      Clear i x.view → i.any = true →
        (Claims.EntryFree s g → exec (.mzero x) s = .next (goesOn
            (Claims.posted i s { kind := .mzero, tile := x.tile.toNat, reqs := i.octs.map (Claims.rowsOf i) }) (flagged i (counted i g)) (holding i x.view) false))
        ∧ Claims.WaitsForEntry s g p (.mzero x))
    ∧ (∀ x : MDrain,
      let i := issueOf s g p x.view
      let w0 := p.s.getD x.f.num 0
      let w1 := p.s.getD (x.f.num + 1) 0
      Clear i x.view → Checked i → i.any = true →
        (blockReserved w0 w1 = false ∨ blockVout w1 = false → Claims.Refused s g p i.act (.mdrain x) cFORMAT_INVALID 0)
        ∧ (blockReserved w0 w1 = true → blockVout w1 = true → Claims.VoutFree i (i.lastReads x.view).g w1 →
          Claims.WaitsForEntry s g p (.mdrain x)
          ∧ (Claims.EntryFree s g → ∃ h q, exec (.mdrain x) s = .next (goesOn (Claims.posted i s
              { kind := .mdrain x.z, tile := x.tile.toNat, fmt0 := w0, fmt1 := w1, areg := (p.a[field w1 48 4]?).getD .zero
                reqs := i.octs.map (Claims.rowsOf i) }) h q false)
          ∧ q = { holding i x.view with region := none } ∧ RestKeptFlagged i h ∧ Undelivered i x.view h q
          ∧ Awaits h q (Claims.vout w1) i.octs s.sched.nextId)))
    ∧ (∀ (x : MTile) (place : Nat → MatReq) (st : Bool),
      let i := issueOf s g p x.view
      let s1 := spent i ((i.octs.map place).foldl (fun (s : State) r => r.pas.foldl (fun (s : State) q => s.tlbFill i.core g.ctx (r.va + q.1)) s) s)
      Clear i x.view → i.any = true → (∀ o ∈ i.octs, i.tilePlace (i.areg x.a) x.disp st o = .ok (place o)) →
        Claims.WaitsForEntry s g p (if st then .mkst x else .mkld x)
        ∧ (Claims.EntryFree s g → ∃ h, exec (if st then .mkst x else .mkld x) s = .next (goesOn
            (Claims.posted i s1 { kind := if st then .mkst else .mkld, tile := x.tile.toNat, reqs := i.octs.map place }) h (holding i x.view) false)
          ∧ RestKeptFlagged i h ∧ LanesKept i x.view h ∧ h.wr = g.wr))
    ∧ (∀ (x : Dpld) (bs : List Byte) (ps : List Piece),
      let i := issueOf s g p x.view
      let ws := (List.range 32).map (fun n => BitVec.ofNat 32 (leNat ((bs.drop (4 * n)).take 4)))
      Clear i x.view → Checked i → i.any = true →
        i.readThrough (i.areg x.a) (Int.ofNat (i.areg x.a).ptr.toNat) 128 128 = .ok (bs, ps) →
        (i.owes ps = true → exec (.dpld x) s = .next (s.waitAt g.key p.sid 0 none).clearCur)
        ∧ (i.owes ps = false → firstRejected ws 0 = none → Claims.WaitsForEntry s g p (.dpld x))
        ∧ (i.owes ps = false → firstRejected ws 0 = none → Claims.EntryFree s g →
          ∃ h, exec (.dpld x) s = .next (goesOn (Claims.posted i (spent i (Claims.readBy i s ps)) { kind := .dpld x.n.toNat, words := ws, reqs := [] })
              h { holding i x.view with region := none } false)
            ∧ RestKeptFlagged i h ∧ LanesKept i x.view h ∧ h.wr = g.wr)
        ∧ (∀ n, i.owes ps = false → firstRejected ws 0 = some n →
            exec (.dpld x) s = .next (Claims.refusal (Claims.readBy i s ps) g p i.act cDRAIN_INVALID (BitVec.ofNat 64 n))))
    ∧ (∀ x : Dpinv,
      let i := issueOf s g p x.view
      Clear i x.view → Checked i → i.any = true →
        Claims.WaitsForEntry s g p (.dpinv x)
        ∧ (Claims.EntryFree s g → exec (.dpinv x) s = .next (goesOn (Claims.posted i s { kind := .dpinv x.n.toNat, reqs := [] })
          (flagged i (counted i g)) { holding i x.view with region := none } false)))

namespace Sys2Proof.Claims
open Sys2Proof.Machine

/-- What the pass of an octet takes: the A rows of its active threads, the B image of its lane octet, the metadata of the
columns with SPARSE and the scales of rows and columns with SCALED, all as they stand at the issue (R304, R305, R307). -/
def passOf (x : Iss) (pr : MatPair) (w0 w1 : Word64) (va wb o : Nat) : MatReq :=
  let lo := 8 * o % x.g0.w / 8
  let k := if bitAt w0 13 then 2 * pr.k else pr.k
  let nb := max 1 (k / (16 * 2 ^ field w0 10 2))
  let na := if bitAt w0 13 then 16 else pr.aRegs
  let scales (base n : Nat) : List Nat := (List.range nb).map (fun b => x.spadNat (base + (n * nb + b) * 2) 2)
  { rowsOf x o with
    a := (List.range 8).map (fun r =>
      if x.act.getLsbD (8 * o + r) then ((List.range na).map (fun j => (x.g0.vWord (va + j) (8 * o + r)).toNat * 2 ^ (32 * j))).sum else 0)
    b := ((List.range pr.bRegs).flatMap (fun j => (List.range 8).map (fun l => (x.g0.wWord (wb + j) (8 * lo + l)).toNat * 2 ^ (256 * j + 32 * l)))).sum
    records := if bitAt w0 13 then (List.range 16).map (fun n => x.spadNat (field w1 32 16 * 16 + (lo * 16 + n) * 16) 16) else []
    sa := if bitAt w0 12 then (List.range 8).map (fun r => scales (field w1 0 16 * 16) (8 * o + r)) else []
    sb := if bitAt w0 12 then (List.range 16).map (fun c => scales (field w1 16 16 * 16) (lo * 16 + c)) else [] }

/-- The format block of MMA, or of MMAD, is not refused (R311). -/
structure BlockLegal (x : Iss) (drains : Bool) (pr : MatPair) (w0 w1 : Word64) : Prop where
  reserved : blockReserved w0 w1 = true
  vout : drains = true → blockVout w1 = true
  pair : x.s0.blockPair w0 = some pr

/-- The A range and the B range are aligned and inside the register files (R313). -/
def legalA (m : Mma) (pr : MatPair) (w0 : Word64) : Prop :=
  m.a.num % (if bitAt w0 13 then 16 else pr.aRegs) = 0 ∧ m.a.num + (if bitAt w0 13 then 16 else pr.aRegs) ≤ 256
def legalB (m : Mma) (pr : MatPair) : Prop := m.b.num % pr.bRegs = 0 ∧ m.b.num + pr.bRegs ≤ 32

/-- The operands of MMA and MMAD are legal and none of them awaits a result (R303, R313, R119). -/
structure PassLegal (x : Iss) (m : Mma) (drains : Bool) (pr : MatPair) (w0 w1 : Word64) : Prop where
  block : BlockLegal x drains pr w0 w1
  a : legalA m pr w0
  b : legalB m pr
  ready : x.rangeAwaited m.a.num (pr.regsA w0) m.b.num pr.bRegs = none
  last : m.c.lrA = true → x.lastAwaited m.a.num (pr.regsA w0) = none

/-- And none of them faults (R311, R305, R101). -/
structure PassReady (x : Iss) (m : Mma) (drains : Bool) (pr : MatPair) (w0 w1 : Word64) : Prop extends PassLegal x m drains pr w0 w1 where
  inside : x.firstOutside (x.matRanges pr w0 w1) = none
  sparse : bitAt w0 13 = true → x.badMeta pr w1 = none
  fresh : ∀ n, m.b.num ≤ n → n < m.b.num + pr.bRegs → x.g0.stale.getLsbD n = false

/-- Curb has not turned the instruction away before, and the window of the cluster takes its charge (R339, R352). -/
def CurbTakes (x : Iss) (charge : Nat) : Prop :=
  let w := x.s0.mtx.curbOf (coreCluster x.g0.core)
  (∀ e ∈ w.stalled, ¬(e.key = ⟨x.g0.key, x.p0.sid⟩ ∧ e.slot = x.p0.iaddr)) ∧ (w.used = 0 ∨ w.used + charge ≤ x.s0.curbBudget)

/-- The charge and the window afterwards. -/
def charge (x : Iss) (pr : MatPair) : Nat := max 1 ((x.octs.length * pr.cost + 3) / 4)
def chargedTo (x : Iss) (pr : MatPair) : State :=
  let w := x.s0.mtx.curbOf (coreCluster x.g0.core)
  x.s0.setMtx (x.s0.mtx.putCurb { w with used := w.used + charge x pr, stalled := w.stalled.filter (fun e => e.key ≠ ⟨x.g0.key, x.p0.sid⟩) })

end Sys2Proof.Claims

/-- R304, R312, R313, R314, R339: MMA and MMAD whose operands are legal, ready and inside the scratchpad are charged to the
cluster's window and take an entry with all that their passes need, read at the issue; no tile and no register changes, but that
an MMAD's VOUT range awaits it and A registers read for the last time are given up. With no entry free they wait. A format block that
R311 refuses, a misplaced register range, an operand outside the scratchpad, bad metadata and an invalidated w register raise
their faults, in that order. With no active thread nothing is done, but that LR gives up the A registers of the whole split
(R22, R313).
It rests on the model's readings of log entries 10, 28, 30, 42. -/
def Obligations.MatrixPassesIssue : Prop :=
  ∀ (x : Mma) (drains : Bool) (pr : MatPair) (s : State) (g : Group) (p : Split),
    let w := x.view drains
    let i := issueOf s g p w
    let w0 := p.s.getD x.f.num 0
    let w1 := p.s.getD (x.f.num + 1) 0
    let na := if bitAt w0 13 then 16 else pr.aRegs
    let g1 := if x.c.lrA then (i.lastReads w).g.lastReads p (namesFrom x.a.num na) else (i.lastReads w).g
    let it : Instr := if drains then .mmad x else .mma x
    let refused := Claims.Refused s g p i.act it
    Issues s g p → i.stalledOn w = none → s.passWaits g.key = false → (∀ n, i.flag? = some n → g.flag n < 63) → i.expired w none = none →
      Checked i →
      (i.any = false → (x.c.lrA = true → s.blockPair w0 = some pr ∧ i.lastAwaited x.a.num na = none) →
        ∃ h, exec it s = .next (goesOn s h { holding i w with region := none } false) ∧ h = counted i { g with v := h.v, seq := h.seq }
          ∧ ∀ name t, name ∉ lastNames w → (x.c.lrA = true → name ∉ namesFrom x.a.num na) → h.vWord name t = g.vWord name t)
      ∧ (i.any = true →
      (blockReserved w0 w1 = false ∨ (drains = true ∧ blockVout w1 = false) ∨ s.blockPair w0 = none → refused cFORMAT_INVALID 0)
      ∧ (Claims.BlockLegal i drains pr w0 w1 →
        (¬Claims.legalA x pr w0 → refused cILLEGAL_OPERAND (BitVec.ofNat 64 x.a.num))
        ∧ (Claims.legalA x pr w0 → ¬Claims.legalB x pr → refused cILLEGAL_OPERAND (BitVec.ofNat 64 (0x140 + x.b.num))))
      ∧ (Claims.PassLegal i x drains pr w0 w1 →
        (∀ o, i.firstOutside (i.matRanges pr w0 w1) = some o → refused cSPAD_BOUNDS (BitVec.ofNat 64 o))
        ∧ (∀ n, i.firstOutside (i.matRanges pr w0 w1) = none → bitAt w0 13 = true → i.badMeta pr w1 = some n →
          refused cSPARSE_META (BitVec.ofNat 64 n))
        ∧ (∀ n, i.firstOutside (i.matRanges pr w0 w1) = none → (bitAt w0 13 = true → i.badMeta pr w1 = none) →
          x.b.num ≤ n → n < x.b.num + pr.bRegs → g.stale.getLsbD n = true →
          (∀ k, x.b.num ≤ k → k < n → g.stale.getLsbD k = false) → refused cSTALE_SHARED (BitVec.ofNat 64 n)))
      ∧ (Claims.PassReady i x drains pr w0 w1 → Claims.WaitsForEntry s g p it)
      ∧ (Claims.PassReady i x drains pr w0 w1 → Claims.EntryFree s g → Claims.CurbTakes i (Claims.charge i pr) →
        (drains = true → Claims.VoutFree i g1 w1) →
      ∃ h q, exec it s = .next (goesOn (Claims.posted i (Claims.chargedTo i pr)
            { kind := if drains then .mmad x.z else .mma, tile := x.tile.toNat, fmt0 := w0, fmt1 := w1, areg := (p.a[field w1 48 4]?).getD .zero
              wb := x.b.num, reqs := i.octs.map (Claims.passOf i pr w0 w1 x.a.num x.b.num) }) h q false)
        ∧ q = { holding i w with region := none } ∧ RestKeptFlagged i h ∧ WordsKept i h
        ∧ (∀ name t, name ∉ lastNames w → (x.c.lrA = true → name ∉ namesFrom x.a.num na) → h.vWord name t = g.vWord name t)
        ∧ (drains = true → Awaits h q (Claims.vout w1) i.octs s.sched.nextId)))

/-- R319, R344: MSTAT reads the generation and validity a drain-store slot will have once the operations up to the group's last have
been performed: each DPLD and DPINV of them on the slot raises its generation by one, and the last of them says whether the slot is valid,
and for which context; or, for number 64, how many of the group's operations are not yet performed. -/
def Sys2Proof.Claims.MatrixStatus : Prop :=
  ∀ (x : MStat) (s : State) (g : Group) (p : Split),
    let i := issueOf s g p x.view
    Issues s g p → Clear i x.view →
      ∃ h, exec (.mstat x) s = .next (goesOn s h { holding i x.view with s := if i.any then p.s.set x.d.num (i.mstat x.n.toNat) else p.s } false)
        ∧ RestKept i h ∧ LanesKept i x.view h ∧ h.threads = g.threads
        ∧ (x.n.toNat = 64 → i.mstat x.n.toNat = BitVec.ofNat 64 (s.mtx.ops.filter (fun o => o.g = g.key)).length)
        ∧ (x.n.toNat < 64 → ∀ front rest : List MatOp, s.mtx.ops = front ++ rest →
            let cl := coreCluster i.core
            (∀ o ∈ rest, ¬(o.g = g.key ∧ o.cluster = cl)) → (∀ l, front.getLast? = some l → l.g = g.key ∧ l.cluster = cl) →
              let d := s.mtx.slot cl x.n.toNat
              let changes := front.filter (fun o => o.cluster = cl && (o.kind == .dpld x.n.toNat || o.kind == .dpinv x.n.toNat))
              let mine : Bool := match changes.getLast? with
                | none => d.valid && d.ctx == some g.ctx
                | some o => o.kind == .dpld x.n.toNat && o.ctx == g.ctx
              i.mstat x.n.toNat = BitVec.ofNat 64 ((d.gen + BitVec.ofNat 32 changes.length).toNat + (if mine = true then 2 ^ 63 else 0)))

/-- Matrix entries are posted, or wait or trap; MSTAT reads their count. It rests on the model's readings of log entries 10, 28, 39. -/
def Obligations.MatrixEntriesAndStatus : Prop := Claims.MatrixEntriesIssue ∧ Claims.MatrixStatus

/-! ## Micro-instructions (R320 to R326, R346, R347) -/

namespace Sys2Proof.Claims
open Sys2Proof.Machine

/-- The element after a micro-instruction: one register written and flags raised, the next micro-word. -/
def wrote (s : State) (r : DrainRun) (d : BitVec 3) (x : Word64) (fl : BitVec 5) : State :=
  s.setMtx { s.mtx with run := some { r with d := r.d.set d.toNat x, fl := r.fl ||| fl, pc := r.pc + 1 } }
/-- One store kept for the element's end. -/
def stored (s : State) (r : DrainRun) (e : DrainEff) : State :=
  s.setMtx { s.mtx with run := some { r with effs := r.effs ++ [e], pc := r.pc + 1 } }

def dreg (r : DrainRun) (n : BitVec 3) : Word64 := r.d.getD n.toNat 0
/-- The signed integer of an I32 operand, and a float operand's bits and value. -/
def dint (r : DrainRun) (n : BitVec 3) : Int := ((dreg r n).setWidth 32).toInt
def dfmt (t : DTy) : Fmt := if t = .f64 then fF64 else fF32
def dbits (t : DTy) (r : DrainRun) (n : BitVec 3) : Nat := (dreg r n).toNat % 2 ^ (dfmt t).width
def dval (t : DTy) (r : DrainRun) (n : BitVec 3) : FVal := (dfmt t).unpack (dbits t r n)

/-- A typed result: an I32 sign-extended, or a float's bits with its flags. -/
def typed (t : DTy) (int : Int) (float : Fmt → Nat × BitVec 5) : Word64 × BitVec 5 :=
  match t with
  | .i32 => ((BitVec.ofInt 32 int).signExtend 64, 0)
  | _ => (BitVec.ofNat 64 (float (dfmt t)).1, (float (dfmt t)).2)

/-- What the micro-instructions that only compute leave in their d register, with the flags they raise. -/
def drainValue : Instr → Option (BitVec 3 × (State → DrainRun → Word64 × BitVec 5))
  | .dmov x => some (x.d, fun _ r => (dreg r x.a, 0))
  | .dmovI x => some (x.d, fun _ _ => (x.imm.signExtend 64, 0))
  | .drow x => some (x.d, fun _ r => (BitVec.ofNat 64 (if x.g then 8 * r.octet + r.elem / 16 else r.elem / 16), 0))
  | .dcol x => some (x.d, fun s r => (BitVec.ofNat 64 (if x.g then 16 * s.runLo r + r.elem % 16 else r.elem % 16), 0))
  | .dadd x => some (x.d, fun _ r => typed x.ty (dint r x.a + dint r x.b) (fun f => f.add .rn (dval x.ty r x.a) (dval x.ty r x.b)))
  | .dmul x => some (x.d, fun _ r => typed x.ty (dint r x.a * dint r x.b) (fun f => f.mul .rn (dval x.ty r x.a) (dval x.ty r x.b)))
  | .dfma x => some (x.d, fun _ r => typed x.ty (dint r x.a * dint r x.b + dint r x.x)
      (fun f => f.fma .rn (dval x.ty r x.a) (dval x.ty r x.b) (dval x.ty r x.x)))
  | .dmin x => some (x.d, fun _ r => typed x.ty (min (dint r x.a) (dint r x.b)) (fun f => f.minmax true (dbits x.ty r x.a) (dbits x.ty r x.b)))
  | .dmax x => some (x.d, fun _ r => typed x.ty (max (dint r x.a) (dint r x.b)) (fun f => f.minmax false (dbits x.ty r x.a) (dbits x.ty r x.b)))
  | .dclamp x => some (x.d, fun _ r => typed x.ty (min (max (dint r x.a) (dint r x.b)) (dint r x.x)) (fun f =>
      ((f.minmax true (f.minmax false (dbits x.ty r x.a) (dbits x.ty r x.b)).1 (dbits x.ty r x.x)).1,
        (f.minmax false (dbits x.ty r x.a) (dbits x.ty r x.b)).2
          ||| (f.minmax true (f.minmax false (dbits x.ty r x.a) (dbits x.ty r x.b)).1 (dbits x.ty r x.x)).2)))
  | .dsel x => some (x.d, fun _ r => (if (dreg r x.x).setWidth 32 = 0#32 then dreg r x.b else dreg r x.a, 0))
  | .dcmp x => some (x.d, fun _ r =>
      if x.ty = .i32 then (if condInt x.cc (dint r x.a) (dint r x.b) then 1 else 0, 0)
      else
        let q := fcond (condFloat x.cc) (dval x.ty r x.a) (dval x.ty r x.b)
        (if q.1 then 1 else 0, q.2))
  | .dexp2 x => some (x.d, fun _ r => typed x.ty 0 (fun f => f.exp2 .rn (dval x.ty r x.a)))
  | .drcp x => some (x.d, fun _ r => typed x.ty 0 (fun f => f.rcp .rn (dval x.ty r x.a)))
  | .dcvt x => some (x.d, fun _ r =>
      let q := convert false x.rnd (dCvtTy x.dt) (dCvtTy x.st) (dreg r x.a)
      (if x.dt = .i32 then (q.1.setWidth 32).signExtend 64 else q.1, q.2))
  | _ => none

/-- The micro-instructions that take a side word: the row's or the column's, which, and what they make of it. -/
def sideValue : Instr → Option (Bool × BitVec 2 × BitVec 3 × (DrainRun → Nat → Word64 × BitVec 5))
  | .dlds x => some (x.col, x.k, x.d, fun _ w => (BitVec.ofNat 64 w, 0))
  | .dscale x => some (x.col, x.k, x.d, fun r w => typed x.ty 0 (fun f => f.mul .rn (dval x.ty r x.a) (fF32.unpack w)))
  | .dbias x => some (x.col, x.k, x.d, fun r w => typed x.ty 0 (fun f => f.add .rn (dval x.ty r x.a) (fF32.unpack w)))
  | _ => none

end Sys2Proof.Claims

/-- R320, R322: a micro-instruction that computes writes its d register, raises its flags and goes to the next micro-word; DNOP
does only that. Nothing else of the machine changes. -/
def Sys2Proof.Claims.DrainValues : Prop :=
  (∀ (i : Instr) (d : BitVec 3) (f : State → DrainRun → Word64 × BitVec 5), Claims.drainValue i = some (d, f) →
    ∀ (s : State) (r : DrainRun), s.mtx.run = some r → exec i s = .next (Claims.wrote s r d (f s r).1 (f s r).2))
  ∧ ∀ (s : State) (r : DrainRun), s.mtx.run = some r → exec .dnop s = .next (s.setMtx { s.mtx with run := some { r with pc := r.pc + 1 } })

/-- R323, R326: DLDS, DSCALE and DBIAS take the side word of their row or column, which must lie in the team's scratchpad; else the drain
stops with SPAD_BOUNDS and the word's offset. -/
def Sys2Proof.Claims.DrainSideWords : Prop :=
  ∀ (i : Instr) (col : Bool) (k : BitVec 2) (d : BitVec 3) (f : DrainRun → Nat → Word64 × BitVec 5), Claims.sideValue i = some (col, k, d, f) →
    ∀ (s : State) (r : DrainRun) (o : MatOp) (tm : Team), s.mtx.run = some r → s.mtx.op? r.op = some o → s.team? o.g.team = some tm →
      let off := if col then field o.fmt0 48 16 * 16 + ((s.runLo r * 16 + r.elem % 16) * 4 + k.toNat) * 4
        else field o.fmt0 32 16 * 16 + ((8 * r.octet + r.elem / 16) * 4 + k.toNat) * 4
      let word := leNat (r.effs.foldl (fun bs e => match e with
        | .spad place data => overlay off bs place data
        | _ => bs) (cellRead (tm.spadOf o.g.shadow) off 4))
      (tm.spadIn (Int.ofNat off) 4 = true → exec i s = .next (Claims.wrote s r d (f r word).1 (f r word).2))
      ∧ (tm.spadIn (Int.ofNat off) 4 = false →
        exec i s = .next (s.stopDrain o r.slot r.elem r.octet ⟨cSPAD_BOUNDS, 0, BitVec.ofNat 64 off⟩))

/-- Drain micro-instructions that compute a d register. It rests on the model's readings of log entry 29. -/
def Obligations.DrainValueForms : Prop := Claims.DrainValues ∧ Claims.DrainSideWords

/-- R324, R326, R346: DST, DSTV and DLA keep their store for the element's end and go on; a range outside the scratchpad, a global
store that fails a check and a register that cannot take the addend stop the drain; one whose device is not reached leaves the element to be begun again
(R375). DSTV without VEN does nothing. -/
def Sys2Proof.Claims.DrainStores : Prop :=
  ∀ (s : State) (r : DrainRun) (o : MatOp) (tm : Team), s.mtx.run = some r → s.mtx.op? r.op = some o → s.team? o.g.team = some tm →
    (∀ x : DStI,
      let n := 2 ^ x.z.toNat
      let off := (Claims.dreg r x.b).toInt
      let bytes := leBytes n (Claims.dreg r x.a).toNat
      (x.glob = false → tm.spadIn off n = true → exec (.dst x) s = .next (Claims.stored s r (.spad off.toNat bytes)))
      ∧ (x.glob = false → tm.spadIn off n = false →
          exec (.dst x) s = .next (s.stopDrain o r.slot r.elem r.octet ⟨cSPAD_BOUNDS, 0, Claims.dreg r x.b⟩))
      ∧ (∀ va ps, x.glob = true → s.drainStore r o off n = .ok (va, ps) → exec (.dst x) s = .next (Claims.stored s r (.glob va ps bytes)))
      ∧ (∀ f, x.glob = true → s.drainStore r o off n = .error f →
          (f.code = cENDPOINT_DOWN → s.heldBack (.op (s.leadOp o).id) (s.drainFar r o off n) = none) →
            exec (.dst x) s = .next (s.stopDrain o r.slot r.elem r.octet f))
      ∧ (∀ f s1, x.glob = true → s.drainStore r o off n = .error f → f.code = cENDPOINT_DOWN →
          s.heldBack (.op (s.leadOp o).id) (s.drainFar r o off n) = some s1 → exec (.dst x) s = .next (s1.setMtx { s1.mtx with run := none })))
    ∧ (∀ x : DStvI,
      (bitAt o.fmt1 60 = false → exec (.dstv x) s = .next (s.setMtx { s.mtx with run := some { r with pc := r.pc + 1 } }))
      ∧ (bitAt o.fmt1 60 = true → bitAt o.fmt1 61 = false →
          exec (.dstv x) s = .next (Claims.stored s r (.vreg (field o.fmt1 52 8 + r.elem % 16) 1 (((Claims.dreg r x.a).setWidth 32).setWidth 64))))
      ∧ (bitAt o.fmt1 60 = true → bitAt o.fmt1 61 = true →
          exec (.dstv x) s = .next (Claims.stored s r (.vreg (field o.fmt1 52 8 + 2 * (r.elem % 16)) 2 (Claims.dreg r x.a)))))
    ∧ (∀ x : DLaI,
      (∀ m, s.runImage r x.x.toNat = some m → (m.wide = true ∨ x.ty ≠ .f64) →
          exec (.dla x) s = .next (Claims.stored s r (.acc x.x.toNat (x.ty == .f64) (Claims.dreg r x.a))))
      ∧ ((∀ m, s.runImage r x.x.toNat = some m → m.wide = false ∧ x.ty = .f64) →
          exec (.dla x) s = .next (s.stopDrain o r.slot r.elem r.octet ⟨cACCUM_UNBOUND, 0, x.x.setWidth 64⟩)))

namespace Sys2Proof.Claims
open Sys2Proof.Machine

/-- Which row a word of a tile belongs to in a view (R309). -/
def rowOfWord (v : MatAcc) (i : Nat) : Nat := if v = .f64 then i / 32 else i % 128 / 16

/-- The tiles that some operations are on: group, octet and number. -/
def tilesOf (l : List MatOp) : List (GroupKey × Nat × Nat) := l.flatMap (fun o => o.reqs.map (fun r => (o.g, r.octet, o.tile)))

/-- Every tile is held once, and is whole. -/
def TilesSound (s : State) : Prop :=
  (s.mtx.tiles.map (fun t => (t.g, t.octet, t.k))).Nodup ∧ ∀ t ∈ s.mtx.tiles, t.words.length = 256

/-- A thread of an octet has not exited, so that its tiles stay (R341). -/
def OctetLives (s : State) (k : GroupKey) (octet : Nat) : Prop :=
  ∀ g, s.group? k = some g → ∃ n th, n < 8 ∧ g.threads[8 * octet + n]? = some th ∧ th.exited = false

/-- Tiles apart from some have the words they had. -/
def OtherTiles (s t : State) (l : List (GroupKey × Nat × Nat)) : Prop :=
  ∀ k octet n, (k, octet, n) ∉ l → OctetLives s k octet → t.mtx.tileWords k octet n = s.mtx.tileWords k octet n

/-- What the stores of an element make of one byte of scratchpad, one byte of memory, one word of a register and one accumulator
image: the stores in program order, the last one counting (R324, R346). A part at a peer changes nothing here. -/
def spadAfter (l : List DrainEff) (a : Nat) (b : Byte) : Byte :=
  l.foldl (fun b e => match e with
    | .spad off bs => if off ≤ a ∧ a < off + bs.length then bs.getD (a - off) 0 else b
    | _ => b) b
def memAfter (s : State) (l : List DrainEff) (a : Nat) (b : Byte) : Byte :=
  l.foldl (fun b e => match e with
    | .glob _ ps bs => ps.foldl (fun b p =>
        let x := (bs.drop p.1).take p.2.1
        if s.elsewhere p.2.2.1 = false ∧ p.2.2.1 ≤ a ∧ a < p.2.2.1 + x.length then x.getD (a - p.2.2.1) 0 else b) b
    | _ => b) b
def regAfter (l : List DrainEff) (name : Nat) (w : Word32) : Word32 :=
  l.foldl (fun w e => match e with
    | .vreg n regs v => if n ≤ name ∧ name < n + regs then BitVec.ofNat 32 (v.toNat / 2 ^ (32 * (name - n))) else w
    | _ => w) w
def accAfter (l : List DrainEff) (x : Nat) (m : Image × BitVec 5) : Image × BitVec 5 :=
  l.foldl (fun m e => match e with
    | .acc y f64 bits =>
      if y = x then
        let q := m.1.take (if f64 then fF64.unpack bits.toNat else fF32.unpack (bits.toNat % 2 ^ 32))
        (q.1, m.2 ||| q.2)
      else m
    | _ => m) m
/-- The places in memory that an element's stores name. -/
def globParts (l : List DrainEff) : List (Nat × Nat × Nat × BitVec 10) :=
  l.flatMap (fun e => match e with
    | .glob _ ps _ => ps
    | _ => [])

end Sys2Proof.Claims

/-- R314, R324, R341, R346, R348, R351: DEND keeps the element's stores, in program order: after it the scratchpad's bytes, memory's
bytes, the thread's v registers and its accumulators are what the stores make of them, every other byte and register is as before,
and the flags its program raised wait with the instruction's completion flag; then the drain goes on at the next element of the
request. After a request's last element the rows it drained are zero where .Z is set, its octet's ready bits are set, the restart
registers of a stopped request are no longer valid, and with the instruction's last request its operation is gone and its flag counts
down. The primary copy of a check pair keeps nothing yet: the same element runs in the shadow's operation first, and stores that
differ stop the drain. -/
def Sys2Proof.Claims.DrainElementEnds : Prop :=
  (∀ (s : State) (r : DrainRun) (o : MatOp), s.mtx.run = some r → s.mtx.op? r.op = some o → r.first = none →
    let s0 := s.setMtx { s.mtx with run := none }
    (o.mate = none →
      exec .dend s = .next ((s0.keepEffs o r.thread r.effs r.fl).elemDone o r.octet r.elem)
      ∧ (∀ q e, r.effs = [] → o.flag = none → (∀ h ∈ s.isl.holds, h.key ≠ .op o.id) → o.reqs.find? (fun q => q.octet = r.octet) = some q →
          nextElem q.rows r.elem = some e →
          exec .dend s = .next (s0.setMtx { s0.mtx with drains := ⟨o.id, r.octet, e⟩ :: s.mtx.drains.filter (fun d => d.op ≠ o.id) })))
    ∧ (∀ q, o.mate.bind s.mtx.op? = some q →
      exec .dend s = .next (s0.beginElem q r.octet r.elem none (some (r.effs, r.fl)))))
  ∧ (∀ (s : State) (r : DrainRun) (o : MatOp) (effs : List DrainEff) (fl : BitVec 5), s.mtx.run = some r → s.mtx.op? r.op = some o →
      r.first = some (effs, fl) → effs.map effItem ≠ r.effs.map effItem →
        exec .dend s = .next ((s.setMtx { s.mtx with run := none }).stopDrain (s.leadOp o) r.slot r.elem r.octet ⟨cPAIR_MISMATCH, 0, 0⟩))
  ∧ (∀ (s : State) (r : DrainRun) (o : MatOp) (q : MatReq) (tm : Team) (g : Group) (th : Thread), s.mtx.run = some r → s.mtx.op? r.op = some o →
      r.first = none → o.mate = none → o.g.shadow = false → o.reqs.find? (fun q => q.octet = r.octet) = some q → s.team? o.g.team = some tm →
      cellsWf tm.spad = true → s.mem.wf = true → s.group? o.g = some g → g.threads[r.thread]? = some th → th.exited = false →
      r.elem < 128 → r.thread < 512 → (∀ p ∈ Claims.globParts r.effs, isDevReg p.2.2.1 = false) → Claims.TilesSound s →
        ∃ t tn h th', exec .dend s = .next t ∧ t.team? o.g.team = some tn ∧ t.group? o.g = some h ∧ h.threads[r.thread]? = some th'
          ∧ (∀ a, cellGet tn.spad a = Claims.spadAfter r.effs a (cellGet tm.spad a)) ∧ tn.spad2 = tm.spad2
          ∧ (∀ key, (∀ p ∈ Claims.globParts r.effs, s.elsewhere p.2.2.1 = true ∨ (isHbm p.2.2.1 = true ∧ s.accKey p.2.2.1 p.2.2.2 = key)) →
              (∀ a, t.mem.byteUnder key a = Claims.memAfter s r.effs a (s.mem.byteUnder key a))
              ∧ ∀ k a, (∀ p ∈ Claims.globParts r.effs, s.elsewhere p.2.2.1 = true ∨ a / 64 < p.2.2.1 / 64 ∨ p.2.2.1 + p.2.1 ≤ a / 64 * 64) →
                  t.mem.byteUnder k a = s.mem.byteUnder k a)
          ∧ (∀ name, (g.vEnt? name (r.thread / 8)).isSome = true → h.vWord name r.thread = Claims.regAfter r.effs name (g.vWord name r.thread))
          ∧ (∀ u name x, u ≠ r.thread → g.threads[u]? = some x → x.exited = false → h.vWord name u = g.vWord name u ∧ h.threads[u]? = some x)
          ∧ th'.acc = th.acc.mapIdx (fun x m => (Claims.accAfter r.effs x (m, 0)).1)
          ∧ th'.pend = (match o.flag with
            | none => th.pend
            | some n => th.pend ||| ((((th.acc.mapIdx (fun x m => (Claims.accAfter r.effs x (m, 0)).2)).foldl (· ||| ·) r.fl).setWidth 60) <<< (5 * n)))
          ∧ th'.fflags = th.fflags ∧ th'.exited = false
          ∧ (nextElem q.rows r.elem ≠ none → (∀ k octet n, t.mtx.tileWords k octet n = s.mtx.tileWords k octet n) ∧ t.mtx.ops = s.mtx.ops ∧ h.flags = g.flags)
          ∧ (nextElem q.rows r.elem = none →
            Claims.OtherTiles s t [(o.g, r.octet, o.tile)]
            ∧ (∀ i, i < 256 → (t.mtx.tileWords o.g r.octet o.tile).getD i 0
              = if (o.kind = .mmad true ∨ o.kind = .mdrain true) ∧ Claims.rowOfWord (fbAcc o.fmt0) i ∈ octetRowsOf q.rows then 0
                else (s.mtx.tileWords o.g r.octet o.tile).getD i 0)
            ∧ (∀ e ∈ h.v, ¬(e.busy = some o.id ∧ e.octet = r.octet))
            ∧ (if bitAt g.dr.pos 63 = true ∧ g.dr.req = q.id.setWidth 64 then bitAt h.dr.pos 63 = false ∧ bitAt h.dr.pos 61 = false else h.dr = g.dr)
            ∧ (if ∀ x ∈ o.reqs, x.octet ≠ r.octet → x.drained = true then
                t.mtx.op? o.id = none ∧ (s.ops.pts = [] → h.flags = (g.decFlag? o.flag).flags)
              else ∃ o', t.mtx.op? o.id = some o' ∧ h.flags = g.flags
                ∧ o'.reqs = o.reqs.map (fun x => if x.octet = r.octet then { x with drained := true } else x))))


/-! ## Clauses, cycles and waits (R14 to R17, R97, R104, R119, R130, R208, R213) -/

/-- DST, DSTV, DLA and DEND, and what a drained element leaves. It rests on the model's readings of log entry 29. -/
def Obligations.DrainStoreForms : Prop := Claims.DrainStores ∧ Claims.DrainElementEnds

namespace Sys2Proof.Claims
open Sys2Proof.Machine

/-- A split whose clause may start: its group's turn, nothing mid-clause, no stop and no class A trap of it before (R93, R130). -/
structure MayStart (s : State) (g : Group) (p : Split) : Prop where
  group : s.group? g.key = some g
  split : g.split? p.sid = some p
  primary : g.key.shadow = false
  alone : s.group? { g.key with shadow := true } = none
  turn : g.nextSplit = some p
  idle : ∀ q ∈ g.splits, q.issuing = true → g.stopped q.sid = true
  going : g.stopping = false
  calm : g.trapPends = false ∨ (g.oldest.map Split.sid) ≠ some p.sid

/-- The translation of the clause is kept and the page counted before the clause starts (R169, R394). -/
def fetched (s : State) (g : Group) (p : Split) : State :=
  let s1 := s.tlbFill g.core g.ctx p.pc.toNat
  match s1.translate g.core g.ctx p.pc.toNat .fetch g.fetchMember with
  | .ok (pa, _) => s1.touchPa g.ctx pa
  | .error _ => s1

/-- Of a state's groups only the one of a key becomes another; nothing else of the state changes. -/
structure OnlyGroup (s t : State) (h : Group) : Prop where
  here : t.group? h.key = some h
  others : ∀ k, k ≠ h.key → t.group? k = s.group? k
  rest : t = { s with groups := t.groups }

end Sys2Proof.Claims

/-- R15, R16, R17: CLAUSE_START. A split whose header and slots are sound and whose WAIT flags are zero issues from slot 1 with that
clause, and the other ready splits of its group have been passed once more (R104); at a region entry the region and the operand latch begin anew (R118, R124). With a flag above zero it waits; an unsound
clause is ILLEGAL_CLAUSE, and one that cannot be fetched raises the fault of the fetch (R181). -/
def Sys2Proof.Claims.ClauseStarts : Prop :=
  ∀ (s : State) (g : Group) (p : Split), Claims.MayStart s g p →
    let s2 := Claims.fetched s g p
    (∀ c va, s.fetchClause g.core g.ctx g.fetchMember p.pc.toNat = .error (c, va) →
      exec (.clauseStart ⟨g.key, p.sid⟩) s = .next (s2.clauseFault g p
        { code := c, addr := BitVec.ofNat 64 va, mask := g.splitLive p, detail := lateDetail .fetch, iaddr := BitVec.ofNat 64 va, inst := 0 }))
    ∧ ∀ (hd : Word64) (ws : List Word64), s.fetchClause g.core g.ctx g.fetchMember p.pc.toNat = .ok (hd, ws) →
      let flags := (List.range 12).filter (fun n => hd.getLsbD n)
      let entry := s.entersRegion g p.pc hd
      (headerSound hd = true → slotsSound ws = true → (∀ n ∈ flags, g.flag n = 0) → (entry = true → s.unchecked g.key p.sid p.region = false) →
        ∃ (t : State) (h : Group) (q : Split), exec (.clauseStart ⟨g.key, p.sid⟩) s = .next t ∧ Claims.OnlyGroup s2 t h
          ∧ q = { p with
              st := .issuing, slot := 1, header := hd, code := ws, region := if entry then some p.pc else p.region
              regionAt := if entry then g.seq else p.regionAt, latch := if entry then [] else p.latch, passed := 0 }
          ∧ h.splits = g.splits.map (fun r =>
              if r.sid = p.sid then q else if r.st = .boundary ∧ g.stopped r.sid = false then { r with passed := r.passed + 1 } else r)
          ∧ h.threads = (g.takePending p.mask flags).threads
          ∧ h = { g with v := h.v, seq := h.seq, threads := h.threads, splits := h.splits })
      ∧ (headerSound hd = true → slotsSound ws = true → (∃ n ∈ flags, g.flag n ≠ 0) →
        ∃ t, exec (.clauseStart ⟨g.key, p.sid⟩) s = .next t ∧ Claims.OnlyGroup s2 t (g.putSplit { p with st := .waiting, header := hd, passed := 0 }))
      ∧ ((headerSound hd = false ∨ slotsSound ws = false) →
        exec (.clauseStart ⟨g.key, p.sid⟩) s = .next (s2.clauseFault g p
          { code := cILLEGAL_CLAUSE, addr := p.pc, mask := g.splitLive p, iaddr := p.pc, inst := hd }))

/-- R97, R157, R159, R231: WAIT_SATISFIED. A split that waits for flags stands at its boundary once they are zero; one that waits
to issue again is mid-clause again, and its group offers the instruction to the issue slots (R208); one whose barrier generation is over, or whose monitor has ended, goes on
after its instruction, the barrier's wait as an acquire. -/
def Sys2Proof.Claims.WaitsEnd : Prop :=
  ∀ (s : State) (g : Group) (p : Split), s.group? g.key = some g → g.split? p.sid = some p → g.key.shadow = false →
    s.group? { g.key with shadow := true } = none →
      let ev := Instr.waitSatisfied ⟨g.key, p.sid⟩
      let ready := g.stopped p.sid = false ∧ g.stopping = false ∧ (g.trapPends = false ∨ (g.oldest.map Split.sid) ≠ some p.sid) ∧ g.noneIssuing = true
      (p.st = .waiting → (∀ n, n < 12 → p.header.getLsbD n = true → g.flag n = 0) →
        ∃ t, exec ev s = .next t ∧ Claims.OnlyGroup s t (g.putSplit { p with st := .boundary }))
      ∧ (∀ c op, p.st = .blocked (.retry c op) → ready → c ≠ wCURB →
        (c = wREMOTE → s.heldIssue ⟨g.key, p.sid⟩ p.iaddr = false) → (∀ o, op = some o → s.underWay o = false) →
        ∃ t, exec ev s = .next t ∧ Claims.OnlyGroup s t (g.putSplit { p with st := .issuing }))
      ∧ (∀ n tok k tm, p.st = .blocked (.barrier n tok k) → ready → s.team? g.key.team = some tm → ((tm.bar n).gen - tok).toNat < 2 ^ 31 →
        exec ev s = .next ((s.acquire g.key g.core g.ctx .team).passBoth g.key p.sid))
      ∧ (∀ n tok pr m tm, p.st = .blocked (.barLast n tok pr m) → ready → s.team? g.key.team = some tm → ((tm.bar n).gen - tok).toNat < 2 ^ 31 →
        exec ev s = .next ((((s.acquire g.key g.core g.ctx .team).lastResult g.key p.sid n tok pr m).dropElected g.key p.sid n tok).passBoth g.key p.sid))
      ∧ (∀ op, p.st = .blocked (.monitor op) → ready → s.memOp? op = none → exec ev s = .next (s.passBoth g.key p.sid))

/-- Clauses start, and waits end. It rests on the model's readings of log entries 12, 16, 41. -/
def Obligations.ClausesAndWaits : Prop := Claims.ClauseStarts ∧ Claims.WaitsEnd

/-- R208, R104, R213, R212: a cycle passes at ISSUE_SLOT_SELECTION, once what the last one selected has issued, and the splits it selects
issue next; nothing else but the groups' counters, the counter of the M-die whose soft error is corrected, the L1 line that one
strikes (R176) and the hottest junction's temperature (R386), as the inputs of the cycle say, changes. No cycle passes while a
group that has been ready for 4,032 cycles offers nothing to issue, so that it issues within the 4,096 of R104 (the bound of
4,032 is the model's, log entry 12), nor before the Curb window that begins with it (R352). PAUSE_EXPIRY ends a pause that is
over. WATCHDOG_EXPIRY raises WATCHDOG with the wait reason. -/
def Sys2Proof.Claims.CyclesPass : Prop :=
  (∀ (s : State), (∀ g ∈ s.groups, g.readyFor < 4032 ∨ s.cycle < g.pauseEnd ∨ s.isReady g = false ∨ (g.offer s.cycle).isSome = true) →
    s.cycle + 1 < (s.mtx.window + 1) * 1024 → s.sched.issue = [] →
    let x := s.cycleInput
    ∃ gs : List Group, exec .issueSlotSelection s = .next
      { s with cycle := s.cycle + 1, groups := gs
               sched := { s.sched with issue := s.selected, inputs := s.sched.inputs.tail }
               mem := { s.mem with ecc := (s.strike x).ecc, l1 := (s.strike x).l1 }, pkg := { s.pkg with tmax := x.hot.getD s.pkg.tmax, cool := (s.pkg.heat (x.hot.getD s.pkg.tmax) s.cycle).cool } }
    ∧ (∀ d, x.soft = some d → 10 ≤ d → d < 18 → s.dieLost d = false → lookupD (s.strike x).ecc d 0 = lookupD s.mem.ecc d 0 + 1)
    ∧ gs.length = s.groups.length
    ∧ ∀ (n : Nat) (g : Group), s.groups[n]? = some g → ∃ h : Group, gs[n]? = some h
        ∧ h = { g with wd := h.wd, stallRdy := h.stallRdy, curbCycles := h.curbCycles, yieldHint := h.yieldHint, readyFor := h.readyFor }
        ∧ (h.wd = g.wd ∨ h.wd = g.wd + 1))
  ∧ (∀ (s : State), (s.sched.issue ≠ [] ∨ (∃ g ∈ s.groups, 4032 ≤ g.readyFor ∧ g.pauseEnd ≤ s.cycle ∧ s.isReady g = true ∧ g.offer s.cycle = none)) →
      exec .issueSlotSelection s = .fault (.notDue "ISSUE_SLOT_SELECTION"))
  ∧ (∀ (s : State) (g : Group), s.group? g.key = some g →
      (g.pauseEnd ≠ 0 → g.pauseEnd ≤ s.cycle → exec (.pauseExpiry ⟨g.key⟩) s = .next (s.putGroup { g with pauseEnd := 0 }))
      ∧ (g.key.shadow = false → s.group? { g.key with shadow := true } = none → s.wdLimit g.ctx ≤ g.wd →
          ∃ t, exec (.watchdogExpiry ⟨g.key⟩) s = .next t
            ∧ Claims.OnlyGroup s t { g with wd := 0, asyncs := g.asyncs ++ [⟨cWATCHDOG, (s.waitReason g).setWidth 64, false⟩] }))

namespace Sys2Proof.Claims
open Sys2Proof.Machine

/-- A thread of an octet that has not exited. -/
def LiveOctet (g : Group) (octet : Nat) : Prop := ∃ i th, i < 8 ∧ g.threads[8 * octet + i]? = some th ∧ th.exited = false

/-- The results of one octet of a load stand where they are awaited in a copy of its group: in v entries, w registers or an s
register; a thread whose access was not sound writes nothing, and no other entry changes (R78, R119). -/
structure ResultsIn (g h : Group) (o : MemOp) (octet : Nat) (x : Nat → Nat) : Prop where
  v : ∀ n r e, o.dest = .v n r → e ∈ g.v → e.busy = some o.id → e.octet = octet → n ≤ e.name → e.name < n + r → LiveOctet g octet →
    ∃ d ∈ h.v, d.name = e.name ∧ d.octet = octet ∧ d.busy = none ∧ d.pend = e.pend ∧ ∀ j, j < 8 → d.vals.getD j 0
      = if o.sound.getLsbD (8 * octet + j) then BitVec.ofNat 32 (x (8 * octet + j) / 2 ^ (32 * (e.name - n))) else e.vals.getD j 0
  others : ∀ e ∈ g.v, (e.busy.isSome = true ∨ LiveOctet g e.octet) →
    (∀ n r, o.dest = .v n r → ¬(e.busy = some o.id ∧ e.octet = octet)) → e ∈ h.v
  w : ∀ n r e, o.dest = .w n r → e ∈ g.wr → e.busy = some o.id → n ≤ e.name → e.name < n + r → (∃ th ∈ g.threads, th.exited = false) →
    ∃ d ∈ h.wr, d.name = e.name ∧ d.busy = none
      ∧ (∀ t, t < g.f → o.sound.getLsbD t = true → (∀ u, u < t → o.sound.getLsbD u = true → g.laneOf u ≠ g.laneOf t) → g.laneOf t < g.w →
          d.lanes.getD (g.laneOf t) 0 = BitVec.ofNat 32 (x t / 2 ^ (32 * (e.name - n))))
      ∧ ∀ l, l < g.w → (∀ t, t < g.f → o.sound.getLsbD t = true → g.laneOf t ≠ l) → d.lanes.getD l 0 = e.lanes.getD l 0
  s : ∀ n p, o.dest = .s n → p ∈ g.splits → (n, o.id) ∈ p.sBusy → n < p.s.length →
    ∃ q ∈ h.splits, q.sid = p.sid ∧ q.mask = p.mask ∧ (n, o.id) ∉ q.sBusy
      ∧ (∀ t, t < g.f → o.sound.getLsbD t = true → (∀ u, u < t → o.sound.getLsbD u = false) → q.s.getD n 0 = BitVec.ofNat 64 (x t))
      ∧ ∀ k, k ≠ n → q.s.getD k 0 = p.s.getD k 0

end Sys2Proof.Claims

/-- R78, R119: VARIABLE_LATENCY_RESULT_ARRIVAL. The data of one octet of a load that is not its last goes to the entries that await it,
in the two copies of a check pair alike, and the operation keeps the rest; the last takes its operation away. Where every place
answered, each awaited register holds the loaded value of its thread's bytes, every other entry stays, and the flag counts down
with the last octet. -/
def Sys2Proof.Claims.ResultsArrive : Prop :=
  ∀ (s : State) (o : MemOp) (octet : Nat), s.memOp? o.id = some o → (o.kind = .load ∨ o.kind = .ldra) →
    octet ∈ o.octetsLeft → o.octetReady octet = true →
      let o1 := { o with arrived := o.arrived ||| BitVec.twoPow 64 octet }
      ((∃ n r, o.dest = .v n r) → o1.octetsLeft ≠ [] →
        exec (.variableLatencyResultArrival ⟨o.id, octet⟩) s
          = .next (((s.deliverOctet o octet).putMemOp o1).bothCopies o.g Group.returnEntries))
      ∧ (∀ t, (o1.octetsLeft = [] ∨ (∃ n r, o.dest = .w n r) ∨ (∃ n, o.dest = .s n)) → (s.deliverOctet o octet).loadDone o1 = some t →
        exec (.variableLatencyResultArrival ⟨o.id, octet⟩) s = .next t)
      ∧ ((∀ p ∈ o.pieces, ∀ c, p.st ≠ .bad c) → o.args = [] →
        let last := o1.octetsLeft = [] ∨ (∃ n r, o.dest = .w n r) ∨ (∃ n, o.dest = .s n)
        ∃ t, exec (.variableLatencyResultArrival ⟨o.id, octet⟩) s = .next t
          ∧ (last → ∀ p ∈ t.ops.mem, p.id ≠ o.id) ∧ (¬last → t.memOp? o.id = some o1 ∧ t.mem = s.mem)
          ∧ (o.acq = false → s.ops.pts = [] → t.mem = s.mem)
          ∧ ∀ (k : GroupKey) (g : Group), k = { o.g with shadow := k.shadow } → s.group? k = some g →
            ∃ h, t.group? k = some h ∧ h.threads = g.threads
              ∧ Claims.ResultsIn g h o octet (fun u => loadVal o.signed o.width (threadBytes o.pieces u))
              ∧ (¬last → h.flags = g.flags) ∧ (last → s.ops.pts = [] → ∀ f, h.flag f = if o.flag = some f then g.flag f - 1 else g.flag f))

/-- Cycles pass; loads leave their values. It rests on the model's readings of log entries 6, 12, 18, 33, 36. -/
def Obligations.CyclesAndResults : Prop := Claims.CyclesPass ∧ Claims.ResultsArrive

namespace Sys2Proof.Claims
open Sys2Proof.Machine

/-- A thread of a team as a sort takes it: its place, the key it supplied (15 where it is parked or has exited), its record with every
pending IEEE flag taken, and the words of the names it carries (R99, R100). -/
def mover (g : Group) (names : List Nat) (t : Nat) (th : Thread) : Mover :=
  { pos := g.key.group * g.f + t
    key := if th.exited || th.parked then 15
      else ((g.arrivals.findSome? (fun e => if e.1.mask.getLsbD t then some (e.2.keys.getD t 16) else none)).getD 15) % 16
    th := (List.range 12).foldl Thread.takePending th
    words := names.map (fun n => g.vWord n t) }

/-- The order after a REGRP: by key, ties by place, or by %origin in deterministic mode (R99); after a REGRET, by %origin (R103). -/
def sortedFor (ret det : Bool) (x y : Mover) : Prop :=
  if ret then x.th.origin ≤ y.th.origin
  else x.key < y.key ∨ (x.key = y.key ∧ if det then x.th.origin ≤ y.th.origin else x.pos ≤ y.pos)

/-- The record of a thread at its new place: parked by key 15 after a REGRP and by nothing after a REGRET; the x registers of the place
stay there (R99, R100, R103). -/
def settledAt (ret : Bool) (now : Nat) (m : Mover) (old : Thread) : Thread :=
  { m.th with parked := if ret then false else m.th.parked || (m.key == 15 && !m.th.exited), acc := old.acc, done := m.th.done.map (fun _ => now) }

/-- The groups of a team, all resident and in one copy, numbered from 0, each of f threads. -/
structure WholeTeam (s : State) (tm : Team) (gs : List Group) (f : Nat) : Prop where
  here : s.team? tm.key = some tm
  groups : gs = s.copyGroups tm.key false
  single : s.copyGroups tm.key true = []
  resident : ∀ y ∈ s.saved, y.g.key.team ≠ tm.key
  gone : tm.gone = []
  numbers : gs.map (fun g => g.key.group) = List.range gs.length
  threads : f % 8 = 0 ∧ ∀ g ∈ gs, g.f = f ∧ g.threads.length = f

/-- A group after the sort: the threads that the order puts there, with the words they carry; what is not carried stays with the place;
no w register is valid; and one split holds the threads that are neither parked nor exited (R99 to R101). -/
structure Sorted (g h : Group) (a : Arrival) (now : Nat) (ms : List Mover) : Prop where
  threads : ∀ i, i < g.f → h.threads[i]? = (ms[g.key.group * g.f + i]?).bind (fun m => (g.threads[i]?).map (settledAt a.ret now m))
  carried : ∀ i m, i < g.f → ms[g.key.group * g.f + i]? = some m → m.th.exited = false →
    (∀ j, j < a.n → h.vWord (a.vb + j) i = m.words.getD j 0)
      ∧ ∀ name, (name < a.vb ∨ a.vb + a.n ≤ name) → h.vWord name i = g.vWord name i
  shared : h.wr = [] ∧ h.stale = ~~~0#32
  split : (h.liveMask = 0#512 → h.splits = []) ∧ (h.liveMask ≠ 0#512 → ∃ q, h.splits = [q] ∧ q.mask = h.liveMask ∧ q.defer = [])

end Sys2Proof.Claims

/-- TAKE_CLASS_A_TRAP (R130): the class A trap of the lowest code is taken by the oldest split, at a clause boundary or at the instruction
it is blocked on, whose arrivals are taken back, and is no longer pending. -/
def Sys2Proof.Claims.ClassATaken : Prop :=
  ∀ (s : State) (g : Group) (p : Split) (a : ClassA), s.group? g.key = some g → g.oldest = some p → firstAsync g.asyncs = some a →
    g.priv = false → g.key.shadow = false →
      let s1 := s.putGroup { g with asyncs := g.asyncs.erase a }
      let info (iaddr : Word64) (again : Bool) : TrapInfo :=
        { code := a.code, addr := a.addr, mask := g.splitLive p, iaddr := iaddr, inst := 0, async := true, nores := a.nores, again := again }
      (∀ b ∈ g.asyncs, a.code.toNat ≤ b.code.toNat)
      ∧ (p.st = .boundary ∨ p.st = .waiting →
          exec (.takeClassATrap ⟨g.key⟩) s = .next (s1.trapBoth g.key p.sid (info p.pc false) (some p.pc)))
      ∧ (∀ w, p.st = .blocked w → s.undone g w = true →
          exec (.takeClassATrap ⟨g.key⟩) s = .next ((s1.takeBack g p.sid w).trapBoth g.key p.sid (info p.iaddr true) p.region))

namespace Sys2Proof.Claims
open Sys2Proof.Machine

/-- Nothing that a group issued is still to be performed: no access but a prefetch, no copy, and no register that awaits a result
(R70, R82, R114, R115). -/
structure Performed (s : State) (g : Group) : Prop where
  mem : ∀ o ∈ s.ops.mem, o.g = { g.key with shadow := false } → ∃ b, o.kind = .pref b
  copies : ∀ o ∈ s.ops.copies, o.g ≠ { g.key with shadow := false }
  results : (∀ e ∈ g.v, e.busy = none) ∧ ∀ e ∈ g.wr, e.busy = none

end Sys2Proof.Claims

/-- GROUP_END (R70, R106, R341, R348): a group all of whose threads have exited, with its flags clear, no matrix work and nothing it issued
still to be performed (R82, R114), goes, with the other copy of its check pair and its tiles; a drain that stands stopped is
abandoned first; a saved group goes from where it is. -/
def Sys2Proof.Claims.GroupEnds : Prop :=
  (∀ (s : State) (g : Group), s.group? g.key = some g → g.key.shadow = false → (∀ th ∈ g.threads, th.exited = true) →
    let sh : GroupKey := { g.key with shadow := true }
    ((∃ o ∈ s.mtx.ops, o.g = g.key ∧ o.stopped = true) → exec (.groupEnd ⟨g.key⟩) s = .next (s.setMtx (s.mtx.abandon g.key)))
    ∧ (g.flagsClear = true → (∀ o ∈ s.mtx.ops, o.g ≠ g.key) → Claims.Performed s g →
        (∀ h, s.group? sh = some h → h.ended = true ∧ Claims.Performed s h) →
      ∃ t, exec (.groupEnd ⟨g.key⟩) s = .next t
        ∧ t.groups.map Group.key = (s.groups.filter (fun h => h.key ≠ g.key && h.key ≠ sh)).map Group.key
        ∧ ∀ e ∈ t.mtx.tiles, e.g ≠ g.key))
  ∧ (∀ (s : State) (y : Saved), s.group? y.g.key = none → s.saved.find? (fun z => z.g.key = y.g.key) = some y → y.g.key.shadow = false →
      y.g.ended = true → ∃ t, exec (.groupEnd ⟨y.g.key⟩) s = .next t
        ∧ t.groups = s.groups ∧ t.saved = s.saved.filter (fun z => z.g.key ≠ y.g.key && z.g.key ≠ { y.g.key with shadow := true }))

/-- CORRAL_SORT (R98 to R103): once the whole team has arrived at one REGRP or REGRET, its threads stand in the order of their keys, or, after
a REGRET, at their origins, each with what it carries; a REGRET of a team that is not regrouped moves nothing. Nothing carried, the
sort completes. Where two splits have arrived at different instructions, every group raises REGROUP_MISMATCH. -/
def Sys2Proof.Claims.CorralSorts : Prop :=
  ∀ (s : State) (tm : Team) (gs : List Group) (f : Nat) (p : Split) (a : Arrival) (rest : List (Split × Arrival)), Claims.WholeTeam s tm gs f →
    (∀ g ∈ gs, g.arrived = true ∧ g.priv = false) → s.teamQuiet tm.key = true → gs.flatMap Group.arrivals = (p, a) :: rest →
      ((∀ e ∈ rest, e.1.iaddr = p.iaddr) →
        (a.n = 0 → (∀ g ∈ gs, s.coreHolds g.core = true) → ∃ t, s.corral tm p a = .ok t)
        ∧ ∀ t, s.corral tm p a = .ok t → exec (.corralSort ⟨tm.key⟩) s = .next t
          ∧ (∀ u, t.team? tm.key = some u → u.regrouped = !a.ret)
          ∧ (a.ret = true → tm.regrouped = false → ∀ g ∈ gs, ∃ h, t.group? g.key = some h ∧ h.threads = g.threads ∧ h.wr = g.wr ∧ h.stale = g.stale)
          ∧ (a.ret = false ∨ tm.regrouped = true → ∃ ms : List Mover,
              ms.Perm (gs.flatMap (fun g => g.threads.mapIdx (Claims.mover g ((List.range a.n).map (fun i => a.vb + i)))))
              ∧ ms.Pairwise (Claims.sortedFor a.ret (s.teamDet tm.key))
              ∧ ∀ g ∈ gs, ∃ h, t.group? g.key = some h ∧ Claims.Sorted g h a s.sched.nextId ms))
      ∧ ((∃ e ∈ rest, e.1.iaddr ≠ p.iaddr) → exec (.corralSort ⟨tm.key⟩) s = .next (s.corralMismatch gs))

namespace Sys2Proof.Claims
open Sys2Proof.Machine

/-- One group, in one copy, is saved: its record stands in its context's save area, the group is resident no more, and it is kept with
its registers (R116, R210, R211). -/
structure SavedOne (s t : State) (g : Group) (kind : SaveKind) (pool : Bool) : Prop where
  resident : t.groups.map Group.key = (s.groups.filter (fun h => h.key ≠ g.key)).map Group.key
  kept : ∃ y, t.saved = s.saved ++ [y] ∧ y.g = { (s.flushPrivate g.core g.ctx).noteOperands g with evictReq := false, haltReq := false } ∧ y.halted = kind.halt ∧ y.safe = kind.safe
    ∧ y.regpool = pool ∧ y.size = ((s.flushPrivate g.core g.ctx).groupRecord g ((s.flushPrivate g.core g.ctx).recTiles g.key) kind).length
    ∧ cellRead t.mem.cells y.addr y.size = (s.flushPrivate g.core g.ctx).groupRecord g ((s.flushPrivate g.core g.ctx).recTiles g.key) kind
  tiles : ∀ e ∈ t.mtx.tiles, e.g ≠ g.key

/-- The save pool of a group's context has room for its record. -/
def RoomToSave (s : State) (g : Group) (kind : SaveKind) : Prop :=
  let s0 := s.flushPrivate g.core g.ctx
  ((s0.ctx? g.ctx).bind (fun c => c.findRoom (s0.groupRecord g (s0.recTiles g.key) kind).length)).isSome = true

end Sys2Proof.Claims

/-- REGPOOL_EVICTION (R116): a core whose groups all wait for entries saves its youngest, with every entry it holds, and those are free; where
the save pool has no room for it, it raises REG_EXHAUSTED. CORE_UNCORRECTABLE_ERROR (R132): a core with an error holds no team afterwards
that stood on it alone, keeps no line, and takes no other. -/
def Sys2Proof.Claims.CoresGiveUp : Prop :=
  (∀ (s : State) (core : Nat) (g h : Group) (rest : List Group), s.youngest core = g :: h :: rest → (∀ e ∈ g :: h :: rest, e.poolBlocked = true) →
    g.key.shadow = false → s.copiesOf g.key = [g] → s.quiet g = true → s.mem.wf = true →
      let kind : SaveKind := ⟨false, s.teamRegrouped g.key.team, false, none⟩
      (Claims.RoomToSave s g kind → ∃ t, exec (.regpoolEviction ⟨core⟩) s = .next t ∧ Claims.SavedOne s t g kind true)
      ∧ (¬Claims.RoomToSave s g kind → exec (.regpoolEviction ⟨core⟩) s = .next (s.exhaust g)))
  ∧ (∀ (s : State) (core : Nat), core < 384 → core ∉ s.pkg.badCores →
      ∃ t, exec (.coreUncorrectableError ⟨core⟩) s = .next t ∧ core ∈ t.pkg.badCores ∧ (∀ l ∈ t.mem.l1, l.core ≠ core)
        ∧ ∀ tm ∈ s.teamsOn core, tm.pair = false → ∀ g ∈ t.groups, g.key.team ≠ tm.key)

/-- Class A traps, the end of a group, sorts, evictions and core errors. It rests on the model's readings of log entries 16, 24, 41,
42. -/
def Obligations.GroupEvents : Prop := Claims.ClassATaken ∧ Claims.GroupEnds ∧ Claims.CorralSorts ∧ Claims.CoresGiveUp

/-! ## Launches and teams on the cores (R197 to R210) -/

namespace Sys2Proof.Claims
open Sys2Proof.Machine

/-- A context has these entries more to post to its completion ring (R200, R394). -/
def PostsAdded (s t : State) (ctx : Nat) (l : List (Word64 × Word64 × Nat)) : Prop :=
  ∀ c, s.ctx? ctx = some c → ∃ d, t.ctx? ctx = some d ∧ d.posts = c.posts ++ l

/-- The device's own access of a range needs no device that is not reached, and nothing of it is held back (R375). -/
structure Free (s : State) (ctx va n : Nat) (p : Perm) : Prop where
  near : s.devFar ctx va n p = none
  calm : ∀ h ∈ s.isl.holds, h.key ≠ .dev ctx va

/-- The completion word of a launch: its status, and the first faulting team and cause (R200). -/
def doneWord (l : Launch) : Word64 :=
  let status := if l.aborted then 4 else if l.invalid then 2 else if l.tableBad then 3 else if l.fault.isSome then 1 else 0
  match l.fault with
  | some (t, c) => BitVec.ofNat 64 (t % 2 ^ 32 * 2 ^ 16 + c.toNat * 2 ^ 8 + status)
  | none => BitVec.ofNat 64 status

end Sys2Proof.Claims

/-- R197, R199, R200, R401: DISTRIBUTOR_TAKE_LAUNCH advances the head of the queue it serves and takes the entry as a launch, one that
LAUNCH has queued under the handle it gave; an entry that cannot be read, or whose record fails its checks, completes at once as
invalid, with status 2. LAUNCH_COMPLETE, once the teams have all ended and their accesses are released, writes the completion word to
DONE and posts it; COMPLETION_RING_POST writes one posted entry to the ring, or, where the ring lies at a device that is not reached, holds
the write, and when the retry period of R375 is over goes on without it. -/
def Sys2Proof.Claims.LaunchesRun : Prop :=
  (∀ (s : State) (c : Context) (q : Nat), s.ctx? c.id = some c → s.serves c q = true →
    let n := countOf c.qhead q
    let handle := c.id * 2 ^ 54 + q * 2 ^ 48 + (c.seq + 1) % 2 ^ 48
    let ev := Instr.distributorTakeLaunch ⟨c.id, q⟩
    (∀ p ∈ c.pre, ¬(p.q = q ∧ p.n = n)) → (∀ l ∈ s.launches, l.handle ≠ handle) → Claims.Free s c.id (c.entryAt q n) 256 .load →
      (∀ raw r nargs counts, s.entryBytes c q = some raw → parseRec raw = (r, nargs, true) → s.recordOk c.id r nargs true = true →
        s.readResv c.id r = some counts → (r.resv ≠ 0 → Claims.Free s c.id r.resv.toNat (4 * r.teams) .load) →
          ∃ t, exec ev s = .next t
            ∧ t.launches = s.launches ++ [{ Launch.fresh handle c.id q s.sched.nextOrder r with resv := counts }]
            ∧ (∃ d, t.ctx? c.id = some d ∧ countOf d.qhead q = n + 1 ∧ d.seq = c.seq + 1)
            ∧ t.mem = { s.mem with hl2 := t.mem.hl2 } ∧ t.groups = s.groups)
      ∧ ((s.entryBytes c q = none ∨ ∃ raw r nargs sound, s.entryBytes c q = some raw ∧ parseRec raw = (r, nargs, sound)
            ∧ (s.recordOk c.id r nargs sound = false ∨ (s.readResv c.id r = none ∧ Claims.Free s c.id r.resv.toNat (4 * r.teams) .load))) →
          ∃ t, exec ev s = .next t
            ∧ t.launches = s.launches ++ [{ Launch.fresh handle c.id q s.sched.nextOrder .zero with invalid := true, complete := true }]
            ∧ (∃ d, t.ctx? c.id = some d ∧ countOf d.qhead q = n + 1 ∧ d.seq = c.seq + 1)
            ∧ Claims.PostsAdded s t c.id [(BitVec.ofNat 64 handle, 2#64, s.cycle - s.born)]
            ∧ t.mem = { s.mem with hl2 := t.mem.hl2 } ∧ t.groups = s.groups))
  ∧ (∀ (s : State) (c : Context) (q : Nat) (p : Queued) (raw : List Byte) (r : LRec) (nargs : Nat) (sound : Bool), s.ctx? c.id = some c →
    s.serves c q = true → c.pre.find? (fun e => e.q = q && e.n = countOf c.qhead q) = some p → s.entryBytes c q = some raw →
    Claims.Free s c.id (c.entryAt q (countOf c.qhead q)) 256 .load →
      parseRec raw = (r, nargs, sound) → ∃ t, exec (.distributorTakeLaunch ⟨c.id, q⟩) s = .next t
        ∧ t.launches = s.launches ++ [{ Launch.fresh p.handle c.id q p.order r with resv := p.resv }]
        ∧ (∃ d, t.ctx? c.id = some d ∧ countOf d.qhead q = countOf c.qhead q + 1 ∧ d.seq = c.seq))
  ∧ (∀ (s : State) (l : Launch), s.launch? l.handle = some l → l.complete = false → l.allDispatched = true → (∀ t ∈ l.dispatched, t ∈ l.ended) →
      s.launchReleased l.handle = true → (l.invalid = false → l.lrec.done ≠ 0 → Claims.Free s l.ctx l.lrec.done.toNat 8 .store) →
        let s1 := s.putLaunch { l with complete := true }
        ∃ t, exec (.launchComplete ⟨l.handle⟩) s = .next t ∧ t.launch? l.handle = some { l with complete := true }
          ∧ t.mem = (if l.invalid = true ∨ l.lrec.done = 0 then s1 else s1.devStore l.ctx l.lrec.done.toNat (leBytes 8 (Claims.doneWord l).toNat)).mem
          ∧ Claims.PostsAdded s t l.ctx [(BitVec.ofNat 64 l.handle, Claims.doneWord l, s.cycle - s.born)])
  ∧ (∀ (s : State) (c : Context) (h w : Word64) (cyc : Nat) (rest : List (Word64 × Word64 × Nat)), s.ctx? c.id = some c →
      c.posts = (h, w, cyc) :: rest → c.ringRoom ≠ 0 →
        let size := if c.gen = 2 then 32 else 16
        let entry := leBytes 8 h.toNat ++ leBytes 8 w.toNat ++ (if c.gen = 2 then leBytes 8 cyc ++ leBytes 8 0 else [])
        let va := c.crbase.toNat + c.crtail.toNat % c.crdepth * size
        (Claims.Free s c.id va size .store →
          exec (.completionRingPost ⟨c.id⟩) s
            = .next ((s.devStore c.id va entry).modCtx c.id (fun c => { c with posts := rest, crtail := c.crtail + 1 })))
        ∧ (∀ d, s.devFar c.id va size .store = some d →
          ((∀ e ∈ s.isl.holds, e.key ≠ .dev c.id va) → ∃ (t : State) (e : HeldReq), exec (.completionRingPost ⟨c.id⟩) s = .next t
            ∧ t.isl.holds = s.isl.holds ++ [e] ∧ e.key = .dev c.id va ∧ e.dev = d ∧ e.since = s.cycle ∧ t.mem = s.mem ∧ t.ctxs = s.ctxs)
          ∧ (∀ e ∈ s.isl.holds, (∀ f ∈ s.isl.holds, f.key = .dev c.id va ∧ f.dev = d → f = e) → e.key = .dev c.id va → e.dev = d →
            (s.passed e.since s.isl.retry = false → exec (.completionRingPost ⟨c.id⟩) s = .fault (.notDue "COMPLETION_RING_POST"))
            ∧ (s.passed e.since s.isl.retry = true → ∃ t u, exec (.completionRingPost ⟨c.id⟩) s = .next t ∧ t.mem.cells = s.mem.cells
              ∧ t.ctx? c.id = some u ∧ u.posts = rest ∧ u.crtail = c.crtail + 1 ∧ ∀ f ∈ t.isl.holds, f.key ≠ .dev c.id va))))

/-- R84, R87, R161, R201, R205, R207: TEAM_DISPATCH places the next team that may go on a core with room for it, each group with one split at
ENTRY; a TABLE row that names no team stops the launch. TEAM_BITMAP_SET sets a finished team's bit where the launch names a bitmap. -/
def Sys2Proof.Claims.TeamsRun : Prop :=
  (∀ (s : State) (l : Launch) (team core : Nat), s.launch? l.handle = some l → l.allDispatched = false →
    (s.firstGoing l = some (team, true) → s.fits l.lrec core = true → (l.lrec.priv = 0 ∨ l.freeArea.isSome = true) →
      ∃ t, exec (.teamDispatch ⟨l.handle, team, core⟩) s = .next t
        ∧ (∃ tm ∈ t.teams, tm.key = ⟨l.handle, team⟩ ∧ tm.core = core ∧ tm.x = team % l.lrec.nx ∧ tm.y = team / l.lrec.nx % l.lrec.ny
            ∧ tm.z = team / (l.lrec.nx * l.lrec.ny) % l.lrec.nz ∧ tm.mb = team / (l.lrec.nx * l.lrec.ny * l.lrec.nz))
        ∧ (∀ n, n < l.lrec.groups → ∃ h ∈ t.groups, h.key = ⟨⟨l.handle, team⟩, n, false⟩ ∧ h.threads.length = l.lrec.w * l.lrec.m
            ∧ h.core = (if l.lrec.pairchk = true ∨ n < 16 then core else core + 1) ∧ h.splits.map (fun p => (p.pc, p.st)) = [(l.lrec.entry, .boundary)])
        ∧ (∀ k, t.launch? l.handle = some k → k.dispatched = l.dispatched ++ [team]))
    ∧ (s.firstGoing l = some (team, false) → Claims.Free s l.ctx (l.lrec.table.toNat + 64 * team) 64 .load → exec (.teamDispatch ⟨l.handle, team, core⟩) s
        = .next ((s.depTouch l team).putLaunch { l with tableBad := true })))
  ∧ (∀ (s : State) (l : Launch) (tm : Team), s.team? tm.key = some tm → s.launch? tm.key.launch = some l → tm.bitSet = false →
      l.lrec.bitmap ≠ 0 → (∀ n, n < l.lrec.groups → s.groupDone ⟨tm.key, n, false⟩ l.lrec.f = true) →
        let va := l.lrec.bitmap.toNat + tm.key.team / 8
        Claims.Free s l.ctx va 1 .load →
        let s1 := (s.putTeam { tm with bitSet := true }).devTouch l.ctx va 1 .load
        (∀ b, s.devRead l.ctx va 1 = some [b] → exec (.teamBitmapSet ⟨tm.key⟩) s
          = .next ((s1.devStore l.ctx va [b ||| BitVec.twoPow 8 (tm.key.team % 8)]).endTeam tm.key))
        ∧ (s.devRead l.ctx va 1 = none → exec (.teamBitmapSet ⟨tm.key⟩) s = .next (s1.endTeam tm.key)))

/-- Launches are taken, dispatched, completed and posted. It rests on the model's readings of log entry 25. -/
def Obligations.LaunchesAndTeams : Prop := Claims.LaunchesRun ∧ Claims.TeamsRun

namespace Sys2Proof.Claims
open Sys2Proof.Machine

/-- The groups chosen on a core for the first of some waiting launches are asked to leave; without them a team of one of those launches
fits there; nothing else changes (R209). -/
def AsksToLeave (s : State) (ctx core : Nat) (ls : List Launch) (ev : Instr) : Prop :=
  ∀ ks, ls.findSome? (fun l => s.victims ctx core l) = some ks →
    let chosen (g : Group) : Bool := ks.contains { g.key with shadow := false }
    (∃ g ∈ s.groups, chosen g = true ∧ g.evictReq = false) →
      exec ev s = .next { s with groups := s.groups.map (fun g => if chosen g then { g with evictReq := true } else g) }
      ∧ ∃ l ∈ ls, (s.without ks).fits l.lrec ((l.lrec.coresAt core).headD core) = true
        ∧ ∀ k ∈ ks, ∃ g ∈ s.groups, g.key = k ∧ (l.lrec.coresAt core).contains g.core = true ∧ s.preemptible g = true

/-- The record of a split, of a v entry and of a thread's predicates in a group's save record (R211). -/
def recSplit (raw : List Byte) (n : Nat) (q : Split) : Prop :=
  q.pc = BitVec.ofNat 64 (bytesAt raw (512 + 1152 * n) 8) ∧ q.mask = BitVec.ofNat 512 (bytesAt raw (512 + 1152 * n + 0x020) 64)
    ∧ ∀ k, k < 64 → q.s.getD k 0 = BitVec.ofNat 64 (bytesAt raw (512 + 1152 * n + 0x080 + 8 * k) 8)
def recEntry (raw : List Byte) (ents i : Nat) : Nat × Nat × Bool :=
  (bytesAt raw (ents + 40 * i) 2, bytesAt raw (ents + 40 * i + 2) 1, bytesAt raw (ents + 40 * i + 3) 1 % 2 == 0)

/-- A group has taken a core again, with what its record holds: its splits, the words of its v registers and its predicates (R210, R211). -/
structure Resumed (y : Saved) (raw : List Byte) (core : Nat) (h : Group) : Prop where
  place : h.key = y.g.key ∧ h.core = core
  splits : h.splits.length = min 4 (bytesAt raw 0x016 1) ∧ ∀ n q, h.splits[n]? = some q → recSplit raw n q
  words : ∀ i, i < bytesAt raw 0x01C 4 →
    let e := recEntry raw (y.g.recMap raw).ents i
    e.1 < 256 → e.2.2 = true → (∀ j, j < i → recEntry raw (y.g.recMap raw).ents j ≠ e) → ∀ j, j < 8 →
      h.vWord e.1 (8 * e.2.1 + j) = BitVec.ofNat 32 (bytesAt raw ((y.g.recMap raw).ents + 40 * i + 8 + 4 * j) 4)
  preds : ∀ t th, h.threads[t]? = some th → th.p = BitVec.ofNat 7 (bytesAt raw ((y.g.recMap raw).threads + 32 * t) 1)

end Sys2Proof.Claims

/-- R209, R210, R211: a context whose slice on a core is over, or that runs there while a more urgent team waits, has the groups chosen
for it asked to leave; a group so asked, once quiet, is saved and resident no more, with its team once that has no group left; and
GROUP_RESUME brings a saved group back to its core with what its record holds.
It rests on the model's readings of log entries 3, 26, 40, 41, 42. -/
def Obligations.GroupsMove : Prop :=
  (∀ (s : State) (ctx core p : Nat), s.prioOn ctx core = some p →
    let ls := s.waitingLaunches ctx ++ s.waitingTeams ctx
    (∀ c at0, s.ctx? ctx = some c → c.slices.find? (fun e => e.1 = core) = some (core, at0) → at0 + c.tslice * 2250 ≤ s.cycle →
      Claims.AsksToLeave s ctx core (ls.filter (fun l => decide (prioOf l.q ≤ p))) (.timeSliceExpiry ⟨ctx, core⟩))
    ∧ Claims.AsksToLeave s ctx core (ls.filter (fun l => decide (prioOf l.q < p))) (.priorityPreemption ⟨ctx, core⟩))
  ∧ (∀ (s : State) (g : Group), s.group? g.key = some g → g.key.shadow = false → g.evictReq = true → g.priv = false → g.haltReq = false →
      g.asyncs = [] → s.copiesOf g.key = [g] → s.quiet g = true →
        let kind (live : Option Nat) : SaveKind := ⟨live.isSome, s.teamRegrouped g.key.team, false, live⟩
        (g.det = false → s.mem.wf = true → Claims.RoomToSave s g (kind none) → (∃ h ∈ s.groups, h.key.team = g.key.team ∧ h.key ≠ g.key) →
          ∃ t, exec (.groupEviction ⟨g.key⟩) s = .next t ∧ Claims.SavedOne s t g (kind none) false ∧ t.savedTeams = s.savedTeams)
        ∧ (∀ t tm, g.det = false → s.mem.wf = true → s.saveGroup g.key ⟨kind none, false⟩ = some t → t.team? g.key.team = some tm →
          (∀ h ∈ t.groups, h.key.team ≠ tm.key) → (∀ z ∈ t.saved, z.g.key.team = tm.key → z.halted = false ∧ z.regpool = false) → tm.defers = [] →
          (∀ o ∈ t.ops.copies, o.g.team ≠ tm.key) → ((t.ctx? tm.ctx).bind (fun c => c.findRoom (tm.record (t.teamLive tm.key)).length)).isSome = true →
            ∃ u v, exec (.groupEviction ⟨g.key⟩) s = .next u ∧ u.saved = t.saved ∧ u.savedTeams = t.savedTeams ++ [v] ∧ v.t = tm
              ∧ (∀ x ∈ u.teams, x.key ≠ tm.key) ∧ cellRead u.mem.cells v.addr v.size = tm.record (t.teamLive tm.key))
        ∧ (∀ l n m t u, g.det = true → s.launch? g.key.team.launch = some l → l.lrec.safecount ≠ 0 → s.safePoint g l.lrec = some (n, m) →
          (∀ tm, s.team? g.key.team = some tm → ∀ d ∈ tm.defers, d.g ≠ g.key) →
          ((s.safeTouch g l.lrec n).keepBoth g.key m).saveGroup g.key ⟨kind (some n), false⟩ = some t → t.evictTeam g.key.team = some u →
            exec (.groupEviction ⟨g.key⟩) s = .next u ∧ ∃ y ∈ u.saved, y.g.key = g.key ∧ y.safe = true))
  ∧ (∀ (s : State) (y : Saved) (tm : Team),
      let key := y.g.key
      let core := tm.coreFor tm.core key
      let raw := cellRead s.mem.cells y.addr y.size
      s.saved.filter (fun z => z.g.key.team = key.team && z.g.key.group = key.group) = [y] → key.shadow = false → y.halted = false →
        (∀ z ∈ s.saved, z.halted = false → z.g.key.team.launch = key.team.launch → key.team.team ≤ z.g.key.team.team) →
        (∀ z ∈ s.saved, z.regpool = true → z.g.core = core → z.g.key.team ≠ key.team → y.regpool = true) →
        s.team? key.team = some tm → s.group? key = none → s.takesBack y.g core = true → (∀ p ∈ y.g.splits, p.st ≠ .blocked .halted) →
        (s.mtx.stored (coreCluster core)).length + (y.g.restoreTiles raw 0).length ≤ 4096 →
          ∃ t h, exec (.groupResume ⟨key, core⟩) s = .next t ∧ t.groups.map Group.key = s.groups.map Group.key ++ [key]
            ∧ t.saved = s.saved.filter (fun z => z.g.key ≠ key) ∧ t.group? key = some h ∧ Claims.Resumed y raw core h)


/-! ## Memory: homes, atomics, monitors and walks (R119, R166, R174 to R193, R223, R231, R271) -/

namespace Sys2Proof.Claims
open Sys2Proof.Machine

/-- Bytes have been written at an address under a key: that key reads them there, and elsewhere what it read; under every key the
granules of 64 bytes that the write does not touch read as before (R176). -/
def Wrote (s t : State) (pa : Nat) (key : Option (BitVec 512)) (bs : List Byte) : Prop :=
  (∀ a, t.mem.byteUnder key a = if pa ≤ a ∧ a < pa + bs.length then bs.getD (a - pa) 0 else s.mem.byteUnder key a)
  ∧ ∀ k a, a / 64 < pa / 64 ∨ pa + bs.length ≤ a / 64 * 64 → t.mem.byteUnder k a = s.mem.byteUnder k a

/-- Piece n of an operation, and those performed together with it, have an outcome, with their bytes where it has some; its other
pieces stand as they were. -/
def Closed (t : State) (o : MemOp) (n : Nat) (p : Piece) (st : PieceSt) (bs : Option (List Byte)) : Prop :=
  ∃ o', t.memOp? o.id = some o' ∧ o'.heldAt = none ∧ o'.pieces.length = o.pieces.length ∧ ∀ i q, o.pieces[i]? = some q →
    ∃ q', o'.pieces[i]? = some q' ∧ (if (i, q) ∈ o.together n p then q'.st = st ∧ (∀ b, bs = some b → q'.data = b) else q' = q)

/-- What a home access needs to be performed: its piece is due with those performed together with it, and its place is reached. -/
structure Due (s : State) (o : MemOp) (n : Nat) (p : Piece) : Prop where
  op : s.memOp? o.id = some o
  piece : o.pieces[n]? = some p
  due : ∀ e ∈ o.together n p, s.homeDue o e.2 = true
  alone : p.attr.sc = true → o.together n p = [(n, p)]
  reached : isRemote p.pa = true → s.reachable (frameDev p.pa) = true
  unwatched : ∀ m ∈ s.mem.monitors, m.op ≠ o.id

/-- No byte of memory, and nothing a group holds, has changed. -/
def MemoryKept (s t : State) : Prop := t.mem.cells = s.mem.cells ∧ t.mem.gkeys = s.mem.gkeys ∧ t.groups = s.groups

end Sys2Proof.Claims

/-- R174, R176, R246: HOME_ACCESS of a store writes the bytes of its piece at its place, under its key, and no other byte; a store that
its place refuses writes none; one at a peer is performed there; one to a register writes the register. The parts of a thread's
SC store are performed at one instant (R258): each writes its bytes at its own place, and no other byte of memory changes. -/
def Sys2Proof.Claims.HomeStores : Prop :=
  (∀ (s : State) (o : MemOp) (n : Nat) (p : Piece) (reply : PeerReply) (bad : Bool), Claims.Due s o n p → o.kind = .store →
    (o.late = true → (o.priv && p.cacheable) = false) →
      (∀ a k, s.elsewhere p.pa = false → isDevReg p.pa = false → s.placeOf p.pa p.data.length p.attr.key .write = some (a, k) →
        s.threadRefused o p.thread = none → s.mem.wf = true →
          ∃ t, exec (.homeAccess ⟨o.id, n, reply, bad, none, false⟩) s = .next t ∧ t.groups = s.groups
            ∧ Claims.Wrote s t a (s.accKey a k) p.data ∧ Claims.Closed t o n p .done (some p.data))
      ∧ (∀ c, s.elsewhere p.pa = false → s.threadRefused o p.thread = some c →
          ∃ t, exec (.homeAccess ⟨o.id, n, reply, bad, none, false⟩) s = .next t ∧ Claims.MemoryKept s t ∧ Claims.Closed t o n p (.bad c) none)
      ∧ (s.elsewhere p.pa = true → (reply = .data [] →
          ∃ t, exec (.homeAccess ⟨o.id, n, reply, bad, none, false⟩) s = .next t ∧ Claims.MemoryKept s t ∧ Claims.Closed t o n p .done none)
        ∧ (∀ c, c ∈ [cREMOTE_WINDOW, cMEM_UNCORRECTABLE, cENDPOINT_DOWN] → reply = .fault c →
          ∃ t, exec (.homeAccess ⟨o.id, n, reply, bad, none, false⟩) s = .next t ∧ Claims.MemoryKept s t ∧ Claims.Closed t o n p (.bad c) none))
      ∧ (isDevReg p.pa = true → o.late = false → s.threadRefused o p.thread = none →
          exec (.homeAccess ⟨o.id, n, reply, bad, none, false⟩) s = .next ((s.regStore p.pa p.data).closePieces o [(n, { p with st := .done })])))
  ∧ (∀ (s : State) (o : MemOp) (n : Nat) (p : Piece) (reply : PeerReply) (bad : Bool), s.memOp? o.id = some o → o.pieces[n]? = some p →
    o.kind = .store → o.late = false → p.attr.sc = true → s.threadRefused o p.thread = none → (∀ m ∈ s.mem.monitors, m.op ≠ o.id) →
      (∀ e ∈ o.together n p, s.homeDue o e.2 = true ∧ isHbm e.2.pa = true) →
        ∃ t, exec (.homeAccess ⟨o.id, n, reply, bad, none, false⟩) s = .next t ∧ Claims.Closed t o n p .done none ∧ t.groups = s.groups
          ∧ ((∀ e ∈ o.together n p, e.2.attr.key = p.attr.key) → s.mem.wf = true →
            (o.together n p).Pairwise (fun d e => d.2.pa + d.2.data.length ≤ e.2.pa ∨ e.2.pa + e.2.data.length ≤ d.2.pa) →
              (∀ a, t.mem.byteUnder (s.accKey p.pa p.attr.key) a =
                match (o.together n p).find? (fun e => decide (e.2.pa ≤ a) && decide (a < e.2.pa + e.2.data.length)) with
                | some e => e.2.data.getD (a - e.2.pa) 0
                | none => s.mem.byteUnder (s.accKey p.pa p.attr.key) a)
              ∧ ∀ k a, (∀ e ∈ o.together n p, a / 64 < e.2.pa / 64 ∨ e.2.pa + e.2.data.length ≤ a / 64 * 64) →
                  t.mem.byteUnder k a = s.mem.byteUnder k a))

/-- R119, R174, R176, R177, R183: HOME_ACCESS of a load gives its piece, and every piece of the load for the same bytes, the bytes of its
place under its key, or the cause that refuses them; it changes no byte of memory. A private line of the core's L1 answers in
its place, and a line of a remote frame that may stand in the RDC fills it. An LDRA notes the core that its line's tag names. -/
def Sys2Proof.Claims.HomeLoads : Prop :=
  ∀ (s : State) (o : MemOp) (n : Nat) (p : Piece) (reply : PeerReply) (bad : Bool), Claims.Due s o n p → (o.kind = .load ∨ o.kind = .ldra) →
    let ev := Instr.homeAccess ⟨o.id, n, reply, bad, none, false⟩
    let priv := (s.mem.l1? o.core o.ctx (p.pa / 128)).filter L1Line.priv
    (∀ l, o.kind = .load → p.cacheable = true → priv = some l → l.bad = false →
      ∃ t, exec ev s = .next t ∧ Claims.MemoryKept s t ∧ Claims.Closed t o n p .done (some (lineSlice l.data p.pa p.size)))
    ∧ ((o.kind = .ldra ∨ p.cacheable = false ∨ priv = none) → s.elsewhere p.pa = false → isDevReg p.pa = false → o.rdcAllocates p = false →
      ∀ a k, s.placeOf p.pa p.size p.attr.key .read = some (a, k) →
        let met := if (bad && isHbm a) = true then none else s.homeRead a p.size k
        ∃ t, exec ev s = .next t ∧ t.groups = s.groups ∧ ((∀ l ∈ s.mem.l1, l.dirty = false) → Claims.MemoryKept s t)
          ∧ Claims.Closed t o n p (if met.isSome = true then .done else .bad cMEM_UNCORRECTABLE) met
          ∧ (∀ c o', o.kind = .ldra → s.mem.tag? (a / 128) = some c → t.memOp? o.id = some o' → (c, a / 128) ∈ o'.flush))
    ∧ (s.elsewhere p.pa = true → (o.rdcAllocates p && (s.mem.rdc? (coreBase o.core) o.ctx (p.pa / 128)).isNone) = false →
        (∀ bs, reply = .data bs → bs.length = p.size → ∃ t, exec ev s = .next t ∧ Claims.MemoryKept s t ∧ Claims.Closed t o n p .done (some bs))
        ∧ (∀ c, c ∈ [cREMOTE_WINDOW, cMEM_UNCORRECTABLE, cENDPOINT_DOWN] → reply = .fault c →
          ∃ t, exec ev s = .next t ∧ Claims.MemoryKept s t ∧ Claims.Closed t o n p (.bad c) none))
    ∧ (∀ bs, s.elsewhere p.pa = true → o.rdcAllocates p = true → s.mem.rdc? (coreBase o.core) o.ctx (p.pa / 128) = none →
        reply = .data bs → bs.length = 128 →
          ∃ t, exec ev s = .next t ∧ Claims.MemoryKept s t ∧ Claims.Closed t o n p .done (some (lineSlice bs p.pa p.size))
            ∧ (t.mem.rdc? (coreBase o.core) o.ctx (p.pa / 128)).isSome = true)

/-- R75, R192, R375: a prefetch changes nothing a group holds; an access evicted on its way is lost and PACKET_RESEND sends it again;
one to a peer that is not reached is held. -/
def Sys2Proof.Claims.HomePaths : Prop :=
  (∀ (s : State) (o : MemOp) (n : Nat) (p : Piece) (l1 : Bool) (reply : PeerReply) (bad : Bool), Claims.Due s o n p → o.kind = .pref l1 →
    ∃ t, exec (.homeAccess ⟨o.id, n, reply, bad, none, false⟩) s = .next t ∧ t.groups = s.groups)
  ∧ (∀ (s : State) (o : MemOp) (n : Nat) (p : Piece) (reply : PeerReply) (bad : Bool) (ev : Option LineEvict), s.memOp? o.id = some o →
    o.pieces[n]? = some p → (o.kind = .load ∨ o.kind = .store ∨ ∃ l, o.kind = .pref l) → (∀ e ∈ o.together n p, s.homeDue o e.2 = true) →
      (p.drops < 3 → exec (.homeAccess ⟨o.id, n, reply, bad, ev, true⟩) s = .next (s.putMemOp ((o.together n p).foldl
        (fun (x : MemOp) e => x.setPiece e.1 { e.2 with st := .lost, drops := p.drops + 1 }) o)))
      ∧ (isRemote p.pa = true → s.reachable (frameDev p.pa) = false → o.heldAt = none →
        exec (.homeAccess ⟨o.id, n, reply, bad, ev, false⟩) s = .next (s.putMemOp { o with heldAt := some s.cycle })))
  ∧ (∀ (s : State) (o : MemOp), s.memOp? o.id = some o → (∃ p ∈ o.pieces, p.st = .lost) →
      exec (.packetResend ⟨o.id⟩) s
        = .next (s.putMemOp { o with pieces := o.pieces.map (fun p => if p.st = .lost then { p with st := .todo } else p) }))

/-- R223, R224, R271: ATOMIC_UNIT_OPERATION performs the atomic of the lowest thread that is still to perform it: the location takes the
new value of what stood there, no other byte changes, and where the instruction returns old values the thread has them. -/
def Sys2Proof.Claims.UnitsOperate : Prop :=
  ∀ (s : State) (o : MemOp) (t : Nat) (p : Piece) (ps : List Piece) (arg : AtomArg) (reply : PeerReply), s.memOp? o.id = some o →
    o.nextAtomic = some (t, p :: ps) → (∀ q ∈ p :: ps, s.homeDue o q = true) → o.args.find? (fun a => a.thread = t) = some arg →
    (∀ m ∈ s.mem.monitors, m.op ≠ o.id) →
      let has (u : State) (old : List Byte) : Prop := ∃ o', u.memOp? o.id = some o' ∧ o'.pieces = o.pieces.map (fun q =>
        if q.thread = t then { q with st := .done, data := (old.drop q.at0).take q.size } else q)
      (∀ old, isHbm p.pa = true → s.homeRead p.pa o.width p.attr.key = some old → s.mem.wf = true →
        ∃ u, exec (.atomicUnitOperation ⟨o.id, reply, false, false⟩) s = .next u
          ∧ Claims.Wrote s u p.pa (s.accKey p.pa p.attr.key) (o.atomResult arg old).1 ∧ (∀ op wide, o.kind = .atomic op wide true → has u old))
      ∧ (∀ old op wide, s.elsewhere p.pa = true → s.reachable (frameDev p.pa) = true → o.kind = .atomic op wide true → reply = .data old →
        old.length = o.width → ∃ u, exec (.atomicUnitOperation ⟨o.id, reply, false, false⟩) s = .next u ∧ u.mem = s.mem ∧ has u old)
      ∧ (p.drops < 3 → exec (.atomicUnitOperation ⟨o.id, reply, false, true⟩) s = .next (s.putMemOp { o with pieces := o.pieces.map (fun q =>
          if q.thread = t then { q with st := .lost, drops := q.drops + 1 } else q) }))

/-- R231: MONITOR_REGISTER reads its location: the WAITC completes where the condition holds; else its slice keeps an entry, or holds the
request while its table is full. MONITOR_RECHECK evaluates a held request again after 2,048 cycles. -/
def Sys2Proof.Claims.MonitorsWatch : Prop :=
  ∀ (s : State) (o : MemOp) (p : Piece) (reply : PeerReply) (bs : List Byte), s.memOp? o.id = some o → o.pieces = [p] → isHbm p.pa = true →
    s.homeRead p.pa p.size p.attr.key = some bs →
      (∀ cc nat b, o.kind = .monitor cc nat b → (∀ m ∈ s.mem.monitors, m.op ≠ o.id) → s.homeDue o p = true →
        ∃ t, exec (.monitorRegister ⟨o.id, reply⟩) s = .next t ∧ t.groups = s.groups ∧ t.mem.cells = s.mem.cells
          ∧ (monitorTrue cc nat b bs = true → t.memOp? o.id = none ∧ t.mem.monitors = s.mem.monitors)
          ∧ (monitorTrue cc nat b bs = false → t.memOp? o.id = some { o with heldAt := none }
            ∧ t.mem.monitors = s.mem.monitors ++ [⟨o.id, homeDie p.pa, p.pa, p.size, cc, nat, b, p.attr.key,
                !s.mem.monitorRoom (homeDie p.pa), s.cycle, none⟩]))
      ∧ (∀ m, s.mem.monitors.find? (fun e => e.op = o.id && e.held) = some m → m.seen + 2048 ≤ s.cycle →
        ∃ t, exec (.monitorRecheck ⟨o.id, reply⟩) s = .next t ∧ t.groups = s.groups ∧ t.mem.cells = s.mem.cells
          ∧ (monitorTrue m.cc m.nat m.b bs = true → t.memOp? o.id = none ∧ t.mem.monitors = s.mem.monitors.filter (fun e => e.op ≠ o.id))
          ∧ (monitorTrue m.cc m.nat m.b bs = false → t.memOp? o.id = some o ∧ t.mem.monitors = s.mem.monitors.map (fun e =>
            if e.op = o.id then { m with held := !(isHbm m.pa && decide (m.die < 1024) && s.mem.monitorRoom m.die), seen := s.cycle } else e)))

/-- R179, R181, R193: TABLE_WALK leaves a core the leaf that its walk of a page found, and nothing where the walk faults; a read that
meets an uncorrectable error poisons the granule of the entry read. -/
def Sys2Proof.Claims.WalksFill : Prop :=
  ∀ (s : State) (c : Context) (core va member : Nat), s.ctx? c.id = some c → core < 384 → va < 2 ^ 57 → s.tlbFind core c.id va = none →
    (∀ w, s.leafFor core c.id va = .ok w → ∃ t e, exec (.tableWalk ⟨core, c.id, va, member, false⟩) s = .next t
      ∧ t.tlbFind core c.id va = some e ∧ (e.w0, e.w1) = w ∧ t.ops = s.ops ∧ Claims.MemoryKept s t)
    ∧ (∀ f, s.leafFor core c.id va = .error f → ∃ t, exec (.tableWalk ⟨core, c.id, va, member, false⟩) s = .next t
      ∧ t.mem = s.mem ∧ t.ops = s.ops ∧ t.groups = s.groups)
    ∧ (∀ pa, (walkReads s va (s.walkStart core c.id va c.root).1 (s.walkStart core c.id va c.root).2).getLast? = some pa →
      ∃ t, exec (.tableWalk ⟨core, c.id, va, member, true⟩) s = .next t ∧ t.mem = { s.mem with poison := addOnce s.mem.poison (pa / 64) }
        ∧ t.ops = s.ops ∧ t.groups = s.groups)

/-- R119, R218, R219, R229, R231: LDRA_FLUSH takes the next line from the core that its tag names once that core's stores are acknowledged,
and answers a peer's LDRA; STORE_ACKNOWLEDGEMENT ends a store all of whose pieces are performed, and its flag counts down. -/
def Sys2Proof.Claims.FlushesAnswer : Prop :=
  (∀ (s : State) (o : MemOp) (core line : Nat) (rest : List (Nat × Nat)), s.memOp? o.id = some o → o.flush = (core, line) :: rest →
    s.flushReady core = true → ∃ t, exec (.ldraFlush ⟨o.id⟩) s = .next t ∧ t.memOp? o.id = some { o with flush := rest }
      ∧ t.mem.tag? line = (if s.mem.tag? line = some core then none else s.mem.tag? line) ∧ Claims.MemoryKept s t)
  ∧ (∀ (s : State) (e : PeerLdra), s.memOp? e.id = none → s.isl.ldras.find? (fun x => x.id = e.id) = some e → s.flushReady e.core = true →
    ∃ t, exec (.ldraFlush ⟨e.id⟩) s = .next t ∧ t.mem.tag? e.line = (if s.mem.tag? e.line = some e.core then none else s.mem.tag? e.line)
      ∧ t.isl.ldras = s.isl.ldras.filter (fun x => x.id ≠ e.id) ∧ Claims.MemoryKept s t
      ∧ ∃ k ∈ t.isl.outbox, k.dst = e.src ∧ k.note = .reply e.id (.data e.bytes))
  ∧ (∀ (s : State) (o : MemOp), s.memOp? o.id = some o → o.kind = .store → (∀ p ∈ o.pieces, p.open' = false) →
    ∃ t, exec (.storeAcknowledgement ⟨o.id⟩) s = .next t ∧ t.memOp? o.id = none ∧ t.mem.cells = s.mem.cells
      ∧ ((∀ p ∈ o.pieces, p.st = .done) → s.ops.pts = [] → ∀ g f, s.group? { o.g with shadow := false } = some g → o.flag = some f →
        ∃ h, t.group? g.key = some h ∧ h.flags = (g.decFlag f).flags))
  ∧ (∀ (s : State) (o : MemOp), s.memOp? o.id = some o → s.acceptable o = true →
    exec (.storeAcknowledgement ⟨o.id⟩) s = .next (s.acceptStore o))

/-- Homes perform accesses and atomics; walks, flushes and monitors. It rests on the model's readings of log entries 3, 17, 18, 19,
21, 39, 41. -/
def Obligations.HomesAndOrders : Prop := Claims.HomeStores ∧ Claims.HomeLoads ∧ Claims.HomePaths ∧ Claims.UnitsOperate ∧ Claims.MonitorsWatch ∧ Claims.WalksFill ∧ Claims.FlushesAnswer

/-! ## Copies and deferred arrivals (R146, R149, R151, R158, R162) -/

namespace Sys2Proof.Claims
open Sys2Proof.Machine

/-- The bytes that parts of memory hold for an engine, each with its place in the image: of a part at a peer the next bytes of the
peer's answer, of one here what the engine reads (R149, R255). -/
def partBytes (s : State) (core ctx : Nat) : List (Nat × Nat × Nat × BitVec 10) → List Byte → List (Nat × List Byte)
  | [], _ => []
  | (at0, n, pa, key) :: rest, rep =>
    if s.elsewhere pa then (at0, rep.take n) :: partBytes s core ctx rest (rep.drop n)
    else (at0, match s.engineRead core ctx pa n key with
      | .ok bs => bs
      | .error _ => []) :: partBytes s core ctx rest rep

/-- Byte i of an image whose parts have been read: 0 where no part has it. -/
def imageByte (l : List (Nat × List Byte)) (i : Nat) : Byte :=
  match l.find? (fun e => decide (e.1 ≤ i) && decide (i < e.1 + e.2.length)) with
  | some e => e.2.getD (i - e.1) 0
  | none => 0

/-- The parts of an image follow one another. -/
def InOrder (pas : List (Nat × Nat × Nat × BitVec 10)) : Prop := pas.Pairwise (fun p q => p.1 + p.2.1 ≤ q.1)

/-- The bytes a peer's answer must hold for some parts: those of the parts that lie there. -/
def owed (s : State) (pas : List (Nat × Nat × Nat × BitVec 10)) : Nat := ((pas.filter (fun p => s.elsewhere p.2.2.1)).map (fun p => p.2.1)).sum

/-- The parts that lie here can be read. -/
def Readable (s : State) (core ctx : Nat) (pas : List (Nat × Nat × Nat × BitVec 10)) : Prop :=
  ∀ p ∈ pas, s.elsewhere p.2.2.1 = false →
    (s.placeOf p.2.2.1 p.2.1 p.2.2.2 .read).isSome = true ∧ ∃ bs, s.engineRead core ctx p.2.2.1 p.2.1 p.2.2.2 = .ok bs

/-- Byte i of what a unit moves (R149): of a global source the image of its parts, 0 where EDGE leaves none; of a source in the
scratchpad the byte there, or as it was read in advance where the ranges overlap (R150). -/
def unitByte (s : State) (o : CopyOp) (tm : Team) (u : CopyUnit) (rep : List Byte) (i : Nat) : Byte :=
  if o.kind = .toSpad then imageByte (partBytes s o.core o.ctx u.pas rep) i
  else match o.snapshot with
    | some all => all.getD (4 * o.done + i) 0
    | none => cellGet tm.spad (u.src + i)

/-- A unit of a copy as R147 and R148 make them: its parts in order, the bytes read in advance all there, and a copy out in one part. -/
structure Whole (o : CopyOp) (u : CopyUnit) : Prop where
  order : InOrder u.pas
  before : ∀ all, o.snapshot = some all → 4 * o.done + u.len ≤ all.length
  out : o.kind = .out → o.snapshot = none ∧ ∃ pa key, u.pas = [(0, u.len, pa, key)]

/-- The scratchpad bytes of a destination are a unit's, and every other is as before. -/
def SpadTakes (u : CopyUnit) (byte : Nat → Byte) (old new : List Host.Cell) : Prop :=
  ∀ a, cellGet new a = if u.dst ≤ a ∧ a < u.dst + u.len then byte (a - u.dst) else cellGet old a

/-- One unit of a copy has landed (R149, R153): its destination holds its source's bytes and every other byte, of memory and of both
scratchpads, is as before; the team's pointer on the channel has counted its length, and no other pointer has changed. A unit that
goes out to a register writes the register. -/
def UnitLands (s t : State) (o : CopyOp) (u : CopyUnit) (rep : List Byte) : Prop :=
  ∀ tm, s.team? o.g.team = some tm → cellsWf tm.spad = true → cellsWf tm.spad2 = true → s.mem.wf = true → Whole o u →
    let h := s.copyHalf o
    (o.kind = .out → ∀ p ∈ u.pas, isDevReg p.2.2.1 = false) →
    ∃ tn, t.team? o.g.team = some tn
      ∧ tn.ptr h o.ch = { tm.ptr h o.ch with count := (tm.ptr h o.ch).count + u.len }
      ∧ (∀ k c, (k, c) ≠ (h, o.ch) → tn.ptr k c = tm.ptr k c) ∧ (∀ k, k ≠ o.g.team → t.team? k = s.team? k)
      ∧ (o.kind ≠ .out → t.mem.cells = s.mem.cells ∧ t.mem.gkeys = s.mem.gkeys
        ∧ SpadTakes u (unitByte s o tm u rep) tm.spad tn.spad
        ∧ (if tm.pairchk = true then SpadTakes u (unitByte s o tm u rep) tm.spad2 tn.spad2 else tn.spad2 = tm.spad2))
      ∧ (o.kind = .out → tn.spad = tm.spad ∧ tn.spad2 = tm.spad2 ∧ ∀ pa key, u.pas = [(0, u.len, pa, key)] →
        (s.elsewhere pa = true → t.mem.cells = s.mem.cells ∧ t.mem.gkeys = s.mem.gkeys)
        ∧ (∀ a k, s.elsewhere pa = false → s.placeOf pa u.len key .write = some (a, k) →
          Wrote s t a (s.accKey a k) ((List.range u.len).map (unitByte s o tm u rep))))

/-- Units of a copy have landed one after another, each with what was left of the peer's answer. -/
def Land (o : CopyOp) : List CopyUnit → State → State → List Byte → Prop
  | [], s, t, rep => t = s ∧ rep = []
  | u :: us, s, t, rep => ∃ s1, UnitLands s s1 o u rep
      ∧ Land { o with done := o.done + 1 } us s1 t (if o.kind = .toSpad then rep.drop (owed s u.pas) else rep)

/-- The operation at its channel's head may go on with a unit, which meets no error (R146, R151, R228, R255): its turn, and that
unit's bytes. -/
structure UnitDue (s : State) (o : CopyOp) (u : CopyUnit) (us : List CopyUnit) (rep : List Byte) : Prop where
  op : s.ops.copies.find? (fun c => c.id = o.id) = some o
  head : (s.channelHead o.core o.ch).map CopyOp.id = some o.id
  ready : s.engineReady o.g o.threads o.inst = true
  free : s.qfenceHolds o.g o.ch o.inst = false
  sound : s.copyFailed o = false
  snap : o.snap = false ∨ o.snapshot.isSome = true
  next : o.units.drop o.done = u :: us
  near : u.far s = false
  reads : o.kind = .toSpad → Readable s o.core o.ctx u.pas
  writes : o.kind = .out → ∀ p ∈ u.pas, s.writeRefused p.2.2.1 p.2.1 p.2.2.2 = none
  answer : rep.length = if o.kind = .toSpad then owed s u.pas else 0

end Sys2Proof.Claims

/-- R146, R149, R150, R153, R158, R162: COPY_CHANNEL_OPERATION lands the next unit of the operation at its channel's head: in the
scratchpad, or in memory for a copy out, its destination holds its source's bytes, every other byte is as before, and the team's
write pointer on the channel has counted them; with its last unit the operation is gone and its flag counts down. Several units land
one after another; where the ranges overlap every source byte is read first. What the engine reads here of a page of its own is the
home's bytes, or those of a line of the core's L1. DEFERRED_ARRIVAL_PERFORM counts one deferred arrival once its copies have ended and
its thread's accesses are at the team: the barrier's count grows by one, and completes its generation where that is the last.
It rests on the model's readings of log entries 20, 41, 42. -/
def Obligations.CopiesLand : Prop :=
  (∀ (s : State) (o : CopyOp) (u : CopyUnit) (us : List CopyUnit) (rep : List Byte), Claims.UnitDue s o u us rep →
    ∃ t, exec (.copyChannelOperation ⟨o.id, 1, none, .data rep⟩) s = .next t ∧ Claims.UnitLands s t o u rep
      ∧ (us ≠ [] → (o.kind = .out → ∀ p ∈ u.pas, isDevReg p.2.2.1 = false) →
          t.groups = s.groups ∧ ∃ o', t.ops.copies.find? (fun c => c.id = o.id) = some o' ∧ o'.done = o.done + 1 ∧ o'.units = o.units)
      ∧ (us = [] → (∀ c ∈ t.ops.copies, c.id ≠ o.id)
        ∧ ((o.kind = .out → ∀ p ∈ u.pas, isDevReg p.2.2.1 = false) → s.ops.pts = [] →
          ∀ g f, s.group? { o.g with shadow := false } = some g → o.flag = some f →
            ∃ h, t.group? g.key = some h
              ∧ h.flags = if s.ops.copies.any (fun c => c.inst = o.inst && c.id ≠ o.id) = true then g.flags else (g.decFlag f).flags)))
  ∧ (∀ (s s1 : State) (o : CopyOp) (k n : Nat) (bs : List Byte), s.ops.copies.find? (fun c => c.id = o.id) = some o →
    (s.channelHead o.core o.ch).map CopyOp.id = some o.id → s.engineReady o.g o.threads o.inst = true → s.qfenceHolds o.g o.ch o.inst = false →
      s.copyFailed o = false → (o.snap = false ∨ o.snapshot.isSome = true) → k ≤ (o.units.drop o.done).length →
      State.deliverUnits o ((o.units.drop o.done).take k) s bs = (s1, n, none, []) →
        let o1 := { o with done := o.done + n, heldAt := none, retries := 0 }
        let s2 := s1.setOps { s1.ops with copies := s1.ops.copies.map (fun p => if p.id = o.id then o1 else p) }
        Claims.Land o ((o.units.drop o.done).take n) s s1 bs
        ∧ (n = (o.units.drop o.done).length → exec (.copyChannelOperation ⟨o.id, k, none, .data bs⟩) s = .next (s2.endCopy o1))
        ∧ (∀ u, 0 < n → (o.units.drop o.done)[n]? = some u → u.far s = false → exec (.copyChannelOperation ⟨o.id, k, none, .data bs⟩) s = .next s2))
  ∧ (∀ (s : State) (o : CopyOp) (ev : EvCopy), s.ops.copies.find? (fun c => c.id = ev.op) = some o → o.snap = true → o.snapshot = none →
      exec (.copyChannelOperation ev) s = exec (.copyChannelOperation ev) (s.setOps { s.ops with copies := s.ops.copies.map (fun p =>
        if p.inst = o.inst then { p with snapshot := some (p.units.flatMap (fun u =>
          ((s.team? p.g.team).map (fun tm => (List.range u.len).map (fun i => cellGet tm.spad (u.src + i)))).getD [])) } else p) }))
  ∧ (∀ (s : State) (core ctx pa n : Nat) (key : BitVec 10), isHbm pa = true →
      (∀ l, s.mem.l1? core ctx (pa / 128) = some l → l.bad = false → s.engineRead core ctx pa n key = .ok ((l.data.drop (pa % 128)).take n))
      ∧ (∀ bs, s.mem.l1? core ctx (pa / 128) = none → s.pendingStores core ctx = [] → s.homeRead pa n key = some bs →
        s.engineRead core ctx pa n key = .ok bs ∧ bs = (List.range n).map (fun i => s.mem.byteUnder (s.accKey pa key) (pa + i))))
  ∧ (∀ (s : State) (tm : Team) (d : DeferredArr), s.team? tm.key = some tm → tm.defers.find? (fun e => e.id = d.id) = some d →
      (∀ o ∈ s.ops.copies, o.id ∉ d.ops) → s.earlierMet d.g (BitVec.twoPow 512 d.thread) d.id .team = true → d.bar < tm.bars.length →
        let b := tm.bar d.bar
        let rest := tm.defers.filter (fun e => e.id ≠ d.id)
        let need := match b.exp with
          | .count n => n
          | _ => s.teamLive tm.key
        ∃ t tn, exec (.deferredArrivalPerform ⟨tm.key, d.id⟩) s = .next t ∧ t.team? tm.key = some tn
          ∧ (tn.bar d.bar).gen = (if need ≤ b.arr + 1 ∧ (∀ e ∈ rest, ¬(e.bar = d.bar ∧ e.gen = b.gen + 1)) then b.gen + 1 else b.gen)
          ∧ (tn.bar d.bar).arr = (if need ≤ b.arr + 1 ∧ (∀ e ∈ rest, ¬(e.bar = d.bar ∧ e.gen = b.gen + 1)) then b.arr + 1 - need else b.arr + 1)
          ∧ tn.defers = rest ∧ (∀ n, n ≠ d.bar → tn.bar n = tm.bar n) ∧ tn.spad = tm.spad ∧ tn.spad2 = tm.spad2
          ∧ t.groups = s.groups ∧ t.mem = s.mem ∧ t.ops = s.ops ∧ ∀ k, k ≠ tm.key → t.team? k = s.team? k)

/-! ## The matrix engine (R334 to R348, R352) -/

namespace Sys2Proof.Claims
open Sys2Proof.Machine

/-- Element A[row][k], and B[k][c] where sparsity leaves one, as their bits (R304, R305). -/
def elemA (r : MatReq) (p : MatPair) (row k : Nat) : Nat := r.a.getD row 0 / 2 ^ (k * p.ea.bits) % 2 ^ p.ea.bits
def elemB (r : MatReq) (p : MatPair) (k c : Nat) : Option Nat :=
  match r.records with
  | [] => some (r.b / 2 ^ ((k * 16 + c) * p.eb.bits) % 2 ^ p.eb.bits)
  | recs => ((List.range 4).find? (fun j => recs.getD c 0 / 2 ^ (12 * (k / 8) + 3 * j) % 8 = k % 8)).map (fun j =>
      r.b / 2 ^ (((4 * (k / 8) + j) * 16 + c) * p.eb.bits) % 2 ^ p.eb.bits)

/-- The exact sum of n products from the k-th on. -/
def dot (r : MatReq) (p : MatPair) (row c k n : Nat) : Int :=
  ((List.range n).map (fun j => p.ea.int (elemA r p row (k + j)) * ((elemB r p (k + j) c).map p.eb.int).getD 0)).sum

/-- A block's term of R307: P × 2^-f × sa × sb, and whether it is invalid. -/
def blockTerm (r : MatReq) (p : MatPair) (row c b : Nat) (x : Int) : FVal × Bool :=
  scaleTerm x (if p.eb = .int8 then 0 else 6) (fBF16.unpack ((r.sa.getD row []).getD b 0)) (fBF16.unpack ((r.sb.getD c []).getD b 0))

/-- A tile's words after a request's pass (R306 to R309, R314): every word of a row without an active thread is as before, and each
element (row, c) of the others, with its block partial, is what its formula gives. -/
structure Passed (r : MatReq) (p : MatPair) (w0 : Word64) (ws vs : List Word32) : Prop where
  kept : ∀ i, i < 256 → rowOfWord (fbAcc w0) i ∉ octetRowsOf r.rows → vs.getD i 0 = ws.getD i 0
  integer : ∀ row ∈ octetRowsOf r.rows, ∀ c, c < 16 → fbScaled w0 = false → fbAcc w0 = .i32 →
    let x := (ws.getD (16 * row + c) 0).toInt + dot r p row c 0 (p.logicalK w0)
    vs.getD (16 * row + c) 0 = BitVec.ofInt 32 (if fbSat w0 = true then max (-2 ^ 31) (min (2 ^ 31 - 1) x) else x)
    ∧ vs.getD (128 + 16 * row + c) 0 = ws.getD (128 + 16 * row + c) 0
  float : ∀ row ∈ octetRowsOf r.rows, ∀ c, c < 16 → fbScaled w0 = false → fbAcc w0 ≠ .i32 →
    let f := if fbAcc w0 = .f64 then fF64 else fF32
    let prods := (List.range (p.logicalK w0)).map (fun k =>
      prodVal (p.ea.val (elemA r p row k)) (((elemB r p k c).map p.eb.val).getD (.fin false 0 0)))
    tileGet (fbAcc w0) vs (16 * row + c)
      = (f.sumVals (f.unpack (tileGet (fbAcc w0) ws (16 * row + c)) :: prods.map Prod.fst) (prods.any Prod.snd)).1
    ∧ (fbAcc w0 = .f32 → vs.getD (128 + 16 * row + c) 0 = ws.getD (128 + 16 * row + c) 0)
  blocks : ∀ row ∈ octetRowsOf r.rows, ∀ c, c < 16 → fbScaled w0 = true → fbLen w0 ≤ p.logicalK w0 →
    (vs.getD (16 * row + c) 0).toNat = (List.range (p.logicalK w0 / fbLen w0)).foldl (fun acc b =>
      let t := blockTerm r p row c b (dot r p row c (b * fbLen w0) (fbLen w0))
      (fF32.sumVals [fF32.unpack acc, t.1] t.2).1) (ws.getD (16 * row + c) 0).toNat
    ∧ vs.getD (128 + 16 * row + c) 0 = ws.getD (128 + 16 * row + c) 0
  parts : ∀ row ∈ octetRowsOf r.rows, ∀ c, c < 16 → fbScaled w0 = true → p.logicalK w0 < fbLen w0 →
    let x := (if fbKpos w0 = 0 then 0 else (ws.getD (128 + 16 * row + c) 0).toInt) + dot r p row c 0 (p.logicalK w0)
    let t := blockTerm r p row c 0 x
    if fbKpos w0 + 1 = fbLen w0 / p.logicalK w0 then
      (vs.getD (16 * row + c) 0).toNat = (fF32.sumVals [fF32.unpack (ws.getD (16 * row + c) 0).toNat, t.1] t.2).1
        ∧ vs.getD (128 + 16 * row + c) 0 = 0
    else vs.getD (16 * row + c) 0 = ws.getD (16 * row + c) 0 ∧ vs.getD (128 + 16 * row + c) 0 = BitVec.ofInt 32 x

/-- Nothing of an operation is held back, and no part of it lies at a device that is not reached (R375). -/
def MoveFree (s : State) (o : MatOp) : Prop :=
  s.farOf (o.reqs.flatMap (fun r => r.pas.map (fun p => p.2.2.1))) = none ∧ ∀ h ∈ s.isl.holds, h.key ≠ .op o.id

end Sys2Proof.Claims

/-- R314, R335, R336, R344: a waiting entry rises one level each 512 cycles; MATRIX_GRANT runs the pass of the entry the table chooses, which
no other that may be granted goes before and no QFENCE holds; the operation at the head of a cluster's queue is performed: MZERO clears its rows, MKLD and MKST move its images, or wait for a device
that is not reached (R375), DPLD and DPINV change a drain-store slot and its generation. -/
def Sys2Proof.Claims.MatrixQueue : Prop :=
  (∀ (s : State) (o : MatOp), s.mtx.op? o.id = some o → o.granted = false → 0 < o.level → o.levelAt + 512 ≤ s.cycle →
    exec (.matrixPromotion ⟨o.cluster, o.id⟩) s = .next (s.setMtx (s.mtx.putOp { o with level := o.level - 1, levelAt := o.levelAt + 512 })))
  ∧ (∀ (s : State) (o : MatOp) (cluster : Nat), s.matChoice cluster = some o →
      (∀ s1, s.needTiles ((s.passOf o).flatMap s.mtx.withMate) = some s1 →
        exec (.matrixGrant ⟨cluster, o.id⟩) s = .next ((s.passOf o).foldl (fun (s : State) p => s.granted p)
          (((s.passOf o).flatMap s.mtx.withMate).foldl (fun (s : State) p => s.accumulate p) s1)))
      ∧ (∀ p ∈ s.mtx.ops, p.cluster = cluster → (p.g.shadow && p.mate.isSome) = false → s.mayGrant p = true → o.rank s.cycle ≤ p.rank s.cycle)
      ∧ s.qfenceHolds { o.g with shadow := false } 8 o.id = false)
  ∧ (∀ (s : State) (o : MatOp) (cluster : Nat), s.mtx.head? cluster = some o → s.matReady o = true →
      (∀ s1, o.kind = .mzero → s.needTiles (s.mtx.withMate o) = some s1 →
        exec (.matrixQueueOperationPerform ⟨cluster, .data [], false⟩) s = .next (((s1.mtx.withMate o).foldl
          (fun (s : State) p => p.reqs.foldl (fun (s : State) r => s.zeroRequest p .i32 r.octet r.rows) s) s1).finishMat o))
      ∧ (∀ s1 s2 s3 fs bs rest, o.kind = .mkld → Claims.MoveFree s o → s.needTiles (s.mtx.withMate o) = some s1 →
          (meets s (.data bs) false o.reqs).foldlM
            (fun (acc : State × List ThrFault × List Byte) e => acc.1.loadTile o e.1 e.2 acc.2.1 acc.2.2) (s1, [], bs) = some (s2, fs, rest) →
          rest = [] → s.endLoad s2 o fs = some s3 → exec (.matrixQueueOperationPerform ⟨cluster, .data bs, false⟩) s = .next s3)
      ∧ (∀ s1, o.kind = .mkst → Claims.MoveFree s o → s.reloadTiles (s.mtx.withMate o) = some s1 →
          exec (.matrixQueueOperationPerform ⟨cluster, .data [], false⟩) s
            = .next (((meets s (.data []) false o.reqs).foldl (fun (s : State) e => s.storeTile o e.1 e.2) s1).finishMat o))
      ∧ (∀ ev d, o.kind = .mkld ∨ o.kind = .mkst → ev.cluster = cluster → s.farOf (o.reqs.flatMap (fun r => r.pas.map (fun p => p.2.2.1))) = some d →
          (∀ h ∈ s.isl.holds, h.key ≠ .op o.id) → ∃ id, exec (.matrixQueueOperationPerform ev) s
            = .next (s.freshId.2.setIsl { s.isl with holds := s.isl.holds ++ [⟨id, .op o.id, d, s.cycle, 0⟩] }))
      ∧ (∀ n, o.kind = .dpld n → exec (.dpldInstall ⟨cluster⟩) s = .next ((s.setMtx (s.mtx.putSlot
          { s.mtx.slot cluster n with valid := true, gen := (s.mtx.slot cluster n).gen + 1, ctx := some o.ctx, words := o.words })).finishMat o))
      ∧ (∀ n, o.kind = .dpinv n → exec (.dpinvPerform ⟨cluster⟩) s = .next ((s.setMtx (s.mtx.putSlot
          { s.mtx.slot cluster n with valid := false, gen := (s.mtx.slot cluster n).gen + 1 })).finishMat o)))

/-- R304 to R309, R314, R316: what the tiles hold. After MATRIX_GRANT each element of an active row of each tile of the pass is its sum,
rounded or saturated as its format block says, and its block partial as R307 says; MZERO leaves zeros in the rows it names; MKLD
leaves in a tile the 1,024 bytes at its place in memory, and MKST leaves the tile's bytes there (s1 is the state whose tiles stand in
the store, others spilled for them). Rows of inactive threads, other
tiles and other bytes keep what they held. The product of two elements is exact. -/
def Sys2Proof.Claims.TilesHold : Prop :=
  (∀ (s s1 : State) (o : MatOp) (cluster : Nat), s.matChoice cluster = some o → Claims.TilesSound s →
    let ops := (s.passOf o).flatMap s.mtx.withMate
    s.needTiles ops = some s1 → (Claims.tilesOf ops).Nodup → (∀ q ∈ ops, fbScaled q.fmt0 = true → fbAcc q.fmt0 = .f32) →
      ∃ t, exec (.matrixGrant ⟨cluster, o.id⟩) s = .next t ∧ Claims.OtherTiles s t (Claims.tilesOf ops)
        ∧ ∀ q ∈ ops, ∀ pr, matPair (fbAfmt q.fmt0) (fbBfmt q.fmt0) = some pr → ∀ r ∈ q.reqs, Claims.OctetLives s q.g r.octet →
          Claims.Passed r pr q.fmt0 (s.mtx.tileWords q.g r.octet q.tile) (t.mtx.tileWords q.g r.octet q.tile))
  ∧ (∀ (s s1 : State) (o : MatOp) (cluster : Nat), s.mtx.head? cluster = some o → s.matReady o = true → Claims.TilesSound s →
    let ops := s.mtx.withMate o
    (Claims.tilesOf ops).Nodup →
      (o.kind = .mzero → s.needTiles ops = some s1 →
        ∃ t, exec (.matrixQueueOperationPerform ⟨cluster, .data [], false⟩) s = .next t ∧ Claims.OtherTiles s t (Claims.tilesOf ops)
          ∧ ∀ q ∈ ops, ∀ r ∈ q.reqs, Claims.OctetLives s q.g r.octet → ∀ i, i < 256 → (t.mtx.tileWords q.g r.octet q.tile).getD i 0
            = if i % 128 / 16 ∈ octetRowsOf r.rows then 0 else (s.mtx.tileWords q.g r.octet q.tile).getD i 0)
      ∧ (∀ shares : List (List Byte), o.kind = .mkld → s.needTiles ops = some s1 → Claims.MoveFree s o →
        (∀ q ∈ ops, q.reqs.map MatReq.octet = o.reqs.map MatReq.octet) → shares.length = o.reqs.length →
        (∀ e ∈ o.reqs.zip shares, Claims.InOrder e.1.pas ∧ Claims.Readable s1 o.core o.ctx e.1.pas ∧ e.2.length = Claims.owed s e.1.pas) →
          ∃ t, exec (.matrixQueueOperationPerform ⟨cluster, .data shares.flatten, false⟩) s = .next t
            ∧ Claims.OtherTiles s t (Claims.tilesOf ops) ∧ t.mem.cells = s1.mem.cells ∧ t.mem.gkeys = s1.mem.gkeys
            ∧ ∀ q ∈ ops, ∀ e ∈ o.reqs.zip shares, Claims.OctetLives s q.g e.1.octet → ∀ i, i < 256 →
              (t.mtx.tileWords q.g e.1.octet q.tile).getD i 0 = BitVec.ofNat 32 (leNat ((List.range 4).map (fun j =>
                Claims.imageByte (Claims.partBytes s1 o.core o.ctx e.1.pas e.2) (4 * i + j)))))
      ∧ (o.kind = .mkst → s.reloadTiles ops = some s1 → s1.mem.wf = true →
        let parts := o.reqs.flatMap (fun r => r.pas.map (fun p => (r, p)))
        (∀ e ∈ parts, isHbm e.2.2.2.1 = true ∧ e.2.2.2.1 % 64 = 0 ∧ e.2.2.1 % 64 = 0 ∧ e.2.1 + e.2.2.1 ≤ 1024
          ∧ s.writeRefused e.2.2.2.1 e.2.2.1 e.2.2.2.2 = none) →
        parts.Pairwise (fun d e => d.2.2.2.1 + d.2.2.1 ≤ e.2.2.2.1 ∨ e.2.2.2.1 + e.2.2.1 ≤ d.2.2.2.1) → Claims.MoveFree s o →
          ∃ t, exec (.matrixQueueOperationPerform ⟨cluster, .data [], false⟩) s = .next t ∧ Claims.OtherTiles s t []
            ∧ (∀ e ∈ parts, ∀ i, i < e.2.2.1 → t.mem.byteUnder (s.accKey e.2.2.2.1 e.2.2.2.2) (e.2.2.2.1 + i)
              = ((s.mtx.tileWords o.g e.1.octet o.tile).flatMap (fun w => leBytes 4 w.toNat)).getD (e.2.1 + i) 0)
            ∧ ∀ k a, (∀ e ∈ parts, a < e.2.2.2.1 ∨ e.2.2.2.1 + e.2.2.1 ≤ a) → t.mem.byteUnder k a = s1.mem.byteUnder k a))
  ∧ (∀ a b : FVal, ((a.isNan = true ∨ b.isNan = true) → prodVal a b = (.nan false, a.isSnan || b.isSnan))
    ∧ (∀ x y m n d e, a = .fin x m d → b = .fin y n e → prodVal a b = (.fin (x != y) (m * n) (d + e), false))
    ∧ (∀ x, a = .inf x → b.isNan = false → prodVal a b = (if b.isZero = true then (.nan false, true) else (.inf (x != b.neg?), false))))
  ∧ (∀ b, b < 256 → MatEl.int8.int b = (if b < 128 then (b : Int) else b - 256) ∧ MatEl.ds8.int b = MatEl.ds4.int (b / 16) + MatEl.ds4.int (b % 16))

/-- R320, R345, R352: DRAIN_ELEMENT begins the element a drain has come to, in row-major order over the active rows: the drain program
starts with the element's value in d0 and 0 in d1 to d7, the octet's tile reloaded where it was spilled, from the slot its format block names, which must hold a program of the
context; else DRAIN_INVALID stops it. CURB_WINDOW_START begins a window of 1,024 cycles. -/
def Sys2Proof.Claims.DrainElementBegins : Prop :=
  (∀ (s : State) (o : MatOp) (octet elem : Nat), s.mtx.run = none → s.mtx.head? o.cluster = some o → s.mtx.drainPos o = some (octet, elem) → o.drains = true →
    o.stopped = false → o.cut = false → s.matReady o = true → s.heldDrain o = false →
      let n := field o.fmt0 20 6
      let slot := s.mtx.slot o.cluster n
      (∀ s1, slot.valid = true → slot.ctx = some o.ctx → (s.mtx.withMate o).foldlM (fun (s : State) p => s.reloadTile p octet) s = some s1 →
        ∃ r, exec (.drainElement ⟨o.cluster, none⟩) s = .next (s1.setMtx { s1.mtx with run := some r })
          ∧ r.cluster = o.cluster ∧ r.op = o.id ∧ r.octet = octet ∧ r.elem = elem ∧ r.slot = n ∧ r.pc = 0 ∧ r.effs = [] ∧ r.fl = 0
          ∧ r.d = o.d0 (s1.mtx.tileWords o.g octet o.tile) elem :: List.replicate 7 0)
      ∧ (elem = firstElem (((o.req? octet).map MatReq.rows).getD 0) → (slot.valid = false ∨ slot.ctx ≠ some o.ctx) →
        exec (.drainElement ⟨o.cluster, none⟩) s = .next (s.stopDrain o slot.n elem octet ⟨cDRAIN_INVALID, 0, BitVec.ofNat 64 slot.n⟩)))
  ∧ (∀ s : State, (s.mtx.window + 1) * 1024 ≤ s.cycle + 1 → s.sched.issue = [] →
      ∃ c, exec .curbWindowStart s = .next (s.setMtx { s.mtx with window := (s.cycle + 1) / 1024, curb := c })
        ∧ c.map CurbWin.cluster = s.mtx.curb.map CurbWin.cluster ∧ ∀ w ∈ s.mtx.curb, w.stalled = [] → { w with used := 0 } ∈ c)


/-! ## Remote operations and peers (R232 to R236, R368, R369, R373, R375) -/

/-- The matrix queue grants and performs; tile words after each operation; drain elements begin. It rests on the model's readings of
log entries 18, 29, 30. -/
def Obligations.MatrixQueueAndElements : Prop := Claims.MatrixQueue ∧ Claims.TilesHold ∧ Claims.DrainElementBegins

namespace Sys2Proof.Claims
open Sys2Proof.Machine

/-- The pass at the head of a core's queue may be performed: every pass of its instruction has passed its checks, its peer is
reached, and nothing before it holds it back (R233, R255). -/
structure PassDue (s : State) (core : Nat) (h : RemoteOp) : Prop where
  head : s.remoteHead core = some h
  checked : ∀ p ∈ s.ops.remote, p.inst = h.inst → p.checked = true
  reached : s.reachable h.peer = true
  ready : s.engineReady h.g h.mask h.inst = true
  unfenced : s.qfenceHolds h.g 9 h.inst = false
  free : ∀ a ∈ h.args, s.acquireHolds h.g a.thread h.inst = false
  threads : (h.args.map RemoteArg.thread).Nodup

/-- A thread of a pass has a value in the registers that awaited it: each entry of its octet holds the value's word in its lane. -/
def Landed (s t : State) (h : RemoteOp) (a : RemoteArg) (x : Nat) : Prop :=
  ∀ g n r th e, s.group? { h.g with shadow := false } = some g → h.dest = .v n r → g.threads[a.thread]? = some th → th.exited = false →
    a.thread < 512 → e ∈ g.v → e.busy = some h.inst → n ≤ e.name → e.name < n + r → e.octet = a.thread / 8 →
      ∃ k d, t.group? g.key = some k ∧ d ∈ k.v ∧ d.name = e.name ∧ d.octet = e.octet
        ∧ d.vals.getD (a.thread % 8) 0 = BitVec.ofNat 32 (x / 2 ^ (32 * (e.name - n)))

/-- A pass has been performed: it has left its queue. -/
def PassGone (t : State) (h : RemoteOp) : Prop := ∀ p ∈ t.ops.remote, p.id ≠ h.id

/-- Two ranges of n bytes do not meet. -/
def apart (n a b : Nat) : Prop := a + n ≤ b ∨ b + n ≤ a

/-- Threads that write through this device's own window: what each writes stands where its offset leads, where no other thread of the
pass writes there too, and no granule that none of them touches has changed. -/
def Painted (s t : State) (h : RemoteOp) (new : RemoteArg → List Byte → List Byte) : Prop :=
  (∀ a ∈ h.args, ∀ pa key bs, s.windowAddr h.win a.off h.size h.kind.need = some (pa, key) → s.homeRead pa h.size key = some bs →
    (∀ b ∈ h.args, b ≠ a → apart h.size b.off a.off) → ∀ i, i < h.size → t.mem.byteUnder (s.accKey pa key) (pa + i) = (new a bs).getD i 0)
  ∧ ∀ k x, (∀ a ∈ h.args, ∀ pa key, s.windowAddr h.win a.off h.size h.kind.need = some (pa, key) → x / 64 < pa / 64 ∨ pa + h.size ≤ x / 64 * 64) →
    t.mem.byteUnder k x = s.mem.byteUnder k x

end Sys2Proof.Claims

/-- R233, R235: REMOTE_OPERATION_PERFORM has the next pass of the queue's first instruction checked at its peer, and holds it while the
peer is not reached; once every pass has passed, it performs the first: through this device's own window RPUT and RATOM leave
their bytes in the window's memory and no others, and RGET and RATOM give each thread what was there; what another device answers
goes to the threads in their order. -/
def Sys2Proof.Claims.PassesRun : Prop :=
  (∀ (s : State) (core : Nat) (h : RemoteOp) (reply : PeerReply) (bad : List (Nat × BitVec 8)), s.remoteHead core = some h →
    let next := (s.ops.remote.find? (fun p => p.inst = h.inst && !p.checked)).getD h
    let here := next.peer = s.pkg.device.toNat
    (s.reachable next.peer = false → next.heldAt = none →
      exec (.remoteOperationPerform ⟨core, reply, bad⟩) s = .next (s.putRemote { next with heldAt := some s.cycle }))
    ∧ (s.reachable next.peer = true → next.checked = false → (∀ p ∈ s.ops.remote, p.inst = h.inst → p.id ≠ next.id → p.bad = []) →
        (here ∧ ∀ a ∈ next.args, (s.windowAddr next.win a.off next.size next.kind.need).isSome = true) ∨ (¬ here ∧ reply = .data [] ∧ bad = []) →
      exec (.remoteOperationPerform ⟨core, reply, bad⟩) s
        = .next (s.putRemote { next with checked := true, bad := [], heldAt := none, retries := 0 }))
    ∧ (s.reachable next.peer = true → next.checked = false → (∃ p ∈ s.ops.remote, p.inst = h.inst ∧ p.id ≠ next.id ∧ p.checked = false) → here →
      exec (.remoteOperationPerform ⟨core, reply, bad⟩) s = .next (s.putRemote { next with
        checked := true, heldAt := none, retries := 0
        bad := (next.args.filter (fun a => (s.windowAddr next.win a.off next.size next.kind.need).isNone)).map (fun a => (a.thread, cREMOTE_WINDOW)) })))
  ∧ (∀ (s : State) (core : Nat) (h : RemoteOp) (reply : PeerReply), Claims.PassDue s core h →
    let ev := Instr.remoteOperationPerform ⟨core, reply, []⟩
    (h.peer = s.pkg.device.toNat → s.mem.wf = true →
      (∀ a ∈ h.args, ∃ pa key bs, s.windowAddr h.win a.off h.size h.kind.need = some (pa, key) ∧ s.homeRead pa h.size key = some bs
        ∧ s.baseLost pa = false ∧ (h.kind = .put → a.data.length = h.size)) →
        (h.kind = .put → ∃ t, exec ev s = .next t ∧ Claims.PassGone t h ∧ Claims.Painted s t h (fun a _ => a.data))
        ∧ (∀ op wide, h.kind = .atomic op wide → h.size = atomBytes wide → ∃ t, exec ev s = .next t ∧ Claims.PassGone t h
          ∧ Claims.Painted s t h (fun a bs => leBytes h.size (atomNew op wide (nat64 (leNat bs)) a.b a.c).1.toNat)
          ∧ ∀ a ∈ h.args, ∀ pa key bs, s.windowAddr h.win a.off h.size .atomic = some (pa, key) → s.homeRead pa h.size key = some bs →
            (∀ b ∈ h.args, b ≠ a → Claims.apart h.size b.off a.off) → Claims.Landed s t h a (nat64 (leNat bs)).toNat)
        ∧ (h.kind = .get → ∃ t, exec ev s = .next t ∧ Claims.PassGone t h ∧ t.mem.cells = s.mem.cells
          ∧ ∀ a ∈ h.args, ∀ pa key bs, s.windowAddr h.win a.off h.size .read = some (pa, key) → s.homeRead pa h.size key = some bs →
            Claims.Landed s t h a (loadVal h.signed h.size bs)))
    ∧ (h.peer ≠ s.pkg.device.toNat →
        (h.kind = .put → reply = .data [] → ∃ t, exec ev s = .next t ∧ Claims.PassGone t h ∧ t.mem.cells = s.mem.cells)
        ∧ (∀ bs, h.kind ≠ .put → reply = .data bs → bs.length = h.size * h.args.length → ∃ t, exec ev s = .next t ∧ Claims.PassGone t h
          ∧ t.mem.cells = s.mem.cells ∧ ∀ n a, h.args[n]? = some a →
            let got := (bs.drop (h.size * n)).take h.size
            Claims.Landed s t h a (if h.kind = .get then loadVal h.signed h.size got else (nat64 (leNat got)).toNat))))

/-- R234, R375: a request to a peer that is not reached is sent again every 10 µs, that of an engine or of an instruction at its issue
too, and answered ENDPOINT_DOWN once its period is over. -/
def Sys2Proof.Claims.RetriesRun : Prop :=
  (∀ (s : State) (o : RemoteOp), s.ops.remote.find? (fun p => p.id = o.id) = some o → s.reachable o.peer = false →
      (∀ c, o.heldAt = some c → s.passed c (10 * (o.retries + 1)) = true → 10 * (o.retries + 1) < s.isl.retry →
        exec (.remoteRetryResend ⟨o.id⟩) s = .next (s.putRemote { o with retries := o.retries + 1 }))
      ∧ (∀ c, o.heldAt = some c → s.passed c s.isl.retry = true → o.checked = true →
        exec (.retryPeriodExpiry ⟨o.id⟩) s = .next (s.endPass o (o.args.head?.map (fun a => (a, cENDPOINT_DOWN))))))
  ∧ (∀ (s : State) (o : MemOp) (c : Nat), s.ops.remote.find? (fun p => p.id = o.id) = none → s.memOp? o.id = some o → o.heldAt = some c →
      (∃ p ∈ o.pieces, p.open' = true ∧ isRemote p.pa = true ∧ s.reachable (frameDev p.pa) = false) →
        (s.passed c (10 * (o.retries + 1)) = true → 10 * (o.retries + 1) < s.isl.retry →
          exec (.remoteRetryResend ⟨o.id⟩) s = .next (s.putMemOp { o with retries := o.retries + 1 }))
        ∧ (s.passed c s.isl.retry = true → (o.kind = .load ∨ o.kind = .ldra ∨ o.kind = .store) →
          exec (.retryPeriodExpiry ⟨o.id⟩) s = .next (s.putMemOp { o with
            heldAt := none, retries := 0
            pieces := o.pieces.map (fun p =>
              if p.open' && isRemote p.pa && !s.reachable (frameDev p.pa) then { p with st := .bad cENDPOINT_DOWN } else p) })))
  ∧ (∀ (s : State) (h : HeldReq), s.isl.holds.find? (fun e => e.id = h.id) = some h → s.ops.remote.find? (fun p => p.id = h.id) = none →
      s.memOp? h.id = none → s.hostHeld? h.id = none → s.ops.copies.find? (fun o => o.id = h.id) = none → s.reachable h.dev = false →
        s.passed h.since (10 * (h.retries + 1)) = true → 10 * (h.retries + 1) < s.isl.retry →
          exec (.remoteRetryResend ⟨h.id⟩) s = .next (s.setIsl { s.isl with
            holds := s.isl.holds.map (fun e => if e.id = h.id then { e with retries := e.retries + 1 } else e) }))

namespace Sys2Proof.Claims
open Sys2Proof.Machine

/-- A peer's access at a place of this device's HBM is performed and answered: a read and an atomic with the bytes that were there; a
line that names a core delays an LDRA until that core's flush; a WAITC whose condition does not hold stays with its slice, and
leaves it where its group ends (R229, R231, R368, R369). -/
def PeerServed (s : State) (ev : Instr) (src pa size : Nat) (key : BitVec 10) (kind : PeerKind) : Prop :=
  ∀ bs, s.homeRead pa size key = some bs → s.baseLost pa = false → s.mem.wf = true →
    ∃ t, exec ev s = .next t ∧ t.groups = s.groups ∧
      (match kind with
      | .read => t.mem.cells = s.mem.cells ∧ t.mem.gkeys = s.mem.gkeys ∧ t.reply = (0, bs)
      | .write data => Wrote s t pa (s.accKey pa key) data ∧ t.reply = (0, [])
      | .ldra => t.mem.cells = s.mem.cells ∧ t.mem.gkeys = s.mem.gkeys ∧ (s.mem.tag? (pa / 128) = none → t.reply = (0, bs))
        ∧ ∀ c, s.mem.tag? (pa / 128) = some c → ∃ e ∈ t.isl.ldras, e.src = src ∧ e.core = c ∧ e.line = pa / 128 ∧ e.bytes = bs
      | .monitor cc nat b => t.mem.cells = s.mem.cells ∧ t.mem.gkeys = s.mem.gkeys
        ∧ (monitorTrue cc nat b bs = true → t.mem.monitors = s.mem.monitors ∧ t.reply = (0, bs))
        ∧ (monitorTrue cc nat b bs = false → ∃ m ∈ t.mem.monitors, m.pa = pa ∧ m.size = size ∧ m.cc = cc ∧ m.nat = nat ∧ m.b = b ∧ m.peer = some src
            ∧ m.held = !s.mem.monitorRoom (homeDie pa))
      | .unwatch cc nat b => t.mem.cells = s.mem.cells ∧ t.mem.gkeys = s.mem.gkeys ∧ t.reply = (0, [])
        ∧ (let mine (m : Monitor) : Bool := m.peer = some src && m.pa = pa && m.size = size && m.cc = cc && m.nat = nat && m.b = b
           (s.mem.monitors.find? mine = none → t.mem.monitors = s.mem.monitors)
           ∧ ∀ m, s.mem.monitors.find? mine = some m → t.mem.monitors = s.mem.monitors.filter (fun e => e.op ≠ m.op))
      | k => Wrote s t pa (s.accKey pa key) ((peerAsk k).result bs) ∧ t.reply = (0, bs))

end Sys2Proof.Claims

/-- R233, R368, R369: WINDOW_ACCESS and REMOTE_FRAME_ACCESS perform a peer's access where the window or the frame admits it, and answer it;
where none does they answer REMOTE_WINDOW and do nothing. -/
def Sys2Proof.Claims.PeersServed : Prop :=
  (∀ (s : State) (src win off size : Nat) (kind : PeerKind), s.isl.st ≠ .off → src < 512 → (peerAsk kind).formed size = true →
    (peerAsk kind).windowed = true → off % (peerAsk kind).align = 0 →
      let ev := Instr.windowAccess ⟨src, win, off, size, kind⟩
      (∀ pa key, win < 64 → s.windowAddr win off size (peerAsk kind).need = some (pa, key) → Claims.PeerServed s ev src pa size key kind)
      ∧ (64 ≤ win ∨ s.windowAddr win off size (peerAsk kind).need = none → exec ev s = .next { s with reply := (7, []) }))
  ∧ (∀ (s : State) (src addr size : Nat) (kind : PeerKind), s.isl.st ≠ .off → src < 512 → addr < 2 ^ 42 → (peerAsk kind).formed size = true →
      (peerAsk kind).placed addr size = true →
        let ev := Instr.remoteFrameAccess ⟨src, addr, size, kind⟩
        (∀ pa key, s.frameAddr addr size (peerAsk kind).need = some (pa, key) → Claims.PeerServed s ev src pa size key kind)
        ∧ (s.frameAddr addr size (peerAsk kind).need = none → exec ev s = .next { s with reply := (7, []) }))

/-- Remote operations, window and frame accesses, retries. It rests on the model's readings of log entries 21, 22, 32, 39. -/
def Obligations.PeersAnswer : Prop := Claims.PassesRun ∧ Claims.RetriesRun ∧ Claims.PeersServed

/-! ## Collectives on the island (R263, R267, R269, R273 to R280, R292, R371, R372) -/

namespace Sys2Proof.Claims
open Sys2Proof.Machine

/-- What an end computes: nothing where the contributions differ or the collective is a duplicate (R276, R279). -/
def outcome (o : CollOp) (sig : Option CollSig) (fin : CollEnd) : Option CollRes :=
  if fin.code = 2#7 ∨ fin.code = 3#7 then none else collResult (sig.getD (o.desc.sig o.op)) fin.parts

/-- A completion word by its fields (R278). -/
structure WordIs (w : Word64) (o : CollOp) (fin : CollEnd) (r : Option CollRes) : Prop where
  rows : fin.parts.length < 2 ^ 16 → w.toNat / 2 ^ 32 = (fin.parts.map (fun p => p.rows.length)).sum % 2 ^ 32
  devices : fin.parts.length < 2 ^ 16 → w.toNat / 2 ^ 16 % 2 ^ 16 = fin.parts.length
  cut : w.toNat.testBit 15 = true ↔ o.desc.dst ≠ 0 ∧ ∃ x, r = some x ∧ ∃ c ∈ x.chunks, o.desc.dstlen < c.1 + c.2.length
  small : w.toNat.testBit 14 = true ↔ ∃ x, r = some x ∧ x.nsmall = true
  range : w.toNat.testBit 13 = true ↔ ∃ x, r = some x ∧ x.iovf = true
  place : w.toNat.testBit 12 = true ↔ ∃ x, r = some x ∧ x.krange = true
  flags : w.toNat / 2 ^ 7 % 2 ^ 5 = ((r.map CollRes.flags).getD 0).toNat
  code : w.toNat % 2 ^ 7 = fin.code.toNat

/-- The byte that a completion leaves at a virtual address: of the copy of its word, of the result below DSTLEN, or none. -/
def doneByte (o : CollOp) (w : Word64) (r : Option CollRes) (va : Nat) : Option Byte :=
  let d := o.desc
  if d.status ≠ 0 ∧ d.status ≤ va ∧ va < d.status + 8 then (leBytes 8 w.toNat)[va - d.status]?
  else if d.dst ≠ 0 ∧ d.dst ≤ va ∧ va < d.dst + d.dstlen then
    (((r.map CollRes.chunks).getD []).find? (fun c => decide (c.1 ≤ va - d.dst) && decide (va - d.dst < c.1 + c.2.length))).map
      (fun c => c.2.getD (va - d.dst - c.1) 0)
  else none

/-- The pages of a collective are whole pages of HBM at M-dies that are there, each named once. -/
structure PagesSound (s : State) (o : CollOp) : Prop where
  wf : s.mem.wf = true
  hbm : ∀ q ∈ o.pages, ∀ a, a / 4096 = q.2.1 → isHbm a = true ∧ s.dieLost (homeDie a) = false
  once : ∀ q ∈ o.pages, ∀ q' ∈ o.pages, q.1 = q'.1 ∨ q.2.1 = q'.2.1 → q = q'

/-- A collective has completed with an end (R276, R278, R280): it is gone, its sD and its flag have their value in the two copies of a
check pair alike, and its pages hold the copy of the completion word and the result, cut at DSTLEN, and else what they held. -/
def Completed (s u : State) (o : CollOp) (sig : Option CollSig) (fin : CollEnd) : Prop :=
  let r := outcome o sig fin
  (∀ p ∈ u.ops.colls, p.id ≠ o.id) ∧ ∃ w, WordIs w o fin r
    ∧ (∀ (k : GroupKey) (g : Group), k = { o.g with shadow := k.shadow } → s.group? k = some g → ∃ h, u.group? k = some h
      ∧ (∀ p ∈ g.splits, (o.sreg, o.id) ∈ p.sBusy → o.sreg < p.s.length → ∃ q ∈ h.splits, q.sid = p.sid ∧ q.mask = p.mask
          ∧ (o.sreg, o.id) ∉ q.sBusy ∧ q.s.getD o.sreg 0 = w ∧ ∀ n, n ≠ o.sreg → q.s.getD n 0 = p.s.getD n 0)
      ∧ (∀ p ∈ g.splits, (o.sreg, o.id) ∉ p.sBusy → p ∈ h.splits)
      ∧ (s.ops.pts = [] → ∀ n, h.flags.getD n 0 = g.flags.getD n 0 - (if o.flag = some n then 1 else 0)))
    ∧ (((r.map CollRes.chunks).getD []).Pairwise (fun c d => c.1 + c.2.length ≤ d.1 ∨ d.1 + d.2.length ≤ c.1) →
        (∀ q ∈ o.pages, ∀ a, a / 4096 = q.2.1 → u.mem.byteUnder (s.accKey a q.2.2) a
          = (doneByte o w r (q.1 * 4096 + a % 4096)).getD (s.mem.byteUnder (s.accKey a q.2.2) a))
        ∧ ∀ k a, (∀ q ∈ o.pages, a / 4096 ≠ q.2.1) → u.mem.byteUnder k a = s.mem.byteUnder k a)

/-- The collectives of a device that an end of an instance completes. -/
def ending (s : State) (k : InstKey) : List CollOp :=
  s.ops.colls.filter (fun o => o.key = k && o.st != .queued && o.st != .duplicate && !o.st.over)

/-- An instance has ended here: its end is kept, it is under way no more, and the collective of this device that had contributed to it
has completed (R371, R372), or waits to write its result (R375). -/
def InstEnded (s u : State) (k : InstKey) (sig : Option CollSig) (fin : CollEnd) : Prop :=
  u.inst? k = none ∧ (u.endedInst? k).map EndedInst.fin = some fin
    ∧ (∀ o ∈ ending s k, ∀ p ∈ u.ops.colls, p.id = o.id → p.st = .ended sig fin)
    ∧ ∀ o, ending s k = [o] → PagesSound s o → Completed s u o sig fin

/-- One class A packet takes an instance's end to every other device of a set (R366, R371). -/
def EndSent (u : State) (i : Instance) (fin : CollEnd) (dests : BitVec 512) : Prop :=
  let others := dests &&& ~~~BitVec.twoPow 512 u.pkg.device.toNat
  others ≠ 0#512 → ∃ p ∈ u.isl.outbox, p.dests = others ∧ p.ch = 4#3 ∧ p.note = .ending i.key i.sig fin

/-- A device that a request needs is reached, or its retry period is over (R375). -/
def LetThrough (s : State) (k : HoldKey) (far : Option Nat) : Prop :=
  ∀ d, far = some d → ∃ h, s.isl.holds.find? (fun h => h.key = k && h.dev = d) = some h ∧ s.passed h.since s.isl.retry = true

/-- A request waits for a device that is not reached: nothing else has happened. -/
def HeldFor (s u : State) (k : HoldKey) (d : Nat) : Prop :=
  u.isl.holds = s.isl.holds ++ [⟨s.sched.nextId, k, d, s.cycle, 0⟩] ∧ u.mem = s.mem ∧ u.groups = s.groups

/-- The reading of a collective was refused: this device counts as absent, and the group is told where (R280). -/
def ReadFailed (s u : State) (o : CollOp) (code : BitVec 8) (va : Nat) : Prop :=
  u.mem.cells = s.mem.cells ∧ { o with st := .failed } ∈ u.ops.colls ∧ ∃ j, u.inst? o.key = some j
    ∧ (s.pkg.device.toNat < 512 → j.absent.getLsbD s.pkg.device.toNat = true) ∧ j.parts = (s.instFor o.key).parts
    ∧ ∀ g, s.group? o.g = some g → ∃ h, u.group? o.g = some h ∧ h.asyncs = g.asyncs ++ [⟨code, BitVec.ofNat 64 va, true⟩]

end Sys2Proof.Claims

/-- R276, R278, R279, R280, R370, R371, R372, R375: COLL_CONTRIBUTION reads this device's rows into its instance, or counts it absent where
the reading is refused, waits while its input lies at a device that is not reached, and completes a duplicate and a late
collective at once; COLL_PARTIAL_RECEIVE joins a child's partial, ends the instance where the entries differ, or discards and counts
one of an instance that has ended; COLL_RESULT_DELIVERY and COLL_INSTANCE_TIMEOUT end an instance here and at every other member. A
collective that completes leaves its word in sD and at STATUS and its result at DST, or waits for their device. -/
def Sys2Proof.Claims.CollectiveMoments : Prop :=
  (∀ (s : State) (o : CollOp) (t : ElemTy), s.ops.colls.find? (fun p => p.id = o.id) = some o → elemTy o.desc.ty = some t →
    let ev (bad : Option Nat) := Instr.collContribution ⟨o.id, bad⟩
    let far := s.pagesFar o.pages (s.inputRanges o t)
    (o.st = .queued → s.collHead o = true → s.engineReady o.g o.threads o.id = true → s.qfenceHolds o.g 10 o.id = false → s.isl.st = .joined →
      (s.endedInst? o.key = none → Claims.LetThrough s (.op o.id) far →
        (∀ c, s.contribution o t = .ok c →
          ∃ u j, exec (ev none) s = .next u ∧ u.mem.cells = s.mem.cells ∧ u.groups = s.groups ∧ { o with st := .contributed } ∈ u.ops.colls
            ∧ u.inst? o.key = some j ∧ (s.inst? o.key = none → j.parts = [c] ∧ j.sig = some (o.desc.sig o.op))
            ∧ (∀ i, s.inst? o.key = some i → (∀ p ∈ i.parts, p.dev ≠ c.dev) → j.parts = i.parts ++ [c]
              ∧ (∀ g, i.sig = some g → g ≠ o.desc.sig o.op → j.mismatch = true)))
        ∧ (∀ code va, s.contribution o t = .error (code, va) → ∃ u, exec (ev none) s = .next u ∧ Claims.ReadFailed s u o code va)
        ∧ (∀ q ∈ s.inputRanges o t, ∀ va, q.1 ≤ va → va < q.1 + q.2.1 →
            ∃ u, exec (ev (some va)) s = .next u ∧ Claims.ReadFailed s u o cMEM_UNCORRECTABLE va))
      ∧ (∀ d, s.endedInst? o.key = none → far = some d → (∀ h ∈ s.isl.holds, h.key ≠ .op o.id) →
          ∃ u, exec (ev none) s = .next u ∧ Claims.HeldFor s u (.op o.id) d ∧ u.ops = s.ops)
      ∧ (∀ e, s.endedInst? o.key = some e →
          exec (ev none) s = .next ((s.setIsl { s.isl with colllate := s.isl.colllate + 1 }).collEnd o e.sig e.fin)))
    ∧ (o.st = .duplicate → s.engineReady o.g o.threads o.id = true → exec (ev none) s = .next (s.collEnd o none ⟨3, []⟩))
    ∧ (∀ sig fin, o.st = .ended sig fin → Claims.LetThrough s (.op o.id) (s.resultFar o sig fin) →
        ∃ u, exec (ev none) s = .next u ∧ (Claims.PagesSound s o → Claims.Completed s u o sig fin))
    ∧ (∀ sig fin, (Claims.PagesSound s o → Claims.Completed s (s.collEnd o sig fin) o sig fin)
      ∧ ∀ d, s.resultFar o sig fin = some d → (∀ h ∈ s.isl.holds, h.key ≠ .op o.id) →
          Claims.HeldFor s (s.collEnd o sig fin) (.op o.id) d ∧ { o with st := .ended sig fin } ∈ (s.collEnd o sig fin).ops.colls))
  ∧ (∀ (s : State) (x : EvPartial), s.isl.st ≠ .off →
      (∀ g, s.instGroup x.key = some g → s.endedInst? x.key = none →
        let i := s.instFor x.key
        (g.mask = x.mask → g.fanout = x.fanout → g.timeout = x.timeout → ∃ u j, exec (.collPartialReceive x) s = .next u ∧ u.mem = s.mem
          ∧ u.groups = s.groups ∧ u.inst? x.key = some j ∧ j.parts = (i.combine x.sig x.parts).parts ∧ j.absent = i.absent ||| x.absent
          ∧ j.first = some (i.first.getD s.cycle))
        ∧ ((g.mask ≠ x.mask ∨ g.fanout ≠ x.fanout ∨ g.timeout ≠ x.timeout) → ∃ u j, exec (.collPartialReceive x) s = .next u
          ∧ j.key = x.key ∧ Claims.InstEnded s u x.key j.sig ⟨2, (i.combine x.sig x.parts).parts⟩
          ∧ Claims.EndSent u j ⟨2, (i.combine x.sig x.parts).parts⟩ (g.mask ||| x.mask)))
      ∧ ((s.instGroup x.key = none ∨ s.endedInst? x.key ≠ none) →
        exec (.collPartialReceive x) s = .next (s.setIsl { s.isl with colllate := s.isl.colllate + 1 })))
  ∧ (∀ (s : State) (k : InstKey) (i : Instance), s.isl.st ≠ .off → s.inst? k = some i →
      (∀ fin, ∃ u, exec (.collResultDelivery ⟨k, some fin⟩) s = .next u ∧ Claims.InstEnded s u k i.sig fin)
      ∧ (∀ g, s.instGroup k = some g → s.instRoot g = some s.pkg.device.toNat →
        (∀ fin, s.instEnd g i = some fin →
          ∃ u, exec (.collResultDelivery ⟨k, none⟩) s = .next u ∧ Claims.InstEnded s u k i.sig fin ∧ Claims.EndSent u i fin g.mask)
        ∧ (∀ c, i.first = some c → s.passed c g.timeout = true →
          let fin := (s.instEnd g i).getD ⟨1, i.parts⟩
          ∃ u, exec (.collInstanceTimeout ⟨k⟩) s = .next u ∧ Claims.InstEnded s u k i.sig fin ∧ Claims.EndSent u i fin g.mask)
        ∧ (i.mismatch = true → s.instEnd g i = some ⟨2, i.parts⟩)
        ∧ (i.mismatch = false → (∀ d ∈ g.members, ∃ p ∈ i.parts, p.dev = d) → s.instEnd g i = some ⟨0, i.parts⟩)))

namespace Sys2Proof.Claims
open Sys2Proof.Machine

/-- The key by which RANK and SELECT order values (R275). -/
def orderKey (t : ElemTy) (v : Nat) : Nat :=
  let n := 8 * t.size
  let x := BitVec.ofNat n v
  let top := BitVec.twoPow n (n - 1)
  match t with
  | .float _ => (if x.msb then ~~~x else x ^^^ top).toNat
  | .int true _ => (x ^^^ top).toNat
  | _ => x.toNat

/-- A result of `count` words of n bytes one after another. -/
def WordsAre (r : CollRes) (count n : Nat) (x : Nat → Nat) : Prop := r.chunks = (List.range count).map (fun e => (n * e, leBytes n (x e)))

/-- The IEEE flags of the elements together. -/
def FlagsAre (r : CollRes) (count : Nat) (fl : Nat → BitVec 5) : Prop := r.flags = (List.range count).foldl (fun a e => a ||| fl e) 0

/-- What one value adds to a sum at 2^-s, and to its count (R263, R267). -/
def addend (t : ElemTy) (v : Nat) : Int × Nat :=
  match t with
  | .float f => (match (fmtOf f).unpack v with
    | .fin n m e => signed n (m * 2 ^ (e + (if f = .f64 then 1088 else 160)).toNat)
    | _ => 0, 1)
  | .image w => ((Image.ofNat w v).value, (Image.ofNat w v).st.count.toNat)
  | .int _ _ => (0, 0)

/-- A value of some kind has been taken: a float of that value, or an image that had. -/
def taken (t : ElemTy) (col : List Nat) (float : FVal → Bool) (image : AccStatus → Bool) : Bool :=
  col.any (fun v => match t with
    | .float f => float ((fmtOf f).unpack v)
    | .image w => image (Image.ofNat w v).st
    | .int _ _ => false)

/-- The image that sums a column of values, while fewer than 2^56 are counted (R263, R267). -/
structure SumImage (t : ElemTy) (col : List Nat) (m : Image) : Prop where
  wide : m.wide = t.sumsWide
  value : (m.value - (col.map (fun v => (addend t v).1)).sum) % 2 ^ m.bits = 0
  count : m.st.count.toNat = (col.map (fun v => (addend t v).2)).sum
  nan : m.st.nan = taken t col FVal.isNan AccStatus.nan
  pinf : m.st.pinf = taken t col (fun v => v == .inf false) AccStatus.pinf
  ninf : m.st.ninf = taken t col (fun v => v == .inf true) AccStatus.ninf
  ovf : m.st.ovf = taken t col (fun _ => false) AccStatus.ovf
  lost : m.st.lost = taken t col (fun _ => false) AccStatus.lost

/-- An image rounded once (R269). -/
def imageIs (f : Fmt) (r : Rnd) (m : Image) (res : Nat × BitVec 5) : Prop :=
  let nx (fl : BitVec 5) : BitVec 5 := if m.st.lost then fl ||| 1#5 else fl
  if m.st.nan = true ∨ (m.st.pinf = true ∧ m.st.ninf = true) ∨ m.st.ovf = true then isValue f (.nan false) 0b10000#5 res
  else if m.st.pinf then isValue f (.inf false) (nx 0) res
  else if m.st.ninf then isValue f (.inf true) (nx 0) res
  else if m.value = 0 then isValue f (zeroIn f (r == .rd)) (nx 0) res
  else ∃ fl, Root.roundsTo ⟨1, m.value.natAbs, 1, -(if m.wide then 1088 else 160)⟩ f r (decide (m.value < 0)) (res.1, fl) ∧ res.2 = nx fl

/-- The exact sums of finite values and of their squares, at 2^-1088 and 2^-2176. -/
def moments (f : Fmt) (col : List Nat) : Int × Int :=
  let xs := col.map (fun v => match f.unpack v with | .fin n m e => signed n (m * 2 ^ (e + 1088).toNat) | _ => (0 : Int))
  (xs.sum, (xs.map (fun x => x * x)).sum)

/-- The mean and the spread of a column (R277). -/
def StatIs (f : Fmt) (r : Rnd) (col : List Nat) (mean spread : Nat × BitVec 5) : Prop :=
  let n := col.length
  let vs := col.map f.unpack
  let (s1, s2) := moments f col
  if (∃ v ∈ vs, v.isNan = true) ∨ (FVal.inf true ∈ vs ∧ FVal.inf false ∈ vs) then
    isValue f (.nan false) 0b10000#5 mean ∧ isValue f (.nan false) 0b10000#5 spread
  else if FVal.inf true ∈ vs ∨ FVal.inf false ∈ vs then
    (∃ neg, FVal.inf neg ∈ vs ∧ isValue f (.inf neg) 0 mean) ∧ isValue f (.nan false) 0b10000#5 spread
  else
    (if n = 0 then isValue f (.nan false) 0 mean
     else if s1 = 0 then isValue f (zeroIn f (r == .rd)) 0 mean
     else Root.roundsTo ⟨1, s1.natAbs, n, -1088⟩ f r (decide (s1 < 0)) mean)
    ∧ (if n < 2 then isValue f (.nan false) 0 spread
       else if n * s2 = s1 * s1 then isValue f (zeroIn f false) 0 spread
       else Root.roundsTo ⟨2, (n * s2 - s1 * s1).toNat, n * (n - 1), -2176⟩ f r false spread)

end Sys2Proof.Claims

/-- R274, R275, R276, R277: what each collective computes of the rows of the contributions that arrived: sums, extremes, histograms, ranks,
selected values, means and spreads, and the root's rows, with the bits of the completion word and the IEEE flags. -/
def Sys2Proof.Claims.CollectiveValues : Prop :=
  ∀ (sig : CollSig) (parts : List Contribution) (t : ElemTy), elemTy sig.ty = some t →
    let rows := allRows parts
    let n := rows.length
    let col (e : Nat) : List Nat := column rows e
    let size := t.size
    let rnd := outRnd sig.out
    (∀ row ∈ rows, ∀ v ∈ row, v < 2 ^ (8 * t.bytes)) → (∀ p ∈ parts, ∀ v ∈ p.obs, v < 2 ^ (8 * t.bytes)) →
    ((collKind sig.op = .sum → ∀ sg w, t = .int sg w → ∃ r, collResult sig parts = some r ∧ r.flags = 0 ∧ ∃ x, Claims.WordsAre r sig.e 8 x
        ∧ let total (e : Nat) : Int := ((col e).map (fun v => extInt sg (if w then 64 else 32) (BitVec.ofNat 64 v))).sum
          (∀ e, e < sig.e → (x e : Int) = total e % 2 ^ 64)
          ∧ (r.iovf = true ↔ ∃ e, e < sig.e ∧ (if sg then total e < -2 ^ 63 ∨ 2 ^ 63 ≤ total e else total e < 0 ∨ 2 ^ 64 ≤ total e)))
      ∧ (collKind sig.op = .sum → (∀ sg w, t ≠ .int sg w) → (∀ e, e < sig.e → ((col e).map (fun v => (Claims.addend t v).2)).sum < 2 ^ 56) →
          ∃ (r : CollRes) (m : Nat → Image) (fl : Nat → BitVec 5), collResult sig parts = some r ∧ r.iovf = false ∧ (∀ e, e < sig.e → Claims.SumImage t (col e) (m e))
            ∧ let signals (e : Nat) : BitVec 5 := if Claims.taken t (col e) FVal.isSnan (fun _ => false) then 0b10000#5 else 0
              if sig.out.getLsbD 2 = true then
                r.chunks = (List.range sig.e).map (fun e =>
                  ((if t.sumsWide then 384 else 64) * e, leBytes (if t.sumsWide then 280 else 56) (m e).toNat)) ∧ Claims.FlagsAre r sig.e signals
              else ∃ x, Claims.WordsAre r sig.e ((fmtOf t.sumFmt).width / 8) x ∧ Claims.FlagsAre r sig.e (fun e => fl e ||| signals e)
                ∧ ∀ e, e < sig.e → Claims.imageIs (fmtOf t.sumFmt) rnd (m e) (x e, fl e))
      ∧ (∀ isMin : Bool, collKind sig.op = (if isMin then .min else .max) → ∀ sg w, t = .int sg w →
          ∃ r, collResult sig parts = some r ∧ r.flags = 0 ∧ ∃ x, Claims.WordsAre r sig.e size x ∧ ∀ e, e < sig.e →
            let key := Claims.orderKey t
            (n = 0 → key (x e) = (if isMin then 2 ^ (8 * size) - 1 else 0))
            ∧ (n ≠ 0 → x e ∈ col e ∧ ∀ v ∈ col e, if isMin then key (x e) ≤ key v else key v ≤ key (x e)))
      ∧ (∀ isMin : Bool, collKind sig.op = (if isMin then .min else .max) → ∀ f, t = .float f →
          ∃ r, collResult sig parts = some r ∧ ∃ x, Claims.WordsAre r sig.e size x
            ∧ (Claims.FlagsAre r sig.e (fun e => Claims.invalidIf ((col e).map (fmtOf f).unpack))) ∧ ∀ e, e < sig.e →
              let val := (fmtOf f).unpack
              ((∀ v ∈ col e, (val v).isNan = true) → x e = (fmtOf f).qnan)
              ∧ ((∃ v ∈ col e, (val v).isNan = false) → x e ∈ col e ∧ (val (x e)).isNan = false ∧ ∀ v ∈ col e, (val v).isNan = false →
                  if isMin then ¬Claims.before (val v) (val (x e)) else ¬Claims.before (val (x e)) (val v)))
      ∧ (collKind sig.op = .hist → let bins := sig.param % 2 ^ 32
          ∃ r, collResult sig parts = some r ∧ r.flags = 0 ∧ ∃ x, Claims.WordsAre r (bins + 1) 8 x
            ∧ ∀ b, b ≤ bins → x b = (rows.flatten.filter (fun v => if b < bins then v == b else decide (bins ≤ v))).length % 2 ^ 64)
      ∧ (collKind sig.op = .rank → (∀ w, t ≠ .image w) →
          ∃ r, collResult sig parts = some r ∧ r.flags = 0 ∧ ∃ x, Claims.WordsAre r (n + 2) 8 x
            ∧ let obs := (((sortBy Contribution.dev parts).head?.map Contribution.obs).getD [])
              let key := Claims.orderKey t
              let below (e : Nat) : Nat := ((col e).filter (fun v => decide (key v < key (obs.getD e 0)))).length
              (∀ i, i ≤ n → x i = ((List.range sig.e).filter (fun e => below e == i)).length % 2 ^ 64)
              ∧ x (n + 1) = ((List.range sig.e).map (fun e => ((col e).filter (fun v => key v == key (obs.getD e 0))).length)).sum % 2 ^ 64)
      ∧ (collKind sig.op = .select → (∀ w, t ≠ .image w) → 0 < sig.e → let k := sig.param % 2 ^ 32
          ∃ r, collResult sig parts = some r ∧ r.flags = 0 ∧ (r.krange = true ↔ k = 0 ∨ n < k) ∧ ∃ x, Claims.WordsAre r sig.e size x
            ∧ ∀ e, e < sig.e → let key := Claims.orderKey t
              (k = 0 ∨ n < k → x e = (match t with | .float f => (fmtOf f).qnan | _ => 0))
              ∧ (1 ≤ k → k ≤ n → x e ∈ col e ∧ ((col e).filter (fun v => decide (key v < key (x e)))).length < k
                ∧ k ≤ ((col e).filter (fun v => decide (key v ≤ key (x e)))).length))
      ∧ (collKind sig.op = .stat → ∀ f, t = .float f → f = .f32 ∨ f = .f64 → 0 < sig.e →
          ∃ (r : CollRes) (mean spread : Nat → Nat × BitVec 5), collResult sig parts = some r ∧ (r.nsmall = true ↔ n < 2)
            ∧ Claims.FlagsAre r sig.e (fun e => (mean e).2 ||| (spread e).2)
            ∧ r.chunks = (List.range sig.e).flatMap (fun e =>
                [(size * e, leBytes size (mean e).1), (size * (sig.e + e), leBytes size (spread e).1)])
            ∧ ∀ e, e < sig.e → Claims.StatIs (fmtOf f) rnd (col e) (mean e) (spread e))
      ∧ (collKind sig.op = .bcast → (∀ p, parts.find? (fun p => p.dev = sig.root) = some p →
            ∃ r, collResult sig parts = some r ∧ r.flags = 0 ∧ r.chunks = p.rows.flatten.mapIdx (fun i v => (size * i, leBytes t.bytes v)))
          ∧ (parts.find? (fun p => p.dev = sig.root) = none → collResult sig parts = none)))

/-- Collective contributions, partials, results, completion words and time limits. It rests on the model's readings of log entries
27, 31, 39. -/
def Obligations.CollectivesRun : Prop := Claims.CollectiveMoments ∧ Claims.CollectiveValues

/-! ## Ports and links (R360 to R366, R376 to R379) -/

namespace Sys2Proof.Claims
open Sys2Proof.Machine

/-- A flit that a port's transmitter makes (R361, R364): its header with the acknowledgement of what has come, and the credits of the
lowest channel that is owed some. -/
structure FlitIs (p : Port) (f : Flit) (ty : BitVec 4) (ch : BitVec 3) (packet : Option Packet) (payload : List Byte) : Prop where
  kind : f.ty = ty ∧ f.ch = ch ∧ f.packet = packet ∧ f.payload = payload ∧ f.resv = 0
  order : f.slot = p.tx.slot ∧ f.seq = p.tx.seq ∧ f.ack = p.rx.seq - 1 ∧ f.nak = p.nakSeq.isSome
  credits : (∃ c, c < 8 ∧ p.owed.getD c 0 ≠ 0 ∧ (∀ b, b < c → p.owed.getD b 0 = 0) ∧ f.crch.toNat = c ∧ f.cred.toNat = min 255 (p.owed.getD c 0))
    ∨ ((∀ c, c < 8 → p.owed.getD c 0 = 0) ∧ f.cred = 0)

/-- A port after it has sent a flit for the first time: the flit stands in its replay buffer, and its credits are spent. -/
structure SentNew (p q : Port) (f : Flit) : Prop where
  replay : q.replay = p.replay ++ [⟨f, p.tx.counter, false⟩]
  tx : q.tx = { p.tx with seq := p.tx.seq + 1, counter := p.tx.counter + 1 }
  owed : q.owed = p.owed.set f.crch.toNat (p.owed.getD f.crch.toNat 0 - f.cred.toNat)
  unfreed : q.unfreed = if f.ty = 1 then p.unfreed.set f.ch.toNat (p.unfreed.getD f.ch.toNat 0 + 1) else p.unfreed
  rest : q.rx = p.rx ∧ q.limits = p.limits ∧ q.recvd = p.recvd ∧ q.up = p.up ∧ q.nakSeq = p.nakSeq ∧ q.fails = p.fails

/-- A direction that changed keys: the new slot from counter 0, and the old key spent (R378). -/
def Rekeyed (d e : PortDir) (slot : Bool) : Prop :=
  e.slot = slot ∧ e.counter = 0 ∧ e.holds slot = d.holds slot ∧ e.holds (!slot) = false

/-- A port after it has sent a marker under the old slot. -/
def Marked (p q : Port) : Prop :=
  ∃ f, FlitIs p f 3 0 none [if p.tx.slot then 0#8 else 1#8] ∧ q.replay = p.replay ++ [⟨f, p.tx.counter, false⟩]
    ∧ Rekeyed p.tx q.tx (!p.tx.slot) ∧ q.tx.seq = p.tx.seq + 1 ∧ q.stalledAt = none ∧ q.rx = p.rx ∧ q.up = p.up

/-- A port has gone down: it holds nothing, and the packets of its replay buffer and the one it was sending wait first for another port
(R363). -/
def PortFallen (s t : State) (n : Nat) : Prop :=
  let p := s.portOr n
  t.portOr n = { p with up := false, trained := false, replay := [], fails := 0, nakSeq := none, stalledAt := none, part := none }
    ∧ (∀ m, m ≠ n → t.portOr m = s.portOr m) ∧ t.mem = s.mem ∧ t.groups = s.groups
    ∧ t.isl.outbox = p.replay.filterMap (fun f => f.flit.packet) ++ (p.part.map Prod.fst).toList ++ s.isl.outbox

/-- A flit that authenticates in order has been taken (R361 to R365, R378). -/
structure Taken (s t : State) (n : Nat) (f : Flit) : Prop where
  order : (t.portOr n).rx.seq = (s.portOr n).rx.seq + 1 ∧ (t.portOr n).nakSeq = none ∧ (t.portOr n).fails = 0
  /-- flits that its ACK covers leave the replay buffer, and after a NAK the rest goes out again -/
  replay : ∃ rest, rest = (match (s.portOr n).replay.findIdx? (fun g => g.flit.seq = f.ack) with
      | some i => (s.portOr n).replay.drop (i + 1)
      | none => (s.portOr n).replay)
    ∧ (t.portOr n).replay = (match f.nak, rest.findIdx? (fun g => g.flit.seq = f.ack + 1) with
      | true, some i => (rest.drop i).map (fun g => { g with resend := true })
      | _, _ => rest)
  credits : (t.portOr n).unfreed = (s.portOr n).unfreed.set f.crch.toNat ((s.portOr n).unfreed.getD f.crch.toNat 0 - f.cred.toNat)
  data : if f.ty = 1 then
      (t.portOr n).recvd = (s.portOr n).recvd.set f.ch.toNat ((s.portOr n).recvd.getD f.ch.toNat 0 + 1)
        ∧ (t.portOr n).owed = (s.portOr n).owed.set f.ch.toNat ((s.portOr n).owed.getD f.ch.toNat 0 + 1)
    else (t.portOr n).recvd = (s.portOr n).recvd ∧ (t.portOr n).owed = (s.portOr n).owed
  limits : (t.portOr n).limits = if f.ty = 2 then (List.range 8).map (fun i => leNat ((f.payload.drop (4 + 2 * i)).take 2)) else (s.portOr n).limits
  keys : if f.ty = 3 then Rekeyed (s.portOr n).rx (t.portOr n).rx ((f.payload.getD 0 0).getLsbD 0)
    else (t.portOr n).rx = { (s.portOr n).rx with seq := (s.portOr n).rx.seq + 1, counter := (s.portOr n).rx.counter + 1 }
  packet : t.isl.inbox = s.isl.inbox ++ (match f.packet with
    | some k => if f.ty = 1 ∧ k.dst = s.pkg.device.toNat ∧ (k.src, k.num) ∉ s.isl.accepted then [k] else []
    | none => [])
  once : ∀ k, f.ty = 1 → f.packet = some k → k.dst = s.pkg.device.toNat → (k.src, k.num) ∈ t.isl.accepted
  rest : (t.portOr n).tx = (s.portOr n).tx ∧ (t.portOr n).up = (s.portOr n).up ∧ (t.portOr n).part = (s.portOr n).part
    ∧ (∀ m, m ≠ n → t.portOr m = s.portOr m) ∧ t.mem = s.mem ∧ t.groups = s.groups ∧ t.isl.authfail = s.isl.authfail

end Sys2Proof.Claims

/-- R360 to R364, R378, R402: FLIT_RECEIVE at a port that is up discards a flit of another SEQ; counts one that fails its check and
asks for it again, and at the eighth failure of one SEQ takes the port down; counts one of an unknown kind; else takes it: acknowledgement,
credits, limits, key change and packet. A NAK marks the flit of its SEQ and every later one of the replay buffer for sending
again; FLIT_TRANSMISSION sends the next of them as it was, or an idle flit, or the next flit of a packet, which leaves under the device's
identifier as it then is and is complete with its last flit. -/
def Sys2Proof.Claims.FlitsMove : Prop :=
  (∀ (s : State) (n : Nat) (f : Flit) (ok : Bool), n < 32 → (s.portOr n).up = true → s.isl.st ≠ .off → s.isl.offAfter = false →
    let p := s.portOr n
    let counted := s.setIsl { s.isl with authfail := s.isl.authfail + 1 }
    (f.seq ≠ p.rx.seq → exec (.flitReceive ⟨n, f, ok⟩) s = .next s)
    ∧ (f.seq = p.rx.seq → (ok = false ∨ f.slot ≠ p.rx.slot) →
        (p.fails < 7 → exec (.flitReceive ⟨n, f, ok⟩) s = .next (counted.putPort { p with nakSeq := some p.rx.seq, fails := p.fails + 1 }))
        ∧ (7 ≤ p.fails → ∃ t, exec (.flitReceive ⟨n, f, ok⟩) s = .next t ∧ Claims.PortFallen s t n ∧ t.isl.authfail = s.isl.authfail + 1))
    ∧ (f.seq = p.rx.seq → ok = true → f.slot = p.rx.slot →
        ((4 ≤ f.ty.toNat ∨ f.resv ≠ 0) → exec (.flitReceive ⟨n, f, ok⟩) s = .next (counted.putPort { p with
          rx := { p.rx with seq := p.rx.seq + 1, counter := p.rx.counter + 1 }, nakSeq := none, fails := 0 }))
        ∧ (f.ty.toNat < 4 → f.resv = 0 → ∃ t, exec (.flitReceive ⟨n, f, ok⟩) s = .next t ∧ Claims.Taken s t n f)))
  ∧ (∀ (s : State) (n i : Nat) (f : SentFlit), (s.portOr n).up = true → (s.portOr n).replay[i]? = some f →
      (∀ j g, j < i → (s.portOr n).replay[j]? = some g → g.flit.seq ≠ f.flit.seq) →
        exec (.nakReceive ⟨n, f.flit.seq⟩) s = .next (s.putPort { s.portOr n with
          replay := ((s.portOr n).replay.drop i).map (fun g => { g with resend := true }) }))
  ∧ (∀ (s : State) (n : Nat) (ch : BitVec 3), n < 32 → (s.portOr n).up = true → s.isl.st ≠ .off → (s.portOr n).stalledAt = none →
      let p := s.portOr n
      (∀ l f m, p.replay = l ++ f :: m → (∀ g ∈ l, g.resend = false) → f.resend = true →
        exec (.flitTransmission ⟨n, ch, none⟩) s = .next (s.putPort { p with replay := l ++ { f with resend := false } :: m }))
      ∧ ((∀ f ∈ p.replay, f.resend = false) → p.replay.length < 128 → p.tx.counter < s.isl.rekeyth - 1 →
        (∃ q f, exec (.flitTransmission ⟨n, ch, none⟩) s = .next (s.putPort q) ∧ Claims.FlitIs p f 0 0 none [] ∧ Claims.SentNew p q f ∧ q.part = p.part)
        ∧ (∀ d m, s.isl.offAfter = false → p.unfreed.getD ch.toNat 0 < p.limits.getD ch.toNat 0 → d.ch = ch →
          (m = 0 ∧ p.part = none ∧ s.packetDue d = true ∧ s.portFor d = some n ∧ s.inTurn n d = true ∧ packetFlits d ≤ 8 ∧ channelOk d = true)
            ∨ (0 < m ∧ p.part = some (d, m)) →
            let sent := { d with src := if d.src = unsentSrc then s.pkg.device.toNat else d.src }
            let last := m + 1 = packetFlits d
            ∃ t q f, exec (.flitTransmission ⟨n, ch, some d⟩) s = .next t ∧ t.portOr n = q ∧ Claims.SentNew p q f
              ∧ Claims.FlitIs p f 1 ch (if last then some sent else none) ((d.data.drop (232 * m)).take 232)
              ∧ q.part = (if last then none else some (sent, m + 1)) ∧ t.mem = s.mem ∧ t.groups = s.groups
              ∧ t.isl.outbox = (if m = 0 then s.isl.outbox.erase d else s.isl.outbox)
              ∧ (m = 0 → d ∉ s.isl.outbox → lookupD t.isl.nums d.dst 0 = d.num + 1))))

/-- R365: LENDING_PERIOD announces, 640 ns after the last, the limits of the flits received since: 8 for each channel, and 448 in proportion,
what is left over to the lowest-numbered, 512 in all; the other end takes the limits it is sent. -/
def Sys2Proof.Claims.LimitsLent : Prop :=
  (∀ (s : State) (n : Nat), n < 32 → s.isl.st ≠ .off → (s.portOr n).maySend = true → (s.portOr n).periodAt + lendingCycles ≤ s.cycle →
      (s.portOr n).tx.counter < s.isl.rekeyth - 1 →
        let p := s.portOr n
        ∃ q, exec (.lendingPeriod ⟨n⟩) s = .next (s.putPort q) ∧ q.recvd = List.replicate 8 0 ∧ q.period = p.period + 1 ∧ q.periodAt = s.cycle
          ∧ q.replay = p.replay ++ [⟨p.makeFlit tyLending 7 none (leBytes 4 p.period ++ (lendLimits p.recvd).flatMap (leBytes 2)), p.tx.counter, false⟩])
  ∧ (∀ u : List Nat, u.length = 8 → (lendLimits u).length = 8 ∧ (lendLimits u).sum = 512 ∧ (u.sum = 0 → lendLimits u = List.replicate 8 64)
      ∧ (u.sum ≠ 0 → ∀ c, c < 8 → (lendLimits u).getD c 0 = 8 + 448 * u.getD c 0 / u.sum
          + (if c < 448 - ((List.range 8).map (fun i => 448 * u.getD i 0 / u.sum)).sum then 1 else 0)))
  ∧ (∀ (s : State) (n period : Nat) (limits : List Nat), s.isl.st ≠ .off → (s.portOr n).up = true → (s.portOr n).nakSeq = none → limits.length = 8 →
      exec (.lendingFlitReceive ⟨n, period, limits⟩) s = .next (s.putPort { (s.portOr n).accept with limits := limits }))

/-- R366, R377, R378, R379: a port goes down with its replay buffer returned, and comes up, both directions holding keys, with SEQ and
limits at their first values; a key is loaded into a slot not in use; a marker sent and received changes the slot and spends the
old key, at the latest at the threshold, where a port with no key stalls and goes down. A multicast of the next place is taken,
and a collective's end in it ends the instance here. -/
def Sys2Proof.Claims.PortsAndKeys : Prop :=
  ∀ (s : State) (n : Nat), n < 32 → s.isl.st ≠ .off →
    let p := s.portOr n
    (p.up = true → s.isl.offAfter = false → ∃ t, exec (.portDown ⟨n⟩) s = .next t ∧ Claims.PortFallen s t n)
    ∧ (p.up = false → p.tx.holds false = true → p.tx.holds true = true → p.rx.holds false = true → p.rx.holds true = true →
      ∃ q, exec (.portUp ⟨n⟩) s = .next (s.putPort q) ∧ q.up = true ∧ q.tx.seq = 0 ∧ q.rx.seq = 0 ∧ q.limits = List.replicate 8 64
        ∧ q.tx.counter = p.tx.counter ∧ q.tx.keys = p.tx.keys)
    ∧ (∀ (tx slot : Bool) (key : BitVec 256), (p.up = false ∨ slot ≠ (if tx then p.tx.slot else p.rx.slot)) →
      ∃ q, exec (.linkKeyLoad ⟨n, tx, slot, key⟩) s = .next (s.putPort q)
        ∧ (if tx then q.tx else q.rx).keys = ((if tx then p.tx else p.rx).keys).set (slotIx slot) (true, key)
        ∧ (if tx then q.rx else q.tx) = (if tx then p.rx else p.tx))
    ∧ (∀ slot, p.maySend = true → slot ≠ p.tx.slot → p.tx.holds slot = true →
      ∃ q, exec (.keyChangeMarker ⟨n, slot, p.tx.seq⟩) s = .next (s.putPort q) ∧ Claims.Marked p q)
    ∧ (∀ slot, p.up = true → slot ≠ p.rx.slot → ∃ q, exec (.markerReceive ⟨n, slot, p.rx.seq⟩) s = .next (s.putPort q)
      ∧ Claims.Rekeyed p.rx q.rx slot ∧ q.rx.seq = p.rx.seq + 1 ∧ q.nakSeq = none ∧ q.fails = 0 ∧ q.tx = p.tx ∧ q.replay = p.replay)
    ∧ (p.up = true → p.stalledAt = none → s.isl.rekeyth - 1 ≤ p.tx.counter →
      (p.maySend = true → p.tx.holds (!p.tx.slot) = true → ∃ q, exec (.rekeyThreshold ⟨n⟩) s = .next (s.putPort q) ∧ Claims.Marked p q)
      ∧ (p.tx.holds (!p.tx.slot) = false → exec (.rekeyThreshold ⟨n⟩) s = .next (s.putPort { p with stalledAt := some s.cycle })))
    ∧ (∀ c, p.up = true → p.stalledAt = some c → s.passed c 1000 = true → s.isl.offAfter = false →
      (∃ t, exec (.rekeyStallTimeout ⟨n⟩) s = .next t ∧ Claims.PortFallen s t n)
      ∧ ∀ ch d, exec (.flitTransmission ⟨n, ch, d⟩) s = .fault (.notDue "FLIT_TRANSMISSION"))
    ∧ (∀ (src queue : Nat) (classB : Bool) (dests : BitVec 512), s.pkg.device.toNat < 512 → dests.getLsbD s.pkg.device.toNat = true →
      ∃ t, exec (.multicastDelivery ⟨src, classB, queue, s.nextPlace src classB queue, dests, none⟩) s = .next t
        ∧ t.nextPlace src classB queue = s.nextPlace src classB queue + 1 ∧ t.mem = s.mem)
    ∧ (∀ (src queue : Nat) (dests : BitVec 512) (k : InstKey) (sig : Option CollSig) (fin : CollEnd), s.pkg.device.toNat < 512 →
      dests.getLsbD s.pkg.device.toNat = true → s.endedInst? k = none →
        ∃ t, exec (.multicastDelivery ⟨src, false, queue, s.nextPlace src false queue, dests, some (k, sig, fin)⟩) s = .next t
          ∧ t.nextPlace src false queue = s.nextPlace src false queue + 1 ∧ Claims.InstEnded s t k sig fin)


/-! ## Island and package (R373, R380 to R386, R392, R399) -/

/-- Flits, limits, keys and ports. It rests on the model's readings of log entries 4, 8, 31. -/
def Obligations.FlitsAndPorts : Prop := Claims.FlitsMove ∧ Claims.LimitsLent ∧ Claims.PortsAndKeys

namespace Sys2Proof.Claims
open Sys2Proof.Machine

/-- The island's state has been announced to the plane switch of each port, with the instances whose contributions from here it keeps
(R373, R374). -/
def StateSent (s t : State) (st : IslandSt) : Prop :=
  t.isl.st = st ∧ ∀ p, p < 32 → ∃ k ∈ t.isl.outbox, k.dst = 512 + p ∧ k.ch = 5#3
    ∧ k.note = .island st ((s.isl.insts.filter (fun i => i.parts.any (fun p => p.dev = s.pkg.device.toNat))).map Instance.key)

/-- Compute has gone: no context, launch, team or group is left, and memory and the peers' monitors are as they were (R374). -/
def ComputeGone (s t : State) : Prop :=
  t.groups = [] ∧ t.teams = [] ∧ t.ctxs = [] ∧ t.saved = [] ∧ t.launches = [] ∧ t.mem.cells = s.mem.cells
    ∧ t.mem.monitors = s.mem.monitors.filter (fun m => m.peer.isSome)

/-- A member whose island keeps nothing for an instance counts absent there, if its contribution has not arrived (R372, R374). -/
def CountsAbsent (s t : State) (d : Nat) (kept : List InstKey) : Prop :=
  ∀ i, s.inst? i.key = some i → (s.collGroup i.key.grp).mask.getLsbD d = true → (∀ p ∈ i.parts, p.dev ≠ d) → i.key ∉ kept →
    ∃ j, t.inst? i.key = some j ∧ j.absent.getLsbD d = true ∧ j.parts = i.parts

end Sys2Proof.Claims

/-- R373, R374: the island's states: verified firmware of an I-die that has booted brings it from OFF to ISLAND-ONLY, COMPUTE_JOIN to JOINED
where the package is ready, COMPUTE_LEAVE back with no compute left; each change is announced; power loss turns it OFF at once with its
registers at reset, and so does a reset request, but from JOINED by way of ISLAND-ONLY, once what is announced and was accepted before
has been sent. An announcement, or the time-out of a peer, is kept as that peer's state. -/
def Sys2Proof.Claims.IslandStates : Prop :=
  ∀ s : State,
    (s.isl.st = .off → s.pkg.isReady 18 = true →
        ∃ t, exec (.islandPowerGood ⟨true⟩) s = .next t ∧ Claims.StateSent s t .islandOnly ∧ t.mem = s.mem ∧ t.groups = s.groups)
    ∧ (s.pkg.isReady 18 = false → exec (.islandPowerGood ⟨true⟩) s = .fault (.notDue "ISLAND_POWER_GOOD"))
    ∧ (s.isl.st = .islandOnly → s.isl.offAfter = false → s.pkg.windowClosed = true → s.pkg.healthy ≠ 0 → s.pkg.level ≠ 2#2 → s.pkg.isReady 18 = true →
        (∀ d, d < 10 → s.pkg.healthy.getLsbD d = true → s.pkg.isReady d = true) →
          ∃ t, exec .computeJoin s = .next t ∧ Claims.StateSent s t .joined ∧ t.mem = s.mem ∧ t.groups = s.groups)
    ∧ (s.isl.st = .joined → ∃ t, exec .computeLeave s = .next t ∧ Claims.StateSent s t .islandOnly ∧ t.isl.orphans = s.isl.orphans ++ s.requestsOut
        ∧ Claims.ComputeGone s t)
    ∧ (s.isl.st ≠ .off → (∃ t, exec .islandPowerLoss s = .next t ∧ t.isl = { Island.reset with st := .off })
        ∧ (s.isl.st ≠ .joined ∨ (∀ p ∈ s.isl.ports, p.up = false) →
          ∃ t, exec .islandResetRequest s = .next t ∧ t.isl = { Island.reset with st := .off }))
    ∧ (s.isl.st = .joined → (∃ n, n < 32 ∧ (s.portOr n).up = true) →
        ∃ t, exec .islandResetRequest s = .next t ∧ Claims.StateSent s t .islandOnly ∧ t.isl.offAfter = true ∧ Claims.ComputeGone s t)
    ∧ (∀ n, s.isl.st ≠ .off → s.isl.offAfter = true → (s.portOr n).up = true → (∀ p ∈ s.isl.ports, p.port ≠ n → p.up = false) →
        ∃ t, exec (.portDown ⟨n⟩) s = .next t ∧ t.isl = { Island.reset with st := .off })
    ∧ (∀ d st kept, s.isl.st ≠ .off → d < 512 → d ≠ s.pkg.device.toNat →
        (st ≠ .off → ∃ t, exec (.stateAnnouncementReceive ⟨d, st, kept⟩) s = .next t ∧ t.peerState d = st ∧ t.mem = s.mem
          ∧ (st = .islandOnly → (∀ k ∈ kept, (d, k) ∈ t.isl.kept) ∧ Claims.CountsAbsent s t d kept))
        ∧ (∃ t, exec (.peerUnreachableTimeout ⟨d⟩) s = .next t ∧ t.peerState d = .off ∧ t.mem = s.mem ∧ Claims.CountsAbsent s t d []))

/-- R380, R381, R383, R392: a die's boot result is kept once, within the boot window, and the I-die's failure leaves the island OFF; when the
window closes the dies that are ready, their base die too, are healthy, the others of the package lost, and the lowest healthy one is
master; a die that reports a fault or misses its heartbeat is lost with those it carries. -/
def Sys2Proof.Claims.PackageBoots : Prop :=
  ∀ s : State,
    (∀ (d : Nat) (ok : Bool) (digest : BitVec 512), d < 19 →
      let t := s.setPkg { s.pkg with dies := s.pkg.dies ++ [⟨d, ok, if ok then digest else 0, false⟩] }
      (s.pkg.windowClosed = true → exec (.dieBoot ⟨d, ok, digest⟩) s = .fault (.notDue "DIE_BOOT"))
      ∧ (s.pkg.windowClosed = false → (∀ e ∈ s.pkg.dies, e.id ≠ d) → (d ≠ 18 ∨ ok = true → exec (.dieBoot ⟨d, ok, digest⟩) s = .next t)
        ∧ (d = 18 → ok = false → ∃ u, exec (.dieBoot ⟨d, ok, digest⟩) s = .next u ∧ u.pkg.dies = t.pkg.dies ∧ u.isl.st = .off)))
    ∧ (s.pkg.windowClosed = false → ∃ t, exec .bootWindowExpiry s = .next t ∧ t.pkg.windowClosed = true
      ∧ (∀ d, d < 19 → (t.pkg.healthy.getLsbD d = true ↔ s.pkg.isReady d = true ∧ (d ∈ lostWith 8 → s.pkg.isReady 8 = true)
        ∧ (d ∈ lostWith 9 → s.pkg.isReady 9 = true)))
      ∧ (∀ d, d < 19 → t.pkg.healthy.getLsbD d = false → t.dieLost d = true)
      ∧ (t.pkg.healthy ≠ 0 → t.pkg.healthy.getLsbD t.pkg.master.toNat = true ∧ ∀ d, d < t.pkg.master.toNat → t.pkg.healthy.getLsbD d = false)
      ∧ (if s.pkg.isReady 18 then t.isl = s.isl ∧ t.mem = s.mem ∧ t.groups = s.groups else t.isl.st = .off))
    ∧ (∀ d, d < 19 → s.dieLost d = false →
      ∃ t, exec (.dieFaultReport ⟨d⟩) s = .next t ∧ (∀ e ∈ lostWith d, t.dieLost e = true ∧ (s.dieLost e = false → t.pkg.healthy.getLsbD e = false))
        ∧ (s.pkg.windowClosed = true → s.pkg.healthy.getLsbD d = true → exec (.heartbeatMiss ⟨d⟩) s = .next t))

/-- R399: the thermal levels: from 105 degrees the budget is lowered and the level 1; from 115 the level is 2 and the device leaves the
island's compute; when it has stayed below 95 for a second the level is 0 and the budget what it was. -/
def Sys2Proof.Claims.ThermalLevels : Prop :=
  ∀ (s : State) (t : BitVec 8) (b : BitVec 11),
    let was := if s.pkg.level = 0#2 then s.pkg.curbBudget else s.pkg.budgetWas
    (105 ≤ t.toNat → t.toNat < 115 → s.pkg.level ≠ 2#2 → (curbKept b).toNat ≤ s.pkg.curbBudget.toNat →
      ∃ u, exec (.thermalThrottle ⟨t, b⟩) s = .next u ∧ u.pkg.level = 1 ∧ u.pkg.tmax = t ∧ u.pkg.curbBudget = curbKept b ∧ u.pkg.budgetWas = was
        ∧ u.pkg.cool = none ∧ u.isl = s.isl ∧ u.mem = s.mem)
    ∧ (115 ≤ t.toNat → s.pkg.level ≠ 2#2 →
      ∃ u, exec (.thermalShutdown ⟨t, b⟩) s = .next u ∧ u.pkg.level = 2 ∧ u.pkg.tmax = t ∧ u.pkg.budgetWas = was ∧ u.pkg.cool = none ∧ u.isl.st ≠ .joined)
    ∧ (∀ c, t.toNat < 95 → s.pkg.level ≠ 0#2 → s.pkg.cool = some c → (s.passed c 1000000 = true →
        ∃ u, exec (.thermalReturn ⟨t, b⟩) s = .next u ∧ u.pkg.level = 0 ∧ u.pkg.tmax = t ∧ u.pkg.curbBudget = s.pkg.budgetWas ∧ u.isl = s.isl
          ∧ u.mem = s.mem)
      ∧ (s.passed c 1000000 = false → exec (.thermalReturn ⟨t, b⟩) s = .fault (.notDue "THERMAL_RETURN")))

/-- Island states, boot, die loss and temperature. It rests on the model's readings of log entries 4, 31, 32, 33, 34. -/
def Obligations.PackageStates : Prop := Claims.IslandStates ∧ Claims.PackageBoots ∧ Claims.ThermalLevels

/-! ## Commands (R387, R393 to R398) -/

namespace Sys2Proof.Claims
open Sys2Proof.Machine

/-- A command has completed: BUSY is clear and CODE set (R395). -/
def done (s : State) (code : Nat) : State := s.setPkg { s.pkg with busy := false, cmdCode := BitVec.ofNat 8 code }

/-- What CTX_END stops first (R128, R200, R395): every group of the context has ended with no fault reported, every launch of it that has not
completed is aborted, and every saved group has ended. -/
structure Stopped (s t : State) (c : Context) : Prop where
  groups : ∀ g, s.group? g.key = some g → g.ctx = c.id → g.threads.length ≤ 512 → ∃ h, t.group? g.key = some h ∧ h.splits = [] ∧ h.asyncs = []
    ∧ h.handler = none ∧ h.trap = g.trap ∧ h.threads.length = g.threads.length ∧ ∀ th ∈ h.threads, th.exited = true
  saved : ∀ y ∈ t.saved, y.g.ctx = c.id → y.g.splits = [] ∧ ∀ th ∈ y.g.threads, th.exited = true
  launches : ∀ l ∈ t.launches, l.ctx = c.id → l.complete = true ∨ l.aborted = true

/-- A context is no more: none of its launches, teams, lines and translations is left, its slots are free and no line is retained for
it; memory and what belongs to others are as they were (R187, R395). -/
structure Dropped (s t : State) (c : Context) : Prop where
  gone : t.ctx? c.id = none ∧ (∀ l ∈ t.launches, l.ctx ≠ c.id) ∧ (∀ u ∈ t.teams, u.ctx ≠ c.id) ∧ (∀ e ∈ t.mem.tlb, e.ctx ≠ c.id)
    ∧ (∀ e ∈ t.mem.walks, e.ctx ≠ c.id) ∧ (∀ l ∈ t.mem.l1, l.ctx ≠ c.id) ∧ (∀ l ∈ t.mem.rdc, l.ctx ≠ c.id)
    ∧ (∀ d ∈ t.mtx.slots, d.ctx ≠ some c.id) ∧ ∀ h ∈ t.mem.hl2, h.ctx = c.id → h.cls ≠ 2#2
  kept : (∀ x ∈ s.ctxs, x.id ≠ c.id → x ∈ t.ctxs) ∧ (∀ l ∈ s.launches, l.ctx ≠ c.id → l ∈ t.launches) ∧ (∀ e ∈ s.mem.tlb, e.ctx ≠ c.id → e ∈ t.mem.tlb)
    ∧ (∀ d ∈ s.mtx.slots, d.ctx ≠ some c.id → d ∈ t.mtx.slots) ∧ t.mem.cells = s.mem.cells ∧ t.groups = s.groups
  registers : t.past = s.past ++ [c]

/-- The named halted groups of a context may go on, and those that were to halt do not, but for one that stands at a BKPT; nothing else
of a group changes (R397). -/
structure Unhalted (s t : State) (ctx : Nat) (named : GroupKey → Bool) : Prop where
  saved : ∀ y ∈ s.saved, if y.g.ctx = ctx ∧ named { y.g.key with shadow := false } = true
    then { y with g := { y.g with haltReq := false }, halted := false } ∈ t.saved else y ∈ t.saved
  groups : ∀ g ∈ s.groups, if g.ctx = ctx ∧ named { g.key with shadow := false } = true ∧ (∀ p ∈ g.splits, p.st ≠ .blocked .halted)
    then { g with haltReq := false } ∈ t.groups else g ∈ t.groups
  rest : t.saved.length = s.saved.length ∧ t.groups.length = s.groups.length ∧ t.mem = s.mem
  command : t.pkg = { s.pkg with busy := false, cmdCode := 0 }

end Sys2Proof.Claims

/-- R193, R393, R395, R398: a command that is running ends with BUSY clear and its code: 1 for a number no command has; 2 where its context
is absent, or, for CTX_START, running, or the key slot is bound; 0, with no effect, for a TLB_INV of an absent context; 2 or 3 where
what it reads is not valid or not readable; else 0 with its effect, once what it waits for is over. -/
def Sys2Proof.Claims.CommandsComplete : Prop :=
  ∀ s : State,
    (s.running 1 = true → (∀ c, s.cmdCtx? = some c → exec .ctxStart s = .next (Claims.done s 2))
      ∧ (∀ c, s.cmdCtx? = none → s.readDesc (Context.fresh s.pkg.cmdCtx.toNat) true = .ok c →
          ∃ t : State, exec .ctxStart s = .next (Claims.done t 0) ∧ t.ctxs.map Context.id = s.ctxs.map Context.id ++ [c.id])
      ∧ (∀ e, s.cmdCtx? = none → s.readDesc (Context.fresh s.pkg.cmdCtx.toNat) true = .error e → exec .ctxStart s = .next (Claims.done s e)))
    ∧ (s.running 2 = true → (∀ c, s.cmdCtx? = some c → s.toStop c = true → ∃ t, exec .ctxEnd s = .next t ∧ Claims.Stopped s t c ∧ t.pkg.busy = true
        ∧ ∀ q, q < 64 → c.waiting q = 1 → (∀ p, p < 64 → p ≠ q → c.waiting p = 0) → (∀ p ∈ c.pre, ¬(p.q = q ∧ p.n = countOf c.qhead q)) →
          (∀ g ∈ s.groups, g.ctx ≠ c.id) → (∀ y ∈ s.saved, y.g.ctx ≠ c.id) → (∀ raw, s.entryBytes c q = some raw → (parseRec raw).1.done = 0) →
            let handle := c.id * 2 ^ 54 + q * 2 ^ 48 + (c.seq + 1) % 2 ^ 48
            (∀ l ∈ s.launches, l.handle ≠ handle) → (∃ l ∈ t.launches, l.handle = handle ∧ l.aborted = true ∧ l.complete = true)
              ∧ (∃ d, t.ctx? c.id = some d ∧ countOf d.qhead q = countOf c.qhead q + 1)
              ∧ Claims.PostsAdded s t c.id [(BitVec.ofNat 64 handle, 4#64, s.cycle - s.born)] ∧ t.mem = s.mem)
      ∧ (∀ c, s.cmdCtx? = some c → s.toStop c = false → s.ctxIdle c = true →
          ∃ t, exec .ctxEnd s = .next t ∧ Claims.Dropped s t c ∧ t.pkg = { s.pkg with busy := false, cmdCode := 0 }))
    ∧ (s.running 3 = true → ∀ c, s.cmdCtx? = some c →
        (∀ d, s.readDesc c false = .ok d →
          ∃ m, exec .resUpdate s = .next (Claims.done (((s.putCtx d).touchPa c.id d.resAddr).setMem m) 0) ∧ m.cells = s.mem.cells)
        ∧ (∀ e, s.readDesc c false = .error e → exec .resUpdate s = .next (Claims.done s e)))
    ∧ (s.running 4 = true →
        let inside (va n : Nat) : Bool := s.pkg.cmdB.toNat = 0 || meetsRange va n s.pkg.cmdA.toNat s.pkg.cmdB.toNat
        (∀ c, s.cmdCtx? = some c → s.openIn c.id inside = false →
          ∃ w, exec .tlbInv s = .next (Claims.done (s.setMem { s.mem with
            tlb := s.mem.tlb.filter (fun e => !(e.ctx = c.id && inside e.page e.size)), walks := w }) 0)
            ∧ (∀ e ∈ w, e ∈ s.mem.walks ∧ (e.ctx = c.id → inside (e.page * 2 ^ (12 + 9 * e.lvl)) (2 ^ (12 + 9 * e.lvl)) = false))
            ∧ (∀ e ∈ s.mem.walks, e.ctx ≠ c.id → e ∈ w))
        ∧ (s.cmdCtx? = none → exec .tlbInv s = .next (Claims.done s 0)))
    ∧ (s.running 5 = true →
        ((∃ c ∈ s.ctxs, c.keys.getLsbD s.pkg.cmdSlot.toNat = true) → exec .keyLoad s = .next (Claims.done s 2))
        ∧ ((∀ c ∈ s.ctxs, c.keys.getLsbD s.pkg.cmdSlot.toNat = false) →
          (∀ bs, s.physRead s.pkg.cmdA.toNat 64 = some bs → exec .keyLoad s = .next (Claims.done (s.setPkg { s.pkg with
            keys := insertKey s.pkg.keys s.pkg.cmdSlot.toNat (BitVec.ofNat 512 (leNat bs)) }) 0))
          ∧ (s.physRead s.pkg.cmdA.toNat 64 = none → exec .keyLoad s = .next (Claims.done s 3))))
    ∧ (s.running 6 = true → s.openUnder s.pkg.cmdSlot.toNat = false →
        ∃ t : State, exec .keyClear s = .next (Claims.done t 0) ∧ t.pkg = { s.pkg with keys := s.pkg.keys.filter (fun e => e.1 ≠ s.pkg.cmdSlot.toNat) })
    ∧ (s.running 7 = true →
        (bitAt s.pkg.featAct0 7 = false → exec .attest s = .next (Claims.done s 1))
        ∧ (bitAt s.pkg.featAct0 7 = true → s.pkg.cmdB.toNat % 64 ≠ 0 → exec .attest s = .next (Claims.done s 2))
        ∧ (∀ nonce old, bitAt s.pkg.featAct0 7 = true → s.pkg.cmdB.toNat % 64 = 0 → s.physRead s.pkg.cmdA.toNat 32 = some nonce →
          s.physRead s.pkg.cmdB.toNat 4672 = some old → exec .attest s
            = .next (Claims.done (s.physWrite s.pkg.cmdB.toNat (s.report nonce ++ (List.range 3309).map (Config.signature (s.report nonce)))) 0)))
    ∧ (s.cmdCtx? = none → ∀ op ev, (op, ev) ∈ [(2, Instr.ctxEnd), (3, .resUpdate), (8, .dbgAttach), (9, .dbgDetach), (10, .dbgHalt), (11, .dbgResume),
        (12, .dbgLocate)] → s.running op = true → exec ev s = .next (Claims.done s 2))
    ∧ (s.pkg.busy = true → s.isl.st ≠ .off → (s.pkg.cmdOp.toNat = 0 ∨ 12 < s.pkg.cmdOp.toNat) → exec .badCommand s = .next (Claims.done s 1))

/-- R393, R397, R398: the debug commands attach and detach a debugger, ask groups to halt and let them go on, and locate a halted group's
save record; DEBUG_HALT saves a group that was asked and posts its halt. -/
def Sys2Proof.Claims.DebugCommands : Prop :=
  ∀ (s : State) (c : Context), s.cmdCtx? = some c →
    (s.running 8 = true → exec .dbgAttach s = .next (Claims.done (s.putCtx { c with dbg := true }) 0))
    ∧ (s.running 9 = true → s.halting c.id = false → ∃ t d, exec .dbgDetach s = .next t ∧ Claims.Unhalted s t c.id (fun _ => true)
      ∧ t.ctx? c.id = some d ∧ d.dbg = false)
    ∧ (s.running 10 = true →
      let mine (g : Group) : Bool := g.ctx = c.id && s.named g.key && !g.ended
      ((∃ g ∈ s.groups, mine g = true ∧ g.haltReq = false) →
        ∃ t, exec .dbgHalt s = .next t ∧ t.mem = s.mem ∧ t.pkg = s.pkg ∧ t.groups.map Group.key = s.groups.map Group.key
          ∧ ∀ g ∈ t.groups, g.key.shadow = false → g.ctx = c.id → s.named g.key = true → g.haltReq = true)
      ∧ ((∀ g ∈ s.groups, mine g = false) → (∀ y ∈ s.saved, mine y.g = false ∨ y.halted = true) → exec .dbgHalt s = .next (Claims.done s 0)))
    ∧ (s.running 11 = true → ∃ t, exec .dbgResume s = .next t ∧ Claims.Unhalted s t c.id s.named ∧ t.ctxs = s.ctxs)
    ∧ (s.running 12 = true →
      (∀ y, s.saved.find? (fun y => y.halted && y.g.ctx = c.id && s.named y.g.key) = some y →
        exec .dbgLocate s = .next (Claims.done (s.setPkg { s.pkg with cmdA := nat64 y.addr }) 0))
      ∧ (s.saved.find? (fun y => y.halted && y.g.ctx = c.id && s.named y.g.key) = none → exec .dbgLocate s = .next (Claims.done s 2)))
    ∧ (∀ g t, s.group? g.key = some g → g.key.shadow = false → g.haltReq = true → g.trapPends = false → (∀ e ∈ s.copiesOf g.key, s.quiet e = true) →
      s.saveGroup g.key ⟨⟨false, s.teamRegrouped g.key.team, true, none⟩, false⟩ = some t →
        ∃ u, exec (.debugHalt ⟨g.key⟩) s = .next u ∧ u.saved = t.saved ∧ u.groups = t.groups ∧ u.mem = t.mem ∧
          let cause : BitVec 8 := if ∃ p ∈ g.splits, p.st = .blocked .halted then 0x06 else if g.priv then g.trap.cause.setWidth 8 else 0
          Claims.PostsAdded t u g.ctx [(BitVec.ofNat 64 g.key.team.launch,
            BitVec.ofNat 64 (g.key.team.team % 2 ^ 32 * 2 ^ 16 + cause.toNat * 2 ^ 8 + 5), t.cycle - t.born)])

/-- Package commands and the debugger. It rests on the model's readings of log entries 26, 33, 35. -/
def Obligations.CommandsAndDebug : Prop := Claims.CommandsComplete ∧ Claims.DebugCommands

/-! ## The host (R384, R386, R388 to R391, R394) -/

/-- R388, R386, R376, R394: the registers whose writes do more than store: FEATREQ1 sets the active features from FEATREQ0 and those the
device has; RETRY and CURBBUDGET are kept in their ranges; QTAIL and CRHEAD change only within what their queue and ring hold; every
other device register takes a write at its address. -/
def Sys2Proof.Claims.RegisterWrites : Prop :=
  ∀ (s : State), s.isl.st ≠ .off →
    (∀ v, exec (.featreq1Write ⟨v⟩) s = .next (s.setPkg { s.pkg with featReq1 := v, featAct0 := s.pkg.featReq0 &&& featSup, featAct1 := 0 }))
    ∧ (∀ v : BitVec 64, exec (.retryWrite ⟨v⟩) s = .next (s.setIsl { s.isl with
        retry := if v.toNat % 2 ^ 32 < 10 then 10 else if 1000000 < v.toNat % 2 ^ 32 then 1000000 else v.toNat % 2 ^ 32 }))
    ∧ (∀ v : BitVec 64, exec (.curbbudgetWrite ⟨v⟩) s = .next (s.setPkg { s.pkg with
        curbBudget := BitVec.ofNat 11 (if v.toNat % 2048 = 0 then 1 else if 1024 < v.toNat % 2048 then 1024 else v.toNat % 2048) }))
    ∧ (∀ (c : Context) (q : Nat) (v : BitVec 32), s.isl.st = .joined → s.ctx? c.id = some c → c.id < 1024 → q < 64 →
        ((v - countOf c.qhead q).toNat ≤ c.qdepth → ∃ t d, exec (.qtailWrite ⟨c.id, q, v⟩) s = .next t ∧ t.ctx? c.id = some d ∧ countOf d.qtail q = v)
        ∧ (c.qdepth < (v - countOf c.qhead q).toNat → ∃ t, exec (.qtailWrite ⟨c.id, q, v⟩) s = .next t ∧ t.ctx? c.id = some c)
        ∧ ((v - c.crhead).toNat ≤ (c.crtail - c.crhead).toNat →
          ∃ t, exec (.crheadWrite ⟨c.id, v⟩) s = .next t ∧ t.ctx? c.id = some { c with crhead := v })
        ∧ ((c.crtail - c.crhead).toNat < (v - c.crhead).toNat → ∃ t, exec (.crheadWrite ⟨c.id, v⟩) s = .next t ∧ t.ctx? c.id = some c))
    ∧ (∀ pa v, pa % 8 = 0 → isDevReg pa = true → s.pageAway pa = false → exec (.registerWrite ⟨pa, v⟩) s = .next (s.regWrite pa v))

namespace Sys2Proof.Claims
open Sys2Proof.Machine

/-- A host request through a context's translation that lies in one page of this device's HBM: it is performed there, under the page's key,
and answered; one whose page is not translated, or does not admit it, is answered with the cause and has no effect (R389). -/
def HostOnPage (s : State) (r : HostReq) (ev : Instr) : Prop :=
  let a := hostAsk r
  let member := if r.member.getLsbD 15 then r.member.toNat % 2 ^ 15 else 0
  r.phys = false → r.addr % 4096 + r.size ≤ 4096 → hostAligned r = true →
    (∀ e, s.leafFor devUnit r.ctx r.addr = .error e → ∃ t, exec ev s = .next t ∧ t.reply = (statusOf e, []) ∧ MemoryKept s t)
    ∧ (∀ w0 w1, s.leafFor devUnit r.ctx r.addr = .ok (w0, w1) →
      (leafPm w0 = true → r.member.getLsbD 15 = false → ∃ t, exec ev s = .next t ∧ t.reply = (3, []) ∧ MemoryKept s t)
      ∧ ((leafPm w0 = true → r.member.getLsbD 15 = true) →
        (permOk a.perm w0 = false → ∃ t, exec ev s = .next t ∧ t.reply = (1, []) ∧ MemoryKept s t)
        ∧ (∀ pa at1 old, s.leafAccess r.ctx r.addr a.perm member w0 w1 = .ok (pa, at1) → isHbm pa = true → s.baseLost pa = false → r.bad = false →
          s.homeRead pa r.size at1.key = some old → s.mem.wf = true →
            ∃ t, exec ev s = .next t ∧ t.groups = s.groups ∧
              (match r.kind with
              | .read => t.mem.cells = s.mem.cells ∧ t.reply = (0, old)
              | .write d => Wrote s t pa (s.accKey pa at1.key) d ∧ t.reply = (0, [])
              | .atomic _ _ _ _ => Wrote s t pa (s.accKey pa at1.key) (a.result old) ∧ t.reply = (0, old)
              | .regRead => True
              | .regWrite _ => True))))

end Sys2Proof.Claims

/-- R2, R389, R390, R391: a host request of a form the host may send, where no earlier one of the host waits, is performed and answered with its
status: a misaligned one with 6 and no effect, one with PHYS of no privileged agent with 1, one outside the map with 2, a register
access with the register; a release waits behind one that waits, and so does what the orders of R218 put after that one. A request
over the fabric is served only from the management host, and any other turned away. -/
def Sys2Proof.Claims.HostRequests : Prop :=
  ∀ (s : State) (r : HostReq), s.isl.st ≠ .off → (hostAsk r).formed r.size = true →
    (s.pkg.hosted = true → (∀ h ∈ s.isl.hostHeld, h.mgmt = true) →
      (∀ ev, (r.kind = .read ∧ ev = Instr.hostRead ⟨r⟩) ∨ (∃ d, r.kind = .write d ∧ ev = .hostWrite ⟨r⟩)
          ∨ (∃ op w b c, r.kind = .atomic op w b c ∧ ev = .hostAtomic ⟨r⟩) ∨ (r.size = 8 ∧ (r.kind = .regRead ∨ ∃ v, r.kind = .regWrite v) ∧ ev = .hostRegisterAccess ⟨r⟩) →
        Claims.HostOnPage s r ev
        ∧ (hostAligned r = false → exec ev s = .next { s with reply := (6, []) })
        ∧ (hostAligned r = true → r.phys = true →
          (r.privileged = false → exec ev s = .next { s with reply := (1, []) })
          ∧ (r.privileged = true → r.addr % 8 + r.size ≤ 8 → isDevReg r.addr = false → isHostMem r.addr = false → exec ev s = .next { s with reply := (2, []) })
          ∧ (r.privileged = true → r.addr % 8 + r.size ≤ 8 → isDevReg r.addr = true → s.pageAway r.addr = true → exec ev s = .next { s with reply := (8, []) })
          ∧ (r.privileged = true → r.addr % 8 + r.size ≤ 8 → isDevReg r.addr = true → s.pageAway r.addr = false →
            ((r.kind = .read ∨ r.kind = .regRead) → exec ev s = .next { s with reply := (0, s.regBytes r.addr r.size) })
            ∧ (∀ v, r.kind = .regWrite v → exec ev s = .next { s.regStore r.addr (leBytes 8 v.toNat) with reply := (0, []) })
            ∧ (∀ d, r.kind = .write d → exec ev s = .next { s.regStore r.addr d with reply := (0, []) })))
        ∧ (∀ t, s.request r r.privileged = some t → exec ev s = .next t)))
    ∧ (s.pkg.hosted = true → ∀ h ∈ s.isl.hostHeld, h.mgmt = false →
        r.order = .rel ∨ h.r.order = .acq ∨ (h.r.order = .rel ∧ ∃ d, r.kind = .write d) → ∀ d, r.kind = .write d → r.phys = false → r.addr % 4096 + r.size ≤ 4096 →
          ∀ w0 w1 pa at1, s.leafFor devUnit r.ctx r.addr = .ok (w0, w1) → (leafPm w0 = true → r.member.getLsbD 15 = true) →
            s.leafAccess r.ctx r.addr .store (if r.member.getLsbD 15 then r.member.toNat % 2 ^ 15 else 0) w0 w1 = .ok (pa, at1) → isHbm pa = true →
              ∃ t e, exec (.hostWrite ⟨r⟩) s = .next t ∧ t.isl.hostHeld = s.isl.hostHeld ++ [e] ∧ e.r = r ∧ e.heldAt = none ∧ t.mem.cells = s.mem.cells
                ∧ t.groups = s.groups)
    ∧ (∀ t src, src < 512 → src = s.pkg.mgmtHost.toNat → bitAt s.pkg.featAct0 6 = true → s.request r true true = some t →
      exec (.managementRequest ⟨src, r⟩) s = .next t)
    ∧ (∀ src, (src ≠ s.pkg.mgmtHost.toNat ∨ bitAt s.pkg.featAct0 6 = false) →
      exec (.managementRequest ⟨src, r⟩) s = .next { s with reply := (7, []) })

/-- Register writes and host requests. It rests on the model's readings of log entries 33, 34, 37. -/
def Obligations.RegistersAndHosts : Prop := Claims.RegisterWrites ∧ Claims.HostRequests

/-! ## A step, decoding and encoding (R28, R33, R34, R320, R321) -/

/-- One step runs what it reads: the element in progress of a drain runs the micro-instruction of its program; else the next
event due is performed and leaves the schedule; else the split next in the list of those selected to issue, if it still
issues, runs the instruction that its slot decodes to, or takes the decoding fault.
It rests on the model's readings of log entry 2. -/
def Obligations.StepRunsDecoded : Prop :=
  (∀ (s : State) (r : DrainRun) (i : Instr), s.mtx.run = some r → decodeMicro (s.mtx.runWord r) = some i → step s = exec i s)
  ∧ (∀ (s : State) (i : Instr) (rest : List Instr), s.mtx.run = none → s.sched.schedule = i :: rest → i.isEvent = true →
      step s = exec i (s.setSched { s.sched with schedule := rest }))
  ∧ (∀ (s : State) (k : SplitKey) (rest : List SplitKey) (g : Group) (p : Split),
      s.mtx.run = none → s.sched.schedule = [] → s.sched.issue = k :: rest →
      s.group? k.g = some g → g.split? k.sid = some p → p.st = .issuing →
        let s1 := s.setSched { s.sched with issue := rest, cur := some k }
        s1.issuer = some (g, p)
        ∧ (∀ i, decode p.decodeEnv p.word (p.code.getD p.slot 0) = .ok i → step s = exec i s1)
        ∧ (∀ e, decode p.decodeEnv p.word (p.code.getD p.slot 0) = .error e → s.shadowOf g p.sid = none →
            step s = .next ((s1.takeTrap g.key p.sid (p.trapInfo e.cause e.taddr (g.splitLive p)) p.region).clearCur)))

namespace Sys2Proof.Claims

/-- A clause whose set-flags are f0 and f1, and its slot 1. -/
def flags01 : DecodeEnv := ⟨0, 1, true⟩

/-- A word decodes to an instruction, with any literal after it. -/
def reads (w : BitVec 64) (i : Instr) : Prop := decode flags01 w 0#64 = .ok i

end Sys2Proof.Claims

/-- Words that the specification's worked encodings give decode to the instructions they stand for. -/
def Obligations.DecodeWords : Prop :=
  Claims.reads 0x0019C00020081002#64
      (.iadd ⟨{ Ctl.plain with hold := .srcB, lrA := true }, .i32, false, .v 4, .v 1, .reg (.v 2)⟩)
  ∧ Claims.reads 0x0011E81780201483#64 (.ffma ⟨{ Ctl.plain with lrA := true }, .rn, .f32, .v 5, .v 4, .reg (.h 0), .w 0⟩)
  ∧ decode Claims.flags01 0x4002800000281802#64 0x1122334455667788#64
      = .ok (.iadd ⟨{ Ctl.plain with pred := 2, pneg := true }, .i32, false, .v 6, .v 5, .lit 0x1122334455667788#64⟩)
  ∧ Claims.reads 0x8011FFFFD0301C02#64 (.iadd ⟨{ Ctl.plain with lrA := true }, .i32, false, .v 7, .v 6, .imm 0x3FFFD⟩)
  ∧ Claims.reads 0x2401C1003B7821D0#64 (.ld ⟨Ctl.plain, .n32, .v 8, .a 15, .idx (.v 3) .x4 8⟩)
  ∧ Claims.reads 0x1601E5B2F975BDC0#64 (.aset ⟨Ctl.plain, true, true, false, true, .a 15, .s 46, .s 47, .s 45⟩)
  ∧ Claims.reads 0x0481C0114B1C2A51#64 (.cpyh ⟨{ Ctl.plain with fsel := .setA }, 2, .s 10, .a 3, .s 20⟩)
  ∧ Claims.reads 0x0601C09050041283#64 (.barDefer ⟨Ctl.plain, 3, .s 4, .reg (.s 5), 4⟩)
  ∧ Claims.reads 0x2001F78028302E40#64 (.ldl ⟨Ctl.plain, .n32, .v 11, .s 6, .idx (.v 2) .x1 0x1BC⟩)
  ∧ Claims.reads 0x9801C0000B0809D4#64 (.ldAcq ⟨Ctl.plain, false, .sys, .v 2, .a 1, .disp 0⟩)
  ∧ Claims.reads 0x0001C4401B1012C0#64 (.atom ⟨Ctl.plain, .add, false, .dev, .none, .x4, .v 4, .a 2, .v 1⟩)
  ∧ Claims.reads 0x208080F0800816E0#64 (.rget ⟨{ Ctl.plain with pred := 2, fsel := .setA }, .n32, .x1, 7, .v 5, .v 1, .s 8⟩)
  ∧ Claims.reads 0x1001C0505B100310#64 (.redla ⟨Ctl.plain, true, .dev, false, .x1, .a 2, .s 5, .image 0⟩)
  ∧ Claims.reads 0x0201C18000002704#64 (.larnd ⟨Ctl.plain, 1, .f32, .rd, .v 9⟩)
  ∧ Claims.reads 0x0081C0000B2C5745#64 (.collSelect ⟨{ Ctl.plain with fsel := .setA }, .s 21, .a 5⟩)
  ∧ Claims.reads 0x0481E3D400800381#64 (.mmad ⟨{ Ctl.plain with fsel := .setA }, 2, false, .v 16, .w 0, .s 30⟩)
  ∧ decodeMicro 0x00100010#32 = some (.dscale ⟨.f32, 0, 0, true, 0⟩)
  ∧ decodeMicro 0x00300012#32 = some (.dcvt ⟨.f32, .bf16, .rn, 0, 0⟩)
  ∧ decodeMicro 0x804000C3#32 = some (.dmovI ⟨3, 0x10⟩)
  ∧ decodeMicro 0x0009330A#32 = some (.dfma ⟨.i32, 4, 1, 3, 2⟩)
  ∧ decodeMicro 0x000C4018#32 = some (.dst ⟨true, 1, 0, 4⟩)

/-- R28, R33: a well-formed core instruction, encoded and decoded in a clause whose header has its set-flag and in a slot it
may stand in, with its literal in the slot after it, is itself. -/
def Obligations.CoreRoundTrip : Prop :=
  ∀ (i : Instr) (w lit : BitVec 64) (rest : List (BitVec 64)) (e : DecodeEnv), i.wf = true → encode i = w :: rest →
    (∀ k, i.view = some k → e.flagOk k.c.fsel = true) → e.slotOk i = true → (∀ l ∈ rest, lit = l) →
      decode e w lit = .ok i

/-- R320, R321: a well-formed micro-instruction, encoded and decoded, is itself. -/
def Obligations.MicroRoundTrip : Prop :=
  ∀ (i : Instr) (w : BitVec 32), i.wf = true → encodeMicro i = some w → decodeMicro w = some i

/-! ## The state (R140, R173, R343, R376, R386) -/

/-- Memory and every scratchpad keep their canonical form in every step. -/
def Obligations.StepKeepsInv : Prop := ∀ s t : State, s.Inv → step s = .next t → t.Inv

/-- After reset memory and scratchpads have their canonical form; the package block and the island's registers read as their
tables say (R376, R386), no drain slot is valid (R343), and no group, operation or packet is under way.
It rests on the model's readings of log entry 9. -/
def Obligations.ResetState : Prop :=
  State.reset.Inv
  ∧ State.reset.pkgRead 0x008 = 0x3FF#64 ∧ (∀ off ∈ [0x010, 0x018, 0x020, 0x030, 0x040, 0x048, 0x050, 0x058, 0x060, 0x090], State.reset.pkgRead off = 0#64)
  ∧ State.reset.pkgRead 0x028 = 5#64 ∧ State.reset.pkgRead 0x080 = 0x3FF#64 ∧ State.reset.pkgRead 0x088 = 1024#64
  ∧ State.reset.islRead 0x000 = 1#64 ∧ State.reset.islRead 0x008 = 2000#64 ∧ State.reset.islRead 0x028 = BitVec.twoPow 64 48
  ∧ (∀ off ∈ [0x010, 0x018, 0x020], State.reset.islRead off = 0#64) ∧ (∀ p, p < 32 → State.reset.islRead (0x040 + 8 * p) = 0#64)
  ∧ State.reset.mtx.slots = [] ∧ State.reset.groups = [] ∧ State.reset.ops = { mem := [], pts := [], remote := [], copies := [], colls := [] }
  ∧ State.reset.isl.inbox = [] ∧ State.reset.isl.outbox = []

/-! ## Numbers (R52, R301) -/

namespace Sys2Proof.Claims
open Sys2Proof.Machine

/-- The minimumNumber (`isMin`) or maximumNumber of two bit patterns of a format, with the flags it raises (R52). -/
def isNumber (f : Fmt) (isMin : Bool) (x y : Nat) (r : Nat × BitVec 5) : Prop :=
  ((f.unpack x).isNan = true → (f.unpack y).isNan = false → r.1 = y)
  ∧ ((f.unpack x).isNan = false → (f.unpack y).isNan = true → r.1 = x)
  ∧ ((f.unpack x).isNan = true → (f.unpack y).isNan = true → r.1 = f.qnan)
  ∧ ((f.unpack x).isNan = false → (f.unpack y).isNan = false →
      (r.1 = x ∨ r.1 = y)
      ∧ if isMin then ¬before (f.unpack x) (f.unpack r.1) ∧ ¬before (f.unpack y) (f.unpack r.1)
        else ¬before (f.unpack r.1) (f.unpack x) ∧ ¬before (f.unpack r.1) (f.unpack y))
  ∧ r.2 = (if (f.unpack x).isSnan ∨ (f.unpack y).isSnan then 16#5 else 0#5)

end Sys2Proof.Claims

/-- R52: FMIN and FMAX that nothing holds back write the IEEE minimumNumber and maximumNumber of each pair of elements of
the active threads, and add the invalid flag, which a signalling NaN alone raises, to the thread's FFLAGS. The operands are neither held,
nor read from the latch, nor read for the last time, so that no reading of the model's own enters; LaneFloatResult has those forms. -/
def Obligations.MinMaxNumber : Prop :=
  ∀ (x : FBin) (isMin : Bool), ∃ m : Nat → Nat → Nat × BitVec 5,
    (∀ a b, a < 2 ^ (fmtOf x.fmt).width → b < 2 ^ (fmtOf x.fmt).width → Claims.isNumber (fmtOf x.fmt) isMin a b (m a b))
    ∧ ∀ (s : State) (g : Group) (p : Split),
        let i := issueOf s g p (x.view false)
        let r (t : Nat) := Claims.elements x.fmt (fun e => m (e (i.val x.a x.fmt.regs t)) (e (i.src x.b x.fmt.regs t)))
        (x.c.hold = .none ∧ x.c.lrA = false ∧ x.c.lrB = false ∧ (∀ n, x.a ≠ .h n) ∧ ∀ n, x.b.reg? ≠ some (.h n)) →
        Issues s g p → Clear i (x.view false) → RoomFor i (x.view false) x.d x.fmt.regs →
          ∃ h, exec (if isMin then .fmin x else .fmax x) s = .next (goesOn s h (holding i (x.view false)) x.b.isLit) ∧ RestKept i h
            ∧ Lanes i (x.view false) x.d x.fmt.regs (fun t => (r t).1) h
            ∧ Threads i (fun t th => if i.act.getLsbD t then { th with fflags := th.fflags ||| (r t).2 } else th) h

/-- R301: a DS4 weight is the sign of bit 3 times 2^-k, zero where k is 7, and an integer once scaled by 2^6; of the two weights
that share a byte the lower-indexed one is in bits 3:0. -/
def Obligations.Ds4Weights : Prop :=
  (∀ b, b < 16 →
    (b % 8 = 7 → MatEl.ds4.int b = 0)
    ∧ (b % 8 ≠ 7 → b < 8 → MatEl.ds4.int b = 2 ^ (6 - b % 8)) ∧ (b % 8 ≠ 7 → 8 ≤ b → MatEl.ds4.int b = -2 ^ (6 - b % 8))
    ∧ MatEl.ds4.val b = .fin (decide (MatEl.ds4.int b < 0)) (MatEl.ds4.int b).natAbs (-6))
  ∧ ∀ image j : Nat,
      MatEl.ds4.at image (2 * j) = image / 256 ^ j % 256 % 16 ∧ MatEl.ds4.at image (2 * j + 1) = image / 256 ^ j % 256 / 16
end

