-- ==== Sys2Proof/Laws/Holds.lean ====
section
/-! SUPPORT. What holding a request back does (R375): nothing where no device is in want, else at most one entry of the list, and no
other state but the number the entry takes. -/

namespace Sys2Proof.Machine

@[simp] theorem heldBack_none (s : State) (k : HoldKey) : s.heldBack k none = none := rfl

/-- Where a request is held back, either it was held already and nothing changes, or its entry is added under the next number. -/
theorem heldBack_cases {s t : State} {k : HoldKey} {far : Option Nat} (h : s.heldBack k far = some t) :
    (t = s ∧ ∃ d, far = some d ∧ ∃ e ∈ s.isl.holds, e.key = k ∧ e.dev = d ∧ s.retryOver (some e.since) = false)
    ∨ ∃ d, far = some d ∧ (∀ e ∈ s.isl.holds, ¬(e.key = k ∧ e.dev = d))
        ∧ t = (s.freshId.2).setIsl { s.freshId.2.isl with holds := s.freshId.2.isl.holds ++ [⟨s.freshId.1, k, d, s.cycle, 0⟩] } := by
  unfold State.heldBack at h
  split at h
  · cases h
  · rename_i d
    split at h
    · rename_i e he
      have hk := List.find?_some he
      have hm := List.mem_of_find?_eq_some he
      simp only [Bool.and_eq_true, decide_eq_true_eq] at hk
      split at h
      · cases h
      · rename_i hr
        exact .inl ⟨(Option.some.inj h).symm, d, rfl, e, hm, hk.1, hk.2, by simpa using hr⟩
    · rename_i hn
      have hn := List.find?_eq_none.1 hn
      refine .inr ⟨d, rfl, fun e he hke => hn e he ?_, (Option.some.inj h).symm⟩
      simp [hke.1, hke.2]

/-- An event that needs no device out of reach goes on, with nothing held under its key. -/
@[simp] theorem afterHold_reached (s : State) (event : String) (k : HoldKey) (go : State → Result) :
    s.afterHold event k none go = go (s.unhold k) := rfl

/-- Nothing is held under a key that was let go. -/
theorem unhold_holds (s : State) (k : HoldKey) : ∀ e ∈ (s.unhold k).isl.holds, e.key ≠ k := by
  unfold State.unhold
  split
  · intro e he
    simpa using (List.mem_filter.1 he).2
  · rename_i hn
    intro e he hk
    exact hn (List.any_eq_true.2 ⟨e, he, by simpa using hk⟩)

/-- Letting go changes the list of what is held and nothing else. -/
theorem unhold_rest (s : State) (k : HoldKey) : s.unhold k = s.setIsl { s.isl with holds := (s.unhold k).isl.holds } := by
  unfold State.unhold
  split <;> rfl

/-- Where nothing is held under a key, letting it go changes nothing. -/
theorem unhold_free {s : State} {k : HoldKey} (h : ∀ e ∈ s.isl.holds, e.key ≠ k) : s.unhold k = s := by
  unfold State.unhold
  rw [if_neg]
  simpa using h

end Sys2Proof.Machine
end

