-- ==== Sys2Proof/Laws/Issue.lean ====
section
/-! SUPPORT. The issue of a core instruction, said once: what `runCore` answers for a split that runs alone, what comes
before an instruction's own effect when nothing holds it back, and where the split stands afterwards. -/

namespace Sys2Proof.Machine

variable {s : State} {g : Group} {p : Split}

@[simp] theorem putSplit_key (g : Group) (p : Split) : (g.putSplit p).key = g.key := rfl

/-- Of two changes of one split the later stands. -/
theorem putSplit_putSplit (g : Group) (p q : Split) (h : p.sid = q.sid) : (g.putSplit p).putSplit q = g.putSplit q := by
  simp only [Group.putSplit, List.map_map]
  congr 1
  apply List.map_congr_left
  intro a _
  simp only [Function.comp]
  by_cases ha : a.sid = p.sid
  · simp [ha, h]
  · have hq : a.sid ≠ q.sid := fun e => ha (e.trans h.symm)
    simp [ha, hq]

/-- `runCore` for a split that runs alone. -/
theorem runCore_alone (m : Meaning) (h : Issues s g p) :
    runCore m s = .next (m.settle s g.key p.sid (m.issue (issueOf s g p m.view))).clearCur := by
  simp [runCore, h.selected, h.alone, issueOf]

/-- Nothing stands before the effect of an instruction that nothing holds back but its last reads. -/
theorem prepare_clear (m : Meaning) (x : Iss) (hc : Clear x m.view m.data)
    (hn : m.nonIdem x = true → x.s0.unchecked x.k x.sid x.p0.region = false)
    (hd : x.any = true → x.g0.det = true → m.det x = false)
    (hs : m.ownStale = true ∨ x.any = false ∨ x.staleW m.view m.data = none) : m.prepare x = .ok (x.lastReads m.view) := by
  have h1 := hc.awaited
  have h2 := hc.entries
  have h4 : x.flagFull = false := by
    unfold Iss.flagFull
    cases hf : x.flag? with
    | none => rfl
    | some n => have := hc.room n hf; simp; omega
  have h5 : (m.nonIdem x && x.s0.unchecked x.k x.sid x.p0.region) = false := by
    cases h : m.nonIdem x
    · simp
    · simp [hn h]
  unfold Meaning.prepare
  simp only [h1, h2, h4, h5, Bool.false_eq_true, if_false]
  cases ha : x.any
  · simp
  · have h3 := hc.latch ha
    have h6 : (x.g0.det && m.det x) = false := by
      cases h : x.g0.det
      · simp
      · simp [hd ha h]
    have h8 : (if m.ownStale = true then none else x.staleW m.view m.data) = none := by
      rcases hs with h | h | h
      · simp [h]
      · simp [ha] at h
      · simp [h]
    simp [h3, h6, h8]

/-- The form most instructions have: idempotent, and the same in deterministic mode. -/
theorem prepare_plain (m : Meaning) (x : Iss) (hc : Clear x m.view m.data) (hn : m.nonIdem = fun _ => false) (hd : m.det = fun _ => false) :
    m.prepare x = .ok (x.lastReads m.view) := by
  apply prepare_clear m x hc
  · simp [hn]
  · simp [hd]
  · cases ha : x.any
    · simp
    · exact .inr (.inr (hc.shared ha))

/-- An effect that goes on in order, its region as before. -/
theorem finish_seq (m : Meaning) (y : Iss) (hf : y.flow = .seq) (hu : y.flagUp = false) (hk : y.g.key = y.g0.key)
    (hi : y.p.sid = y.p0.sid) (hh : y.p.header = y.p0.header) (hs : y.p.slot = y.p0.slot) (hn : m.nonIdem y = false) :
    (m.finish y).clearCur = goesOn y.s (counted y y.g) (y.p.pushLatch (y.held m.view)) m.lit := by
  have e : ∀ q : Split, y.p.sid = q.sid → ((y.g.issued y.s0.cycle y.sid).putSplit (y.p.pushLatch (y.held m.view))).putSplit q
      = (y.g.issued y.s0.cycle y.sid).putSplit q := fun q h => putSplit_putSplit _ _ _ h
  have ey : ∀ q : Split, y.p.sid = q.sid → (((y.g.issued y.s0.cycle y.sid).putSplit (y.p.pushLatch (y.held m.view))).yields y.p0.header).putSplit q
      = ((y.g.issued y.s0.cycle y.sid).yields y.p0.header).putSplit q := by
    intro q h
    have := e q h
    unfold Group.yields
    exact congrArg (fun g : Group => { g with yieldHint := y.g.yieldHint || y.p0.header.getLsbD 24 }) this
  have hr : { y.p.pushLatch (y.held m.view) with region := y.p.region } = y.p.pushLatch (y.held m.view) := rfl
  have hk' : y.k = (counted y y.g).key := hk.symm
  have hi' : y.sid = (y.p.pushLatch (y.held m.view)).sid := hi.symm
  have hc : y.p0.count = (y.p.pushLatch (y.held m.view)).count := by simp [Split.count, Split.pushLatch, hh]
  have hs' : y.p0.slot = (y.p.pushLatch (y.held m.view)).slot := hs.symm
  have hh' : y.p0.header = (y.p.pushLatch (y.held m.view)).header := hh.symm
  unfold Meaning.finish
  simp only [hf, hu, hn, Bool.false_and, Bool.false_eq_true, if_false, hr]
  rw [e, ey, hc, hs', hk', hh']
  · unfold goesOn
    rw [← hi']
    rfl
  all_goals rfl

/-- An instruction of the plain form with an effect that goes on in order. -/
theorem runCore_seq (m : Meaning) (h : Issues s g p) (hc : Clear (issueOf s g p m.view) m.view m.data)
    (hn : m.nonIdem = fun _ => false) (hd : m.det = fun _ => false) {y : Iss}
    (hb : m.body ((issueOf s g p m.view).lastReads m.view) = .ok y)
    (hf : y.flow = .seq) (hu : y.flagUp = false) (hk : y.g.key = y.g0.key) (hi : y.p.sid = y.p0.sid) (hh : y.p.header = y.p0.header)
    (hs : y.p.slot = y.p0.slot) :
    runCore m s = .next (goesOn y.s (counted y y.g) (y.p.pushLatch (y.held m.view)) m.lit) := by
  rw [runCore_alone m h]
  have hp := prepare_plain m _ hc hn hd
  simp only [Meaning.issue, hp, Act.andThen, hb, Meaning.settle]
  rw [finish_seq m y hf hu hk hi hh hs (by simp [hn])]

end Sys2Proof.Machine
end

