-- ==== Sys2Proof/Laws/Lanes.lean ====
section
/-! SUPPORT. v registers: what a last read, a mapping and a write of lanes leave of them (R24, R111, R113), each said
once. -/

namespace Sys2Proof.Machine

/-- Only the entries of the v registers, and their numbering, differ. -/
def OnlyV (g h : Group) : Prop := h = { g with v := h.v, seq := h.seq }

theorem OnlyV.refl (g : Group) : OnlyV g g := rfl
theorem OnlyV.trans {a b c : Group} (h : OnlyV a b) (k : OnlyV b c) : OnlyV a c := by
  unfold OnlyV at *
  rw [k, h]

/-! ## Finding an entry -/

/-- An entry is found by its name, octet and pending state alone. -/
theorem vEnt?_map (l : List VEnt) (f : VEnt → VEnt) (n o : Nat)
    (hf : ∀ e, (f e).name = e.name ∧ (f e).octet = e.octet ∧ (f e).pend = e.pend) :
    (l.map f).find? (fun e => e.name = n && e.octet = o && e.pend.isEmpty)
      = (l.find? (fun e => e.name = n && e.octet = o && e.pend.isEmpty)).map f := by
  rw [List.find?_map]
  congr 2
  funext e
  simp [Function.comp, (hf e).1, (hf e).2.1, (hf e).2.2]

/-! ## Last reads -/

theorem lastRead_only (g : Group) (p : Split) (name o : Nat) : OnlyV g (g.lastRead p name o) := by
  unfold Group.lastRead OnlyV
  split <;> try rfl
  split <;> try rfl
  split <;> try rfl
  split <;> rfl

theorem find_filter_of_imp {α : Type} (l : List α) (p q : α → Bool) (h : ∀ a, q a = true → p a = true) :
    (l.filter p).find? q = l.find? q := by
  induction l with
  | nil => rfl
  | cons a l ih =>
    by_cases hp : p a = true
    · simp only [List.filter_cons, hp, if_true, List.find?_cons, ih]
    · have hq : q a = false := by
        cases hq : q a
        · rfl
        · exact absurd (h a hq) hp
      rw [List.filter_cons, if_neg hp, List.find?_cons, hq]
      exact ih

theorem find_map_of_fix {α : Type} (l : List α) (f : α → α) (q : α → Bool) (h1 : ∀ a, q a = true → f a = a)
    (h2 : ∀ a, q a = false → q (f a) = false) : (l.map f).find? q = l.find? q := by
  induction l with
  | nil => rfl
  | cons a l ih =>
    simp only [List.map_cons, List.find?_cons, ih]
    cases hq : q a
    · rw [h2 a hq]
    · rw [h1 a hq, hq]

theorem lastRead_ent (g : Group) (p : Split) (name o n o' : Nat) (hn : n ≠ name) :
    (g.lastRead p name o).vEnt? n o' = g.vEnt? n o' := by
  have other : ∀ a : VEnt, (decide (a.name = n) && decide (a.octet = o') && a.pend.isEmpty) = true →
      (decide (a.name = name) && decide (a.octet = o) && a.pend.isEmpty) = false := by
    intro a ha
    simp only [Bool.and_eq_true, decide_eq_true_eq] at ha
    simp only [Bool.and_eq_false_iff, decide_eq_false_iff_not]
    exact .inl (.inl (fun e => hn (ha.1.1.symm.trans e)))
  unfold Group.lastRead
  split
  · split
    · rfl
    · split
      · rfl
      split
      · exact find_filter_of_imp _ _ _ (fun a ha => by rw [other a ha]; rfl)
      · apply find_map_of_fix
        · intro a ha
          simp only [other a ha, Bool.false_eq_true, if_false]
        · intro a ha
          split
          · simp
          · exact ha
  · rfl

theorem lastReads_only (g : Group) (p : Split) (names : List Nat) : OnlyV g (g.lastReads p names) := by
  unfold Group.lastReads
  generalize names.flatMap (fun n => (List.range (g.f / 8)).map (fun o => (n, o))) = l
  induction l generalizing g with
  | nil => rfl
  | cons a l ih => exact (lastRead_only g p a.1 a.2).trans (ih _)

theorem lastReads_ent (g : Group) (p : Split) (names : List Nat) (n o : Nat) (hn : n ∉ names) :
    (g.lastReads p names).vEnt? n o = g.vEnt? n o := by
  unfold Group.lastReads
  have key : ∀ (l : List (Nat × Nat)) (g : Group), (∀ q ∈ l, n ≠ q.1) →
      (l.foldl (fun g q => g.lastRead p q.1 q.2) g).vEnt? n o = g.vEnt? n o := by
    intro l
    induction l with
    | nil => intros; rfl
    | cons a l ih =>
      intro g h
      rw [List.foldl_cons, ih _ (fun q hq => h q (List.mem_cons_of_mem _ hq)), lastRead_ent _ _ _ _ _ _ (h a List.mem_cons_self)]
  apply key
  intro q hq
  simp only [List.mem_flatMap, List.mem_map] at hq
  obtain ⟨m, hm, o', -, rfl⟩ := hq
  exact fun e => hn (e ▸ hm)

/-! ## Mapping -/

theorem mapV_only {s : State} {g h : Group} {name o : Nat} (hm : s.mapV g name o = some h) : OnlyV g h := by
  unfold State.mapV at hm
  split at hm
  · cases hm; rfl
  · split at hm
    · cases hm
    · cases hm; rfl

/-- A mapped name reads as before; one that was not mapped reads 0 (R111). -/
theorem mapV_word {s : State} {g h : Group} {name o : Nat} (hm : s.mapV g name o = some h) (n t : Nat) : h.vWord n t = g.vWord n t := by
  unfold State.mapV at hm
  split at hm
  · cases hm; rfl
  · next hnone =>
    split at hm
    · cases hm
    · cases hm
      unfold Group.vWord Group.vEnt?
      simp only [List.find?_cons]
      by_cases hc : name = n ∧ o = t / 8
      · obtain ⟨rfl, rfl⟩ := hc
        unfold Group.vEnt? at hnone
        have h8 : t % 8 < 8 := Nat.mod_lt _ (by decide)
        have h0 : (List.replicate 8 (0 : Word32)).getD (t % 8) 0 = 0 := by
          rw [List.getD_eq_getElem?_getD, List.getElem?_replicate, if_pos h8]
          rfl
        simp only [hnone, decide_true, List.isEmpty_nil, Bool.and_self]
        exact h0
      · have : (decide (name = n) && decide (o = t / 8) && ([] : List Nat).isEmpty) = false := by
          simp only [List.isEmpty_nil, Bool.and_true, Bool.and_eq_false_iff, decide_eq_false_iff_not]
          by_cases h1 : name = n
          · exact .inr (fun h2 => hc ⟨h1, h2⟩)
          · exact .inl h1
        simp only [this]

theorem mapV_keeps {s : State} {g h : Group} {name o n o' : Nat} (hm : s.mapV g name o = some h) (hs : (g.vEnt? n o').isSome = true) :
    (h.vEnt? n o').isSome = true := by
  unfold State.mapV at hm
  split at hm
  · cases hm; exact hs
  · split at hm
    · cases hm
    · cases hm
      unfold Group.vEnt? at *
      simp only [List.find?_cons]
      split
      · rfl
      · exact hs

theorem mapV_there {s : State} {g h : Group} {name o : Nat} (hm : s.mapV g name o = some h) : (h.vEnt? name o).isSome = true := by
  unfold State.mapV at hm
  split at hm
  · next he => cases hm; simp [he]
  · split at hm
    · cases hm
    · cases hm
      simp [Group.vEnt?]

/-- What mapping several names for several octets leaves. -/
theorem mapVs_spec {s : State} {g h : Group} {names octs : List Nat} (hm : s.mapVs g names octs = some h) :
    OnlyV g h ∧ (∀ n t, h.vWord n t = g.vWord n t) ∧ (∀ n ∈ names, ∀ o ∈ octs, (h.vEnt? n o).isSome = true) := by
  unfold State.mapVs at hm
  have key : ∀ (l : List (Nat × Nat)) (g : Group), l.foldlM (fun g (q : Nat × Nat) => s.mapV g q.1 q.2) g = some h →
      OnlyV g h ∧ (∀ n t, h.vWord n t = g.vWord n t) ∧ (∀ n o, (g.vEnt? n o).isSome = true → (h.vEnt? n o).isSome = true) ∧
        ∀ q ∈ l, (h.vEnt? q.1 q.2).isSome = true := by
    intro l
    induction l with
    | nil => intro g hm; cases hm; exact ⟨rfl, fun _ _ => rfl, fun _ _ h => h, fun _ h => by cases h⟩
    | cons a l ih =>
      intro g hm
      rw [List.foldlM_cons] at hm
      cases h1 : s.mapV g a.1 a.2 with
      | none => simp [h1] at hm
      | some g1 =>
        rw [h1] at hm
        obtain ⟨i1, i2, i3, i4⟩ := ih g1 hm
        refine ⟨(mapV_only h1).trans i1, fun n t => (i2 n t).trans (mapV_word h1 n t), fun n o ho => i3 n o (mapV_keeps h1 ho), ?_⟩
        intro q hq
        cases hq with
        | head => exact i3 _ _ (mapV_there h1)
        | tail _ hq => exact i4 q hq
  obtain ⟨k1, k2, -, k4⟩ := key _ g hm
  refine ⟨k1, k2, fun n hn o ho => k4 (n, o) ?_⟩
  simp only [List.mem_flatMap, List.mem_map]
  exact ⟨n, hn, o, ho, rfl⟩

/-! ## Writing lanes -/

theorem writeLanes_only (g : Group) (name regs : Nat) (act : Mask) (f : Nat → Word64) : OnlyV g (g.writeLanes name regs act f) := rfl

theorem div_add_mod8 (t : Nat) : 8 * (t / 8) + t % 8 = t := Nat.div_add_mod t 8

theorem writeLanes_word (g : Group) (name regs : Nat) (act : Mask) (f : Nat → Word64) (n t : Nat) :
    (g.writeLanes name regs act f).vWord n t
      = if name ≤ n ∧ n < name + regs ∧ act.getLsbD t = true ∧ (g.vEnt? n (t / 8)).isSome = true then (f t >>> (32 * (n - name))).setWidth 32
        else g.vWord n t := by
  have h8 : t % 8 < 8 := Nat.mod_lt _ (by decide)
  unfold Group.vWord Group.vEnt? Group.writeLanes
  rw [vEnt?_map]
  · cases he : g.v.find? (fun e => e.name = n && e.octet = t / 8 && e.pend.isEmpty) with
    | none => simp
    | some e =>
      have hp := List.find?_some he
      simp only [Bool.and_eq_true, decide_eq_true_eq] at hp
      obtain ⟨⟨h1, h2⟩, h3⟩ := hp
      simp only [Option.map_some, Option.isSome_some]
      by_cases hr : name ≤ n ∧ n < name + regs
      · have hc : (e.pend.isEmpty && decide (name ≤ e.name) && decide (e.name < name + regs)) = true := by simp [h1, h3, hr.1, hr.2]
        rw [if_pos hc]
        simp only [List.getD_eq_getElem?_getD, List.getElem?_map, List.getElem?_range h8, Option.map_some, Option.getD_some, h1, h2,
          div_add_mod8]
        by_cases ha : act.getLsbD t = true
        · rw [if_pos ha, if_pos ⟨hr.1, hr.2, ha, trivial⟩]
        · rw [if_neg ha, if_neg (fun h => ha h.2.2.1)]
      · have hc : ¬(e.pend.isEmpty && decide (name ≤ e.name) && decide (e.name < name + regs)) = true := by
          rw [h1, h3]
          simp only [Bool.true_and, Bool.and_eq_true, decide_eq_true_eq]
          exact hr
        rw [if_neg hc, if_neg (fun h => hr ⟨h.1, h.2.1⟩)]
  · intro e
    split <;> simp

/-! ## Masks -/

/-- A mask holds the threads below its bound that its test accepts. -/
theorem getLsbD_maskOf (n : Nat) (f : Nat → Bool) (t : Nat) :
    (maskOf n f).getLsbD t = (decide (t < n) && decide (t < 512) && f t) := by
  induction n with
  | zero => simp [maskOf]
  | succ n ih =>
    rw [maskOf, BitVec.getLsbD_or, ih]
    by_cases hn : t = n
    · subst hn
      cases hf : f t <;> simp [BitVec.getLsbD_twoPow]
    · by_cases hlt : t < n
      · have h1 : t < n + 1 := by omega
        cases hf : f n <;> simp [BitVec.getLsbD_twoPow, hlt, h1, Ne.symm hn]
      · have h1 : ¬ t < n + 1 := by omega
        cases hf : f n <;> simp [BitVec.getLsbD_twoPow, hlt, h1, Ne.symm hn]

/-- An active thread is a thread of the group. -/
theorem active_lt {g : Group} {p : Split} {c : Ctl} {t : Nat} (h : (g.activeMask p c).getLsbD t = true) : t < g.f := by
  rw [Group.activeMask, getLsbD_maskOf] at h
  simp only [Bool.and_eq_true, decide_eq_true_eq] at h
  exact h.1.1

/-- The octet of a mask's thread is among the octets. -/
theorem octet_mem {g : Group} {m : Mask} {t : Nat} (hf : t < g.f) (h : m.getLsbD t = true) : t / 8 ∈ g.octets m := by
  unfold Group.octets
  simp only [List.mem_filter, List.mem_range, List.any_eq_true]
  refine ⟨by omega, t % 8, Nat.mod_lt _ (by decide), ?_⟩
  rw [div_add_mod8]
  exact h

/-! ## A result in the lanes -/

theorem names_mem {n name regs : Nat} : n ∈ namesFrom name regs ↔ name ≤ n ∧ n < name + regs := by
  unfold namesFrom
  simp only [List.mem_map, List.mem_range]
  constructor
  · rintro ⟨a, ha, rfl⟩; omega
  · intro h; exact ⟨n - name, by omega, by omega⟩

/-- Last reads change only v registers, those read for the last time. -/
theorem lastReads_spec (x : Iss) (w : View) :
    ((x.lastReads w) = { x with g := (x.lastReads w).g }) ∧ OnlyV x.g (x.lastReads w).g ∧
      ∀ n o, n ∉ lastNames w → (x.lastReads w).g.vEnt? n o = x.g.vEnt? n o := by
  unfold Iss.lastReads
  · refine ⟨rfl, ?_⟩
    simp only [lastNames]
    generalize w.sources = l
    generalize x.g = g
    induction l generalizing g with
    | nil => exact ⟨rfl, fun _ _ _ => rfl⟩
    | cons a l ih =>
      simp only [List.foldl_cons, List.flatMap_cons, List.mem_append, not_or]
      obtain ⟨pos, o, k⟩ := a
      cases o with
      | v i =>
        by_cases hl : (if pos = 1 then w.c.lrA else if pos = 2 then w.c.lrB else w.c.lrC) = true
        · simp only [hl, if_true]
          obtain ⟨h1, h2⟩ := ih (g.lastReads x.p0 (namesFrom i.toNat k))
          exact ⟨(lastReads_only _ _ _).trans h1, fun n o hn => (h2 n o hn.2).trans (lastReads_ent _ _ _ _ _ hn.1)⟩
        · simp only [hl]
          obtain ⟨h1, h2⟩ := ih g
          exact ⟨h1, fun n o hn => h2 n o hn.2⟩
      | _ =>
        obtain ⟨h1, h2⟩ := ih g
        exact ⟨h1, fun n o hn => h2 n o hn.2⟩

theorem vWord_of_ent {g h : Group} {n t : Nat} (e : h.vEnt? n (t / 8) = g.vEnt? n (t / 8)) : h.vWord n t = g.vWord n t := by
  unfold Group.vWord; rw [e]

/-- The write of one value for each active thread after the last reads (R111). -/
theorem writeV_spec {s : State} {g : Group} {p : Split} {w : View} {d : Opnd} {regs : Nat} (hr : RoomFor (issueOf s g p w) w d regs)
    (h12 : regs = 1 ∨ regs = 2) (f : Nat → Word64) :
    ∃ h, ((issueOf s g p w).lastReads w).writeV d regs f = .ok { issueOf s g p w with g := h } ∧ OnlyV g h
      ∧ Lanes (issueOf s g p w) w d regs f h := by
  have hl := lastReads_spec (issueOf s g p w) w
  obtain ⟨e0, o0, k0⟩ := hl
  unfold RoomFor at hr
  obtain ⟨g1, hg1⟩ := Option.isSome_iff_exists.mp hr
  obtain ⟨o1, w1, t1⟩ := mapVs_spec hg1
  refine ⟨g1.writeLanes d.num regs (issueOf s g p w).act f, ?_, (o0.trans o1).trans (writeLanes_only _ _ _ _ _), ?_, ?_⟩
  · unfold Iss.writeV Iss.allocV
    have hs : ((issueOf s g p w).lastReads w).s = (issueOf s g p w).s0 := by rw [e0]; rfl
    have ho : ((issueOf s g p w).lastReads w).octs = (issueOf s g p w).octs := by rw [e0]; rfl
    rw [hs, ho, hg1, e0]
    rfl
  · intro t ht
    have hlt : t < g.f := active_lt ht
    have hoct : t / 8 ∈ (issueOf s g p w).octs := octet_mem hlt ht
    have rd : ∀ n, n ∈ namesFrom d.num regs → (g1.writeLanes d.num regs (issueOf s g p w).act f).vWord n t = (f t >>> (32 * (n - d.num))).setWidth 32 := by
      intro n hn
      rw [writeLanes_word, if_pos ⟨(names_mem.mp hn).1, (names_mem.mp hn).2, ht, t1 n hn _ hoct⟩]
    unfold Group.vVal
    rcases h12 with rfl | rfl
    · rw [if_pos rfl, if_pos rfl, rd d.num (names_mem.mpr (by omega))]
      simp
    · rw [if_neg (by decide), if_neg (by decide), rd d.num (names_mem.mpr (by omega)), rd (d.num + 1) (names_mem.mpr (by omega))]
      apply BitVec.eq_of_getLsbD_eq
      intro i hi
      simp only [BitVec.getLsbD_append, BitVec.getLsbD_setWidth, BitVec.getLsbD_ushiftRight]
      by_cases h : i < 32
      · simp [h]
      · have : 32 + (i - 32) = i := by omega
        have h2 : i - 32 < 32 := by omega
        simp [h, this, h2]
  · intro name t hn hlast
    rw [writeLanes_word]
    have hno : ¬(d.num ≤ name ∧ name < d.num + regs ∧ (issueOf s g p w).act.getLsbD t = true ∧ (g1.vEnt? name (t / 8)).isSome = true) := by
      intro h
      have := hn (names_mem.mpr ⟨h.1, h.2.1⟩)
      rw [h.2.2.1] at this
      cases this
    rw [if_neg hno, w1]
    exact vWord_of_ent (k0 name (t / 8) hlast)

end Sys2Proof.Machine
end

