-- ==== Sys2Proof/Laws/State.lean ====
section
/-! SUPPORT. The fields of the state after each named update, and what a lookup finds after one. -/

namespace Sys2Proof.Machine

/-! ## Fields -/

@[simp] theorem State.setMem_sched (s : State) (m : Mem) : (s.setMem m).sched = s.sched := rfl
@[simp] theorem State.setMem_cycle (s : State) (m : Mem) : (s.setMem m).cycle = s.cycle := rfl
@[simp] theorem State.setMem_born (s : State) (m : Mem) : (s.setMem m).born = s.born := rfl
@[simp] theorem State.setMem_groups (s : State) (m : Mem) : (s.setMem m).groups = s.groups := rfl
@[simp] theorem State.setMem_teams (s : State) (m : Mem) : (s.setMem m).teams = s.teams := rfl
@[simp] theorem State.setMem_launches (s : State) (m : Mem) : (s.setMem m).launches = s.launches := rfl
@[simp] theorem State.setMem_ctxs (s : State) (m : Mem) : (s.setMem m).ctxs = s.ctxs := rfl
@[simp] theorem State.setMem_past (s : State) (m : Mem) : (s.setMem m).past = s.past := rfl
@[simp] theorem State.setMem_mem (s : State) (m : Mem) : (s.setMem m).mem = m := rfl
@[simp] theorem State.setMem_ops (s : State) (m : Mem) : (s.setMem m).ops = s.ops := rfl
@[simp] theorem State.setMem_mtx (s : State) (m : Mem) : (s.setMem m).mtx = s.mtx := rfl
@[simp] theorem State.setMem_isl (s : State) (m : Mem) : (s.setMem m).isl = s.isl := rfl
@[simp] theorem State.setMem_pkg (s : State) (m : Mem) : (s.setMem m).pkg = s.pkg := rfl
@[simp] theorem State.setMem_saved (s : State) (m : Mem) : (s.setMem m).saved = s.saved := rfl
@[simp] theorem State.setMem_savedTeams (s : State) (m : Mem) : (s.setMem m).savedTeams = s.savedTeams := rfl
@[simp] theorem State.setMem_reply (s : State) (m : Mem) : (s.setMem m).reply = s.reply := rfl

@[simp] theorem State.setOps_sched (s : State) (o : Ops) : (s.setOps o).sched = s.sched := rfl
@[simp] theorem State.setOps_cycle (s : State) (o : Ops) : (s.setOps o).cycle = s.cycle := rfl
@[simp] theorem State.setOps_born (s : State) (o : Ops) : (s.setOps o).born = s.born := rfl
@[simp] theorem State.setOps_groups (s : State) (o : Ops) : (s.setOps o).groups = s.groups := rfl
@[simp] theorem State.setOps_teams (s : State) (o : Ops) : (s.setOps o).teams = s.teams := rfl
@[simp] theorem State.setOps_launches (s : State) (o : Ops) : (s.setOps o).launches = s.launches := rfl
@[simp] theorem State.setOps_ctxs (s : State) (o : Ops) : (s.setOps o).ctxs = s.ctxs := rfl
@[simp] theorem State.setOps_past (s : State) (o : Ops) : (s.setOps o).past = s.past := rfl
@[simp] theorem State.setOps_mem (s : State) (o : Ops) : (s.setOps o).mem = s.mem := rfl
@[simp] theorem State.setOps_ops (s : State) (o : Ops) : (s.setOps o).ops = o := rfl
@[simp] theorem State.setOps_mtx (s : State) (o : Ops) : (s.setOps o).mtx = s.mtx := rfl
@[simp] theorem State.setOps_isl (s : State) (o : Ops) : (s.setOps o).isl = s.isl := rfl
@[simp] theorem State.setOps_pkg (s : State) (o : Ops) : (s.setOps o).pkg = s.pkg := rfl
@[simp] theorem State.setOps_saved (s : State) (o : Ops) : (s.setOps o).saved = s.saved := rfl
@[simp] theorem State.setOps_savedTeams (s : State) (o : Ops) : (s.setOps o).savedTeams = s.savedTeams := rfl
@[simp] theorem State.setOps_reply (s : State) (o : Ops) : (s.setOps o).reply = s.reply := rfl

@[simp] theorem State.setMtx_sched (s : State) (m : Matrix) : (s.setMtx m).sched = s.sched := rfl
@[simp] theorem State.setMtx_cycle (s : State) (m : Matrix) : (s.setMtx m).cycle = s.cycle := rfl
@[simp] theorem State.setMtx_born (s : State) (m : Matrix) : (s.setMtx m).born = s.born := rfl
@[simp] theorem State.setMtx_groups (s : State) (m : Matrix) : (s.setMtx m).groups = s.groups := rfl
@[simp] theorem State.setMtx_teams (s : State) (m : Matrix) : (s.setMtx m).teams = s.teams := rfl
@[simp] theorem State.setMtx_launches (s : State) (m : Matrix) : (s.setMtx m).launches = s.launches := rfl
@[simp] theorem State.setMtx_ctxs (s : State) (m : Matrix) : (s.setMtx m).ctxs = s.ctxs := rfl
@[simp] theorem State.setMtx_past (s : State) (m : Matrix) : (s.setMtx m).past = s.past := rfl
@[simp] theorem State.setMtx_mem (s : State) (m : Matrix) : (s.setMtx m).mem = s.mem := rfl
@[simp] theorem State.setMtx_ops (s : State) (m : Matrix) : (s.setMtx m).ops = s.ops := rfl
@[simp] theorem State.setMtx_mtx (s : State) (m : Matrix) : (s.setMtx m).mtx = m := rfl
@[simp] theorem State.setMtx_isl (s : State) (m : Matrix) : (s.setMtx m).isl = s.isl := rfl
@[simp] theorem State.setMtx_pkg (s : State) (m : Matrix) : (s.setMtx m).pkg = s.pkg := rfl
@[simp] theorem State.setMtx_saved (s : State) (m : Matrix) : (s.setMtx m).saved = s.saved := rfl
@[simp] theorem State.setMtx_savedTeams (s : State) (m : Matrix) : (s.setMtx m).savedTeams = s.savedTeams := rfl
@[simp] theorem State.setMtx_reply (s : State) (m : Matrix) : (s.setMtx m).reply = s.reply := rfl

@[simp] theorem State.setIsl_sched (s : State) (i : Island) : (s.setIsl i).sched = s.sched := rfl
@[simp] theorem State.setIsl_cycle (s : State) (i : Island) : (s.setIsl i).cycle = s.cycle := rfl
@[simp] theorem State.setIsl_born (s : State) (i : Island) : (s.setIsl i).born = s.born := rfl
@[simp] theorem State.setIsl_groups (s : State) (i : Island) : (s.setIsl i).groups = s.groups := rfl
@[simp] theorem State.setIsl_teams (s : State) (i : Island) : (s.setIsl i).teams = s.teams := rfl
@[simp] theorem State.setIsl_launches (s : State) (i : Island) : (s.setIsl i).launches = s.launches := rfl
@[simp] theorem State.setIsl_ctxs (s : State) (i : Island) : (s.setIsl i).ctxs = s.ctxs := rfl
@[simp] theorem State.setIsl_past (s : State) (i : Island) : (s.setIsl i).past = s.past := rfl
@[simp] theorem State.setIsl_mem (s : State) (i : Island) : (s.setIsl i).mem = s.mem := rfl
@[simp] theorem State.setIsl_ops (s : State) (i : Island) : (s.setIsl i).ops = s.ops := rfl
@[simp] theorem State.setIsl_mtx (s : State) (i : Island) : (s.setIsl i).mtx = s.mtx := rfl
@[simp] theorem State.setIsl_isl (s : State) (i : Island) : (s.setIsl i).isl = i := rfl
@[simp] theorem State.setIsl_pkg (s : State) (i : Island) : (s.setIsl i).pkg = s.pkg := rfl
@[simp] theorem State.setIsl_saved (s : State) (i : Island) : (s.setIsl i).saved = s.saved := rfl
@[simp] theorem State.setIsl_savedTeams (s : State) (i : Island) : (s.setIsl i).savedTeams = s.savedTeams := rfl
@[simp] theorem State.setIsl_reply (s : State) (i : Island) : (s.setIsl i).reply = s.reply := rfl

@[simp] theorem State.setPkg_sched (s : State) (p : Package) : (s.setPkg p).sched = s.sched := rfl
@[simp] theorem State.setPkg_cycle (s : State) (p : Package) : (s.setPkg p).cycle = s.cycle := rfl
@[simp] theorem State.setPkg_born (s : State) (p : Package) : (s.setPkg p).born = s.born := rfl
@[simp] theorem State.setPkg_groups (s : State) (p : Package) : (s.setPkg p).groups = s.groups := rfl
@[simp] theorem State.setPkg_teams (s : State) (p : Package) : (s.setPkg p).teams = s.teams := rfl
@[simp] theorem State.setPkg_launches (s : State) (p : Package) : (s.setPkg p).launches = s.launches := rfl
@[simp] theorem State.setPkg_ctxs (s : State) (p : Package) : (s.setPkg p).ctxs = s.ctxs := rfl
@[simp] theorem State.setPkg_past (s : State) (p : Package) : (s.setPkg p).past = s.past := rfl
@[simp] theorem State.setPkg_mem (s : State) (p : Package) : (s.setPkg p).mem = s.mem := rfl
@[simp] theorem State.setPkg_ops (s : State) (p : Package) : (s.setPkg p).ops = s.ops := rfl
@[simp] theorem State.setPkg_mtx (s : State) (p : Package) : (s.setPkg p).mtx = s.mtx := rfl
@[simp] theorem State.setPkg_isl (s : State) (p : Package) : (s.setPkg p).isl = s.isl := rfl
@[simp] theorem State.setPkg_pkg (s : State) (p : Package) : (s.setPkg p).pkg = p := rfl
@[simp] theorem State.setPkg_saved (s : State) (p : Package) : (s.setPkg p).saved = s.saved := rfl
@[simp] theorem State.setPkg_savedTeams (s : State) (p : Package) : (s.setPkg p).savedTeams = s.savedTeams := rfl
@[simp] theorem State.setPkg_reply (s : State) (p : Package) : (s.setPkg p).reply = s.reply := rfl

@[simp] theorem State.setSched_sched (s : State) (c : Sched) : (s.setSched c).sched = c := rfl
@[simp] theorem State.setSched_cycle (s : State) (c : Sched) : (s.setSched c).cycle = s.cycle := rfl
@[simp] theorem State.setSched_born (s : State) (c : Sched) : (s.setSched c).born = s.born := rfl
@[simp] theorem State.setSched_groups (s : State) (c : Sched) : (s.setSched c).groups = s.groups := rfl
@[simp] theorem State.setSched_teams (s : State) (c : Sched) : (s.setSched c).teams = s.teams := rfl
@[simp] theorem State.setSched_launches (s : State) (c : Sched) : (s.setSched c).launches = s.launches := rfl
@[simp] theorem State.setSched_ctxs (s : State) (c : Sched) : (s.setSched c).ctxs = s.ctxs := rfl
@[simp] theorem State.setSched_past (s : State) (c : Sched) : (s.setSched c).past = s.past := rfl
@[simp] theorem State.setSched_mem (s : State) (c : Sched) : (s.setSched c).mem = s.mem := rfl
@[simp] theorem State.setSched_ops (s : State) (c : Sched) : (s.setSched c).ops = s.ops := rfl
@[simp] theorem State.setSched_mtx (s : State) (c : Sched) : (s.setSched c).mtx = s.mtx := rfl
@[simp] theorem State.setSched_isl (s : State) (c : Sched) : (s.setSched c).isl = s.isl := rfl
@[simp] theorem State.setSched_pkg (s : State) (c : Sched) : (s.setSched c).pkg = s.pkg := rfl
@[simp] theorem State.setSched_saved (s : State) (c : Sched) : (s.setSched c).saved = s.saved := rfl
@[simp] theorem State.setSched_savedTeams (s : State) (c : Sched) : (s.setSched c).savedTeams = s.savedTeams := rfl
@[simp] theorem State.setSched_reply (s : State) (c : Sched) : (s.setSched c).reply = s.reply := rfl

@[simp] theorem State.putGroup_sched (s : State) (g : Group) : (s.putGroup g).sched = s.sched := rfl
@[simp] theorem State.putGroup_cycle (s : State) (g : Group) : (s.putGroup g).cycle = s.cycle := rfl
@[simp] theorem State.putGroup_born (s : State) (g : Group) : (s.putGroup g).born = s.born := rfl
@[simp] theorem State.putGroup_teams (s : State) (g : Group) : (s.putGroup g).teams = s.teams := rfl
@[simp] theorem State.putGroup_launches (s : State) (g : Group) : (s.putGroup g).launches = s.launches := rfl
@[simp] theorem State.putGroup_ctxs (s : State) (g : Group) : (s.putGroup g).ctxs = s.ctxs := rfl
@[simp] theorem State.putGroup_past (s : State) (g : Group) : (s.putGroup g).past = s.past := rfl
@[simp] theorem State.putGroup_mem (s : State) (g : Group) : (s.putGroup g).mem = s.mem := rfl
@[simp] theorem State.putGroup_ops (s : State) (g : Group) : (s.putGroup g).ops = s.ops := rfl
@[simp] theorem State.putGroup_mtx (s : State) (g : Group) : (s.putGroup g).mtx = s.mtx := rfl
@[simp] theorem State.putGroup_isl (s : State) (g : Group) : (s.putGroup g).isl = s.isl := rfl
@[simp] theorem State.putGroup_pkg (s : State) (g : Group) : (s.putGroup g).pkg = s.pkg := rfl
@[simp] theorem State.putGroup_saved (s : State) (g : Group) : (s.putGroup g).saved = s.saved := rfl
@[simp] theorem State.putGroup_savedTeams (s : State) (g : Group) : (s.putGroup g).savedTeams = s.savedTeams := rfl
@[simp] theorem State.putGroup_reply (s : State) (g : Group) : (s.putGroup g).reply = s.reply := rfl

@[simp] theorem State.dropGroup_sched (s : State) (k : GroupKey) : (s.dropGroup k).sched = s.sched := rfl
@[simp] theorem State.dropGroup_cycle (s : State) (k : GroupKey) : (s.dropGroup k).cycle = s.cycle := rfl
@[simp] theorem State.dropGroup_born (s : State) (k : GroupKey) : (s.dropGroup k).born = s.born := rfl
@[simp] theorem State.dropGroup_teams (s : State) (k : GroupKey) : (s.dropGroup k).teams = s.teams := rfl
@[simp] theorem State.dropGroup_launches (s : State) (k : GroupKey) : (s.dropGroup k).launches = s.launches := rfl
@[simp] theorem State.dropGroup_ctxs (s : State) (k : GroupKey) : (s.dropGroup k).ctxs = s.ctxs := rfl
@[simp] theorem State.dropGroup_past (s : State) (k : GroupKey) : (s.dropGroup k).past = s.past := rfl
@[simp] theorem State.dropGroup_mem (s : State) (k : GroupKey) : (s.dropGroup k).mem = s.mem := rfl
@[simp] theorem State.dropGroup_ops (s : State) (k : GroupKey) : (s.dropGroup k).ops = s.ops := rfl
@[simp] theorem State.dropGroup_mtx (s : State) (k : GroupKey) : (s.dropGroup k).mtx = s.mtx := rfl
@[simp] theorem State.dropGroup_isl (s : State) (k : GroupKey) : (s.dropGroup k).isl = s.isl := rfl
@[simp] theorem State.dropGroup_pkg (s : State) (k : GroupKey) : (s.dropGroup k).pkg = s.pkg := rfl
@[simp] theorem State.dropGroup_saved (s : State) (k : GroupKey) : (s.dropGroup k).saved = s.saved := rfl
@[simp] theorem State.dropGroup_savedTeams (s : State) (k : GroupKey) : (s.dropGroup k).savedTeams = s.savedTeams := rfl
@[simp] theorem State.dropGroup_reply (s : State) (k : GroupKey) : (s.dropGroup k).reply = s.reply := rfl

@[simp] theorem State.modGroup_sched (s : State) (k : GroupKey) (f : Group → Group) : (s.modGroup k f).sched = s.sched := rfl
@[simp] theorem State.modGroup_cycle (s : State) (k : GroupKey) (f : Group → Group) : (s.modGroup k f).cycle = s.cycle := rfl
@[simp] theorem State.modGroup_born (s : State) (k : GroupKey) (f : Group → Group) : (s.modGroup k f).born = s.born := rfl
@[simp] theorem State.modGroup_teams (s : State) (k : GroupKey) (f : Group → Group) : (s.modGroup k f).teams = s.teams := rfl
@[simp] theorem State.modGroup_launches (s : State) (k : GroupKey) (f : Group → Group) : (s.modGroup k f).launches = s.launches := rfl
@[simp] theorem State.modGroup_ctxs (s : State) (k : GroupKey) (f : Group → Group) : (s.modGroup k f).ctxs = s.ctxs := rfl
@[simp] theorem State.modGroup_past (s : State) (k : GroupKey) (f : Group → Group) : (s.modGroup k f).past = s.past := rfl
@[simp] theorem State.modGroup_mem (s : State) (k : GroupKey) (f : Group → Group) : (s.modGroup k f).mem = s.mem := rfl
@[simp] theorem State.modGroup_ops (s : State) (k : GroupKey) (f : Group → Group) : (s.modGroup k f).ops = s.ops := rfl
@[simp] theorem State.modGroup_mtx (s : State) (k : GroupKey) (f : Group → Group) : (s.modGroup k f).mtx = s.mtx := rfl
@[simp] theorem State.modGroup_isl (s : State) (k : GroupKey) (f : Group → Group) : (s.modGroup k f).isl = s.isl := rfl
@[simp] theorem State.modGroup_pkg (s : State) (k : GroupKey) (f : Group → Group) : (s.modGroup k f).pkg = s.pkg := rfl
@[simp] theorem State.modGroup_saved (s : State) (k : GroupKey) (f : Group → Group) : (s.modGroup k f).saved = s.saved := rfl
@[simp] theorem State.modGroup_savedTeams (s : State) (k : GroupKey) (f : Group → Group) : (s.modGroup k f).savedTeams = s.savedTeams := rfl
@[simp] theorem State.modGroup_reply (s : State) (k : GroupKey) (f : Group → Group) : (s.modGroup k f).reply = s.reply := rfl

@[simp] theorem State.putTeam_sched (s : State) (t : Team) : (s.putTeam t).sched = s.sched := rfl
@[simp] theorem State.putTeam_cycle (s : State) (t : Team) : (s.putTeam t).cycle = s.cycle := rfl
@[simp] theorem State.putTeam_born (s : State) (t : Team) : (s.putTeam t).born = s.born := rfl
@[simp] theorem State.putTeam_groups (s : State) (t : Team) : (s.putTeam t).groups = s.groups := rfl
@[simp] theorem State.putTeam_launches (s : State) (t : Team) : (s.putTeam t).launches = s.launches := rfl
@[simp] theorem State.putTeam_ctxs (s : State) (t : Team) : (s.putTeam t).ctxs = s.ctxs := rfl
@[simp] theorem State.putTeam_past (s : State) (t : Team) : (s.putTeam t).past = s.past := rfl
@[simp] theorem State.putTeam_mem (s : State) (t : Team) : (s.putTeam t).mem = s.mem := rfl
@[simp] theorem State.putTeam_ops (s : State) (t : Team) : (s.putTeam t).ops = s.ops := rfl
@[simp] theorem State.putTeam_mtx (s : State) (t : Team) : (s.putTeam t).mtx = s.mtx := rfl
@[simp] theorem State.putTeam_isl (s : State) (t : Team) : (s.putTeam t).isl = s.isl := rfl
@[simp] theorem State.putTeam_pkg (s : State) (t : Team) : (s.putTeam t).pkg = s.pkg := rfl
@[simp] theorem State.putTeam_saved (s : State) (t : Team) : (s.putTeam t).saved = s.saved := rfl
@[simp] theorem State.putTeam_savedTeams (s : State) (t : Team) : (s.putTeam t).savedTeams = s.savedTeams := rfl
@[simp] theorem State.putTeam_reply (s : State) (t : Team) : (s.putTeam t).reply = s.reply := rfl

@[simp] theorem State.modTeam_sched (s : State) (k : TeamKey) (f : Team → Team) : (s.modTeam k f).sched = s.sched := rfl
@[simp] theorem State.modTeam_cycle (s : State) (k : TeamKey) (f : Team → Team) : (s.modTeam k f).cycle = s.cycle := rfl
@[simp] theorem State.modTeam_born (s : State) (k : TeamKey) (f : Team → Team) : (s.modTeam k f).born = s.born := rfl
@[simp] theorem State.modTeam_groups (s : State) (k : TeamKey) (f : Team → Team) : (s.modTeam k f).groups = s.groups := rfl
@[simp] theorem State.modTeam_launches (s : State) (k : TeamKey) (f : Team → Team) : (s.modTeam k f).launches = s.launches := rfl
@[simp] theorem State.modTeam_ctxs (s : State) (k : TeamKey) (f : Team → Team) : (s.modTeam k f).ctxs = s.ctxs := rfl
@[simp] theorem State.modTeam_past (s : State) (k : TeamKey) (f : Team → Team) : (s.modTeam k f).past = s.past := rfl
@[simp] theorem State.modTeam_mem (s : State) (k : TeamKey) (f : Team → Team) : (s.modTeam k f).mem = s.mem := rfl
@[simp] theorem State.modTeam_ops (s : State) (k : TeamKey) (f : Team → Team) : (s.modTeam k f).ops = s.ops := rfl
@[simp] theorem State.modTeam_mtx (s : State) (k : TeamKey) (f : Team → Team) : (s.modTeam k f).mtx = s.mtx := rfl
@[simp] theorem State.modTeam_isl (s : State) (k : TeamKey) (f : Team → Team) : (s.modTeam k f).isl = s.isl := rfl
@[simp] theorem State.modTeam_pkg (s : State) (k : TeamKey) (f : Team → Team) : (s.modTeam k f).pkg = s.pkg := rfl
@[simp] theorem State.modTeam_saved (s : State) (k : TeamKey) (f : Team → Team) : (s.modTeam k f).saved = s.saved := rfl
@[simp] theorem State.modTeam_savedTeams (s : State) (k : TeamKey) (f : Team → Team) : (s.modTeam k f).savedTeams = s.savedTeams := rfl
@[simp] theorem State.modTeam_reply (s : State) (k : TeamKey) (f : Team → Team) : (s.modTeam k f).reply = s.reply := rfl

@[simp] theorem State.putLaunch_sched (s : State) (l : Launch) : (s.putLaunch l).sched = s.sched := rfl
@[simp] theorem State.putLaunch_cycle (s : State) (l : Launch) : (s.putLaunch l).cycle = s.cycle := rfl
@[simp] theorem State.putLaunch_born (s : State) (l : Launch) : (s.putLaunch l).born = s.born := rfl
@[simp] theorem State.putLaunch_groups (s : State) (l : Launch) : (s.putLaunch l).groups = s.groups := rfl
@[simp] theorem State.putLaunch_teams (s : State) (l : Launch) : (s.putLaunch l).teams = s.teams := rfl
@[simp] theorem State.putLaunch_ctxs (s : State) (l : Launch) : (s.putLaunch l).ctxs = s.ctxs := rfl
@[simp] theorem State.putLaunch_past (s : State) (l : Launch) : (s.putLaunch l).past = s.past := rfl
@[simp] theorem State.putLaunch_mem (s : State) (l : Launch) : (s.putLaunch l).mem = s.mem := rfl
@[simp] theorem State.putLaunch_ops (s : State) (l : Launch) : (s.putLaunch l).ops = s.ops := rfl
@[simp] theorem State.putLaunch_mtx (s : State) (l : Launch) : (s.putLaunch l).mtx = s.mtx := rfl
@[simp] theorem State.putLaunch_isl (s : State) (l : Launch) : (s.putLaunch l).isl = s.isl := rfl
@[simp] theorem State.putLaunch_pkg (s : State) (l : Launch) : (s.putLaunch l).pkg = s.pkg := rfl
@[simp] theorem State.putLaunch_saved (s : State) (l : Launch) : (s.putLaunch l).saved = s.saved := rfl
@[simp] theorem State.putLaunch_savedTeams (s : State) (l : Launch) : (s.putLaunch l).savedTeams = s.savedTeams := rfl
@[simp] theorem State.putLaunch_reply (s : State) (l : Launch) : (s.putLaunch l).reply = s.reply := rfl

@[simp] theorem State.modLaunch_sched (s : State) (n : Nat) (f : Launch → Launch) : (s.modLaunch n f).sched = s.sched := rfl
@[simp] theorem State.modLaunch_cycle (s : State) (n : Nat) (f : Launch → Launch) : (s.modLaunch n f).cycle = s.cycle := rfl
@[simp] theorem State.modLaunch_born (s : State) (n : Nat) (f : Launch → Launch) : (s.modLaunch n f).born = s.born := rfl
@[simp] theorem State.modLaunch_groups (s : State) (n : Nat) (f : Launch → Launch) : (s.modLaunch n f).groups = s.groups := rfl
@[simp] theorem State.modLaunch_teams (s : State) (n : Nat) (f : Launch → Launch) : (s.modLaunch n f).teams = s.teams := rfl
@[simp] theorem State.modLaunch_ctxs (s : State) (n : Nat) (f : Launch → Launch) : (s.modLaunch n f).ctxs = s.ctxs := rfl
@[simp] theorem State.modLaunch_past (s : State) (n : Nat) (f : Launch → Launch) : (s.modLaunch n f).past = s.past := rfl
@[simp] theorem State.modLaunch_mem (s : State) (n : Nat) (f : Launch → Launch) : (s.modLaunch n f).mem = s.mem := rfl
@[simp] theorem State.modLaunch_ops (s : State) (n : Nat) (f : Launch → Launch) : (s.modLaunch n f).ops = s.ops := rfl
@[simp] theorem State.modLaunch_mtx (s : State) (n : Nat) (f : Launch → Launch) : (s.modLaunch n f).mtx = s.mtx := rfl
@[simp] theorem State.modLaunch_isl (s : State) (n : Nat) (f : Launch → Launch) : (s.modLaunch n f).isl = s.isl := rfl
@[simp] theorem State.modLaunch_pkg (s : State) (n : Nat) (f : Launch → Launch) : (s.modLaunch n f).pkg = s.pkg := rfl
@[simp] theorem State.modLaunch_saved (s : State) (n : Nat) (f : Launch → Launch) : (s.modLaunch n f).saved = s.saved := rfl
@[simp] theorem State.modLaunch_savedTeams (s : State) (n : Nat) (f : Launch → Launch) : (s.modLaunch n f).savedTeams = s.savedTeams := rfl
@[simp] theorem State.modLaunch_reply (s : State) (n : Nat) (f : Launch → Launch) : (s.modLaunch n f).reply = s.reply := rfl

@[simp] theorem State.putCtx_sched (s : State) (c : Context) : (s.putCtx c).sched = s.sched := rfl
@[simp] theorem State.putCtx_cycle (s : State) (c : Context) : (s.putCtx c).cycle = s.cycle := rfl
@[simp] theorem State.putCtx_born (s : State) (c : Context) : (s.putCtx c).born = s.born := rfl
@[simp] theorem State.putCtx_groups (s : State) (c : Context) : (s.putCtx c).groups = s.groups := rfl
@[simp] theorem State.putCtx_teams (s : State) (c : Context) : (s.putCtx c).teams = s.teams := rfl
@[simp] theorem State.putCtx_launches (s : State) (c : Context) : (s.putCtx c).launches = s.launches := rfl
@[simp] theorem State.putCtx_past (s : State) (c : Context) : (s.putCtx c).past = s.past := rfl
@[simp] theorem State.putCtx_mem (s : State) (c : Context) : (s.putCtx c).mem = s.mem := rfl
@[simp] theorem State.putCtx_ops (s : State) (c : Context) : (s.putCtx c).ops = s.ops := rfl
@[simp] theorem State.putCtx_mtx (s : State) (c : Context) : (s.putCtx c).mtx = s.mtx := rfl
@[simp] theorem State.putCtx_isl (s : State) (c : Context) : (s.putCtx c).isl = s.isl := rfl
@[simp] theorem State.putCtx_pkg (s : State) (c : Context) : (s.putCtx c).pkg = s.pkg := rfl
@[simp] theorem State.putCtx_saved (s : State) (c : Context) : (s.putCtx c).saved = s.saved := rfl
@[simp] theorem State.putCtx_savedTeams (s : State) (c : Context) : (s.putCtx c).savedTeams = s.savedTeams := rfl
@[simp] theorem State.putCtx_reply (s : State) (c : Context) : (s.putCtx c).reply = s.reply := rfl

@[simp] theorem State.modCtx_sched (s : State) (n : Nat) (f : Context → Context) : (s.modCtx n f).sched = s.sched := rfl
@[simp] theorem State.modCtx_cycle (s : State) (n : Nat) (f : Context → Context) : (s.modCtx n f).cycle = s.cycle := rfl
@[simp] theorem State.modCtx_born (s : State) (n : Nat) (f : Context → Context) : (s.modCtx n f).born = s.born := rfl
@[simp] theorem State.modCtx_groups (s : State) (n : Nat) (f : Context → Context) : (s.modCtx n f).groups = s.groups := rfl
@[simp] theorem State.modCtx_teams (s : State) (n : Nat) (f : Context → Context) : (s.modCtx n f).teams = s.teams := rfl
@[simp] theorem State.modCtx_launches (s : State) (n : Nat) (f : Context → Context) : (s.modCtx n f).launches = s.launches := rfl
@[simp] theorem State.modCtx_past (s : State) (n : Nat) (f : Context → Context) : (s.modCtx n f).past = s.past := rfl
@[simp] theorem State.modCtx_mem (s : State) (n : Nat) (f : Context → Context) : (s.modCtx n f).mem = s.mem := rfl
@[simp] theorem State.modCtx_ops (s : State) (n : Nat) (f : Context → Context) : (s.modCtx n f).ops = s.ops := rfl
@[simp] theorem State.modCtx_mtx (s : State) (n : Nat) (f : Context → Context) : (s.modCtx n f).mtx = s.mtx := rfl
@[simp] theorem State.modCtx_isl (s : State) (n : Nat) (f : Context → Context) : (s.modCtx n f).isl = s.isl := rfl
@[simp] theorem State.modCtx_pkg (s : State) (n : Nat) (f : Context → Context) : (s.modCtx n f).pkg = s.pkg := rfl
@[simp] theorem State.modCtx_saved (s : State) (n : Nat) (f : Context → Context) : (s.modCtx n f).saved = s.saved := rfl
@[simp] theorem State.modCtx_savedTeams (s : State) (n : Nat) (f : Context → Context) : (s.modCtx n f).savedTeams = s.savedTeams := rfl
@[simp] theorem State.modCtx_reply (s : State) (n : Nat) (f : Context → Context) : (s.modCtx n f).reply = s.reply := rfl

@[simp] theorem State.freshId_cycle (s : State) : s.freshId.2.cycle = s.cycle := rfl
@[simp] theorem State.freshFree_cycle (s : State) : s.freshFree.2.cycle = s.cycle := rfl
@[simp] theorem State.freshId_born (s : State) : s.freshId.2.born = s.born := rfl
@[simp] theorem State.freshFree_born (s : State) : s.freshFree.2.born = s.born := rfl
@[simp] theorem State.freshId_groups (s : State) : s.freshId.2.groups = s.groups := rfl
@[simp] theorem State.freshFree_groups (s : State) : s.freshFree.2.groups = s.groups := rfl
@[simp] theorem State.freshId_teams (s : State) : s.freshId.2.teams = s.teams := rfl
@[simp] theorem State.freshFree_teams (s : State) : s.freshFree.2.teams = s.teams := rfl
@[simp] theorem State.freshId_launches (s : State) : s.freshId.2.launches = s.launches := rfl
@[simp] theorem State.freshFree_launches (s : State) : s.freshFree.2.launches = s.launches := rfl
@[simp] theorem State.freshId_ctxs (s : State) : s.freshId.2.ctxs = s.ctxs := rfl
@[simp] theorem State.freshFree_ctxs (s : State) : s.freshFree.2.ctxs = s.ctxs := rfl
@[simp] theorem State.freshId_past (s : State) : s.freshId.2.past = s.past := rfl
@[simp] theorem State.freshFree_past (s : State) : s.freshFree.2.past = s.past := rfl
@[simp] theorem State.freshId_mem (s : State) : s.freshId.2.mem = s.mem := rfl
@[simp] theorem State.freshFree_mem (s : State) : s.freshFree.2.mem = s.mem := rfl
@[simp] theorem State.freshId_ops (s : State) : s.freshId.2.ops = s.ops := rfl
@[simp] theorem State.freshFree_ops (s : State) : s.freshFree.2.ops = s.ops := rfl
@[simp] theorem State.freshId_mtx (s : State) : s.freshId.2.mtx = s.mtx := rfl
@[simp] theorem State.freshFree_mtx (s : State) : s.freshFree.2.mtx = s.mtx := rfl
@[simp] theorem State.freshId_isl (s : State) : s.freshId.2.isl = s.isl := rfl
@[simp] theorem State.freshFree_isl (s : State) : s.freshFree.2.isl = s.isl := rfl
@[simp] theorem State.freshId_pkg (s : State) : s.freshId.2.pkg = s.pkg := rfl
@[simp] theorem State.freshFree_pkg (s : State) : s.freshFree.2.pkg = s.pkg := rfl
@[simp] theorem State.freshId_saved (s : State) : s.freshId.2.saved = s.saved := rfl
@[simp] theorem State.freshFree_saved (s : State) : s.freshFree.2.saved = s.saved := rfl
@[simp] theorem State.freshId_savedTeams (s : State) : s.freshId.2.savedTeams = s.savedTeams := rfl
@[simp] theorem State.freshFree_savedTeams (s : State) : s.freshFree.2.savedTeams = s.savedTeams := rfl
@[simp] theorem State.freshId_reply (s : State) : s.freshId.2.reply = s.reply := rfl
@[simp] theorem State.freshFree_reply (s : State) : s.freshFree.2.reply = s.reply := rfl

/-! ## Lookups -/

/-- After one entry of a list is exchanged, a search by key finds it where the key was there, and finds the others as before. -/
theorem find_exchange {α κ : Type} [DecidableEq κ] (l : List α) (key : α → κ) (a : α) (k : κ) :
    (l.map (fun x => if key x = key a then a else x)).find? (fun x => key x = k)
      = if key a = k then (l.find? (fun x => key x = k)).map (fun _ => a) else l.find? (fun x => key x = k) := by
  induction l with
  | nil => simp
  | cons b l ih =>
    simp only [List.map_cons, List.find?_cons, ih]
    by_cases hb : key b = key a
    · by_cases hk : key a = k <;> simp [hb, hk]
    · by_cases hk : key b = k
      · have h : key a ≠ k := fun h => hb (hk.trans h.symm)
        rw [if_neg hb, if_neg h, if_neg h]
      · rw [if_neg hb, decide_eq_false hk]

/-- After the entries of a key are changed by a function that keeps the key, a search by that key finds the changed entry. -/
theorem find_change {α κ : Type} [DecidableEq κ] (l : List α) (key : α → κ) (f : α → α) (k j : κ) (hf : ∀ x, key (f x) = key x) :
    (l.map (fun x => if key x = k then f x else x)).find? (fun x => key x = j)
      = (l.find? (fun x => key x = j)).map (fun x => if key x = k then f x else x) := by
  induction l with
  | nil => simp
  | cons b l ih =>
    simp only [List.map_cons, List.find?_cons, ih]
    by_cases hb : key b = k
    · rw [if_pos hb, hf]
      by_cases hk : key b = j
      · rw [decide_eq_true hk, Option.map_some, if_pos hb]
      · rw [decide_eq_false hk]
    · rw [if_neg hb]
      by_cases hk : key b = j
      · rw [decide_eq_true hk, Option.map_some, if_neg hb]
      · rw [decide_eq_false hk]

theorem group?_putGroup (s : State) (g : Group) (k : GroupKey) :
    (s.putGroup g).group? k = if g.key = k then (s.group? k).map (fun _ => g) else s.group? k :=
  find_exchange s.groups Group.key g k
theorem team?_putTeam (s : State) (t : Team) (k : TeamKey) :
    (s.putTeam t).team? k = if t.key = k then (s.team? k).map (fun _ => t) else s.team? k :=
  find_exchange s.teams Team.key t k
theorem launch?_putLaunch (s : State) (l : Launch) (n : Nat) :
    (s.putLaunch l).launch? n = if l.handle = n then (s.launch? n).map (fun _ => l) else s.launch? n :=
  find_exchange s.launches Launch.handle l n
theorem ctx?_putCtx (s : State) (c : Context) (n : Nat) :
    (s.putCtx c).ctx? n = if c.id = n then (s.ctx? n).map (fun _ => c) else s.ctx? n :=
  find_exchange s.ctxs Context.id c n
theorem split?_putSplit (g : Group) (p : Split) (n : Nat) :
    (g.putSplit p).split? n = if p.sid = n then (g.split? n).map (fun _ => p) else g.split? n :=
  find_exchange g.splits Split.sid p n

theorem group?_modGroup (s : State) (k j : GroupKey) (f : Group → Group) (hf : ∀ g, (f g).key = g.key) :
    (s.modGroup k f).group? j = (s.group? j).map (fun g => if g.key = k then f g else g) :=
  find_change s.groups Group.key f k j hf
theorem team?_modTeam (s : State) (k j : TeamKey) (f : Team → Team) (hf : ∀ t, (f t).key = t.key) :
    (s.modTeam k f).team? j = (s.team? j).map (fun t => if t.key = k then f t else t) :=
  find_change s.teams Team.key f k j hf
theorem launch?_modLaunch (s : State) (n m : Nat) (f : Launch → Launch) (hf : ∀ l, (f l).handle = l.handle) :
    (s.modLaunch n f).launch? m = (s.launch? m).map (fun l => if l.handle = n then f l else l) :=
  find_change s.launches Launch.handle f n m hf
theorem ctx?_modCtx (s : State) (n m : Nat) (f : Context → Context) (hf : ∀ c, (f c).id = c.id) :
    (s.modCtx n f).ctx? m = (s.ctx? m).map (fun c => if c.id = n then f c else c) :=
  find_change s.ctxs Context.id f n m hf

/-- A group found has the key it was searched by. -/
theorem group?_key {s : State} {k : GroupKey} {g : Group} (h : s.group? k = some g) : g.key = k := by
  simpa using List.find?_some h
theorem team?_key {s : State} {k : TeamKey} {t : Team} (h : s.team? k = some t) : t.key = k := by
  simpa using List.find?_some h
theorem launch?_handle {s : State} {n : Nat} {l : Launch} (h : s.launch? n = some l) : l.handle = n := by
  simpa using List.find?_some h
theorem ctx?_id {s : State} {n : Nat} {c : Context} (h : s.ctx? n = some c) : c.id = n := by
  simpa using List.find?_some h
theorem split?_sid {g : Group} {n : Nat} {p : Split} (h : g.split? n = some p) : p.sid = n := by
  simpa using List.find?_some h

end Sys2Proof.Machine
end

