-- ==== Sys2Proof/Laws/Memory.lean ====
section
/-! SUPPORT. Memory and scratchpad bytes: every operation keeps the canonical form, and a read after a write. -/

namespace Sys2Proof.Machine

/-! ## One byte -/

/-- Every address of the list lies at or above a bound. -/
def cellsFrom (n : Nat) (cs : List Host.Cell) : Prop := ∀ c ∈ cs, n ≤ c.1

theorem cellsWf_cons {c : Host.Cell} {cs : List Host.Cell} : cellsWf (c :: cs) = true ↔ c.2 ≠ 0 ∧ cellsFrom (c.1 + 1) cs ∧ cellsWf cs = true := by
  induction cs generalizing c with
  | nil => simp [cellsWf, cellsFrom]
  | cons d ds ih =>
    simp only [cellsWf, Bool.and_eq_true, bne_iff_ne, ne_eq, decide_eq_true_eq]
    constructor
    · rintro ⟨⟨h0, h1⟩, h2⟩
      refine ⟨h0, ?_, h2⟩
      intro x hx
      rcases List.mem_cons.1 hx with rfl | hx
      · omega
      · have := (ih.1 h2).2.1 x hx
        omega
    · rintro ⟨h0, h1, h2⟩
      have := h1 d (by simp)
      exact ⟨⟨h0, by omega⟩, h2⟩

theorem cellSet_from {n a : Nat} {cs : List Host.Cell} {b : Byte} (h : cellsFrom n cs) (ha : n ≤ a) : cellsFrom n (cellSet cs a b) := by
  induction cs with
  | nil =>
    unfold cellSet
    split
    · exact h
    · intro x hx
      simp only [List.mem_singleton] at hx
      subst hx
      exact ha
  | cons c cs ih =>
    have hc : n ≤ c.1 := h c (by simp)
    have ht : cellsFrom n cs := fun x hx => h x (List.mem_cons_of_mem _ hx)
    unfold cellSet
    split
    · split
      · exact h
      · intro x hx
        rcases List.mem_cons.1 hx with rfl | hx
        · exact ha
        · exact h x hx
    · split
      · split
        · exact ht
        · intro x hx
          rcases List.mem_cons.1 hx with rfl | hx
          · exact ha
          · exact ht x hx
      · intro x hx
        rcases List.mem_cons.1 hx with rfl | hx
        · exact hc
        · exact ih ht x hx

/-- Writing a byte keeps the canonical form. -/
theorem cellSet_wf (cs : List Host.Cell) (a : Nat) (b : Byte) (h : cellsWf cs = true) : cellsWf (cellSet cs a b) = true := by
  induction cs with
  | nil =>
    unfold cellSet
    split
    · rfl
    · rename_i hb
      simpa [cellsWf] using hb
  | cons c cs ih =>
    obtain ⟨h0, h1, h2⟩ := cellsWf_cons.1 h
    unfold cellSet
    split
    · rename_i ha
      split
      · exact h
      · rename_i hb
        refine cellsWf_cons.2 ⟨hb, ?_, h⟩
        intro x hx
        rcases List.mem_cons.1 hx with rfl | hx
        · exact ha
        · have := h1 x hx
          show a + 1 ≤ x.1
          omega
    · split
      · rename_i ha
        split
        · exact h2
        · rename_i hb
          exact cellsWf_cons.2 ⟨hb, ha ▸ h1, h2⟩
      · rename_i hlt hne
        exact cellsWf_cons.2 ⟨h0, cellSet_from h1 (by omega), ih h2⟩

theorem cellGet_from {n a : Nat} {cs : List Host.Cell} (h : cellsFrom n cs) (ha : a < n) : cellGet cs a = 0 := by
  cases cs with
  | nil => rfl
  | cons c cs =>
    have := h c (by simp)
    unfold cellGet
    rw [if_pos (by omega)]

/-- The byte written reads back, and every other byte reads as before. -/
theorem cellGet_cellSet (cs : List Host.Cell) (a x : Nat) (b : Byte) (h : cellsWf cs = true) :
    cellGet (cellSet cs a b) x = if x = a then b else cellGet cs x := by
  induction cs with
  | nil =>
    unfold cellSet
    by_cases hb : b = 0
    · rw [if_pos hb, hb]
      split <;> rfl
    · rw [if_neg hb]
      unfold cellGet
      by_cases hx : x = a
      · rw [if_neg (by show ¬x < a; omega), if_pos hx, if_pos hx]
      · rw [if_neg hx, if_neg hx]
        split <;> rfl
  | cons c cs ih =>
    obtain ⟨-, h1, h2⟩ := cellsWf_cons.1 h
    unfold cellSet
    by_cases ha : a < c.1
    · by_cases hb : b = 0
      · by_cases hx : x = a
        · subst hx
          simp [cellGet, ha, hb]
        · simp [ha, hb, hx]
      · rw [if_pos ha, if_neg hb]
        show (if x < a then 0 else if x = a then b else cellGet (c :: cs) x) = if x = a then b else cellGet (c :: cs) x
        by_cases hl : x < a
        · rw [if_pos hl, if_neg (by omega)]
          unfold cellGet
          rw [if_pos (by omega)]
        · rw [if_neg hl]
    · rw [if_neg ha]
      by_cases he : a = c.1
      · rw [if_pos he]
        by_cases hb : b = 0
        · rw [if_pos hb]
          by_cases hx : x = a
          · rw [if_pos hx, hb]
            exact cellGet_from h1 (by omega)
          · rw [if_neg hx]
            conv => rhs; unfold cellGet
            by_cases hl : x < c.1
            · rw [if_pos hl]
              exact cellGet_from h1 (by omega)
            · rw [if_neg hl, if_neg (by omega)]
        · rw [if_neg hb]
          by_cases hx : x = a
          · simp [cellGet, hx]
          · rw [if_neg hx]
            conv => lhs; unfold cellGet
            conv => rhs; unfold cellGet
            by_cases hl : x < a
            · rw [if_pos hl, if_pos (by omega)]
            · rw [if_neg hl, if_neg hx, if_neg (by omega), if_neg (by omega)]
      · rw [if_neg he]
        conv => lhs; unfold cellGet
        conv => rhs; unfold cellGet
        by_cases hl : x < c.1
        · rw [if_pos hl, if_pos hl, if_neg (by omega)]
        · rw [if_neg hl, if_neg hl]
          by_cases hc : x = c.1
          · rw [if_pos hc, if_pos hc, if_neg (by omega)]
          · rw [if_neg hc, if_neg hc, ih h2]

/-! ## Many bytes -/

/-- Writing bytes keeps the canonical form. -/
theorem cellWrite_wf (cs : List Host.Cell) (a : Nat) (bs : List Byte) (h : cellsWf cs = true) : cellsWf (cellWrite cs a bs) = true := by
  induction bs generalizing cs a with
  | nil => exact h
  | cons b bs ih => exact ih _ _ (cellSet_wf cs a b h)

/-- Each byte written reads back, and every byte outside the range reads as before. -/
theorem cellGet_cellWrite (cs : List Host.Cell) (a x : Nat) (bs : List Byte) (h : cellsWf cs = true) :
    cellGet (cellWrite cs a bs) x = if a ≤ x ∧ x < a + bs.length then bs.getD (x - a) 0 else cellGet cs x := by
  induction bs generalizing cs a with
  | nil => rw [if_neg (by simp)]; rfl
  | cons b bs ih =>
    show cellGet (cellWrite (cellSet cs a b) (a + 1) bs) x = _
    rw [ih _ _ (cellSet_wf cs a b h), cellGet_cellSet _ _ _ _ h, List.length_cons]
    by_cases hx : x = a
    · subst hx
      rw [if_neg (by omega), if_pos rfl, if_pos (by omega), Nat.sub_self]
      rfl
    · rw [if_neg hx]
      by_cases hr : a + 1 ≤ x ∧ x < a + 1 + bs.length
      · rw [if_pos hr, if_pos (by omega)]
        obtain ⟨k, rfl⟩ : ∃ k, x = a + 1 + k := ⟨x - (a + 1), by omega⟩
        rw [show a + 1 + k - (a + 1) = k by omega, show a + 1 + k - a = k + 1 by omega]
        rfl
      · rw [if_neg hr, if_neg (by omega)]

/-! ## Memory under a key (R176) -/

theorem Mem.rekey_wf (m : Mem) (key : Option (BitVec 512)) (g : Nat) (h : m.wf = true) : (m.rekey key g).wf = true := by
  unfold Mem.rekey Mem.wf
  cases key with
  | none => exact h
  | some k =>
    dsimp only
    split
    · split
      · exact h
      · apply cellWrite_wf
        exact h
    · exact h

theorem Mem.rekeys_wf (gs : List Nat) (key : Option (BitVec 512)) (m : Mem) (h : m.wf = true) :
    (gs.foldl (fun m g => m.rekey key g) m).wf = true := by
  induction gs generalizing m with
  | nil => exact h
  | cons g gs ih => exact ih _ (Mem.rekey_wf m key g h)

/-- A write under a key keeps the canonical form. -/
theorem Mem.writeUnder_wf (m : Mem) (key : Option (BitVec 512)) (pa : Nat) (bs : List Byte) (h : m.wf = true) :
    (m.writeUnder key pa bs).wf = true := cellWrite_wf _ _ _ (Mem.rekeys_wf _ key m h)

theorem Mem.unpoison_wf (m : Mem) (pa n : Nat) (h : m.wf = true) : (m.unpoison pa n).wf = true := h

/-- Bytes written under a key are the ones stored there. -/
theorem Mem.writeUnder_get (m : Mem) (key : Option (BitVec 512)) (pa x : Nat) (bs : List Byte) (h : m.wf = true)
    (hx : pa ≤ x ∧ x < pa + bs.length) : cellGet (m.writeUnder key pa bs).cells x = bs.getD (x - pa) 0 := by
  show cellGet (cellWrite _ pa bs) x = _
  rw [cellGet_cellWrite _ _ _ _ (Mem.rekeys_wf _ key m h), if_pos hx]

/-- With no key, every byte outside the range stays. -/
theorem Mem.writeUnder_none (m : Mem) (pa x : Nat) (bs : List Byte) (h : m.wf = true)
    (hx : ¬(pa ≤ x ∧ x < pa + bs.length)) : cellGet (m.writeUnder none pa bs).cells x = cellGet m.cells x := by
  have e : ∀ (gs : List Nat) (m : Mem), gs.foldl (fun m g => m.rekey none g) m = m := by
    intro gs
    induction gs with
    | nil => intro m; rfl
    | cons g gs ih => intro m; exact ih m
  show cellGet (cellWrite (List.foldl _ m _).cells pa bs) x = _
  rw [e, cellGet_cellWrite _ _ _ _ h, if_neg hx]

/-! ## Scratchpads -/

/-- A write to a copy's scratchpad keeps both copies' form. -/
theorem Team.setSpad_wf (t : Team) (shadow : Bool) (o : Nat) (bs : List Byte) (h : cellsWf t.spad = true ∧ cellsWf t.spad2 = true) :
    cellsWf (t.setSpad shadow (cellWrite (t.spadOf shadow) o bs)).spad = true
      ∧ cellsWf (t.setSpad shadow (cellWrite (t.spadOf shadow) o bs)).spad2 = true := by
  cases shadow
  · exact ⟨cellWrite_wf _ _ _ h.1, h.2⟩
  · exact ⟨h.1, cellWrite_wf _ _ _ h.2⟩

/-- Memory and every scratchpad have their form after reset. -/
theorem reset_wf : State.reset.mem.wf = true ∧ State.reset.teams = [] ∧ State.reset.savedTeams = [] := ⟨rfl, rfl, rfl⟩

end Sys2Proof.Machine
end

