-- ==== Sys2Proof/Laws/PerInstr.lean ====
section
/-! SUPPORT. Statements about every instruction as syntax, one lemma for each constructor. -/

/-- Where an instruction is written: a core instruction has a checking record and the fields of a slot, a drain
micro-instruction the fields of a micro-word, and an event neither. -/
def Sys2Proof.Laws.Kind.Statement (i : Sys2Proof.Instr) : Prop :=
  i.view.isSome = i.fields.isSome ∧ (i.view.isNone || i.mfields.isNone) = true
    ∧ i.isEvent = (i.fields.isNone && i.mfields.isNone)

namespace Sys2Proof.Laws.Kind

open Sys2Proof

theorem nop (x : INone) : Statement (.nop x) := ⟨rfl, rfl, rfl⟩
theorem iadd (x : IBin) : Statement (.iadd x) := ⟨rfl, rfl, rfl⟩
theorem isub (x : IBin) : Statement (.isub x) := ⟨rfl, rfl, rfl⟩
theorem imul (x : IBin) : Statement (.imul x) := ⟨rfl, rfl, rfl⟩
theorem imulh (x : IBin) : Statement (.imulh x) := ⟨rfl, rfl, rfl⟩
theorem imad (x : ITern) : Statement (.imad x) := ⟨rfl, rfl, rfl⟩
theorem imin (x : IBin) : Statement (.imin x) := ⟨rfl, rfl, rfl⟩
theorem imax (x : IBin) : Statement (.imax x) := ⟨rfl, rfl, rfl⟩
theorem iabs (x : IUn) : Statement (.iabs x) := ⟨rfl, rfl, rfl⟩
theorem ineg (x : IUn) : Statement (.ineg x) := ⟨rfl, rfl, rfl⟩
theorem and (x : IBin) : Statement (.and x) := ⟨rfl, rfl, rfl⟩
theorem or (x : IBin) : Statement (.or x) := ⟨rfl, rfl, rfl⟩
theorem xor (x : IBin) : Statement (.xor x) := ⟨rfl, rfl, rfl⟩
theorem not (x : IUn) : Statement (.not x) := ⟨rfl, rfl, rfl⟩
theorem shl (x : IBin) : Statement (.shl x) := ⟨rfl, rfl, rfl⟩
theorem shr (x : IBin) : Statement (.shr x) := ⟨rfl, rfl, rfl⟩
theorem sar (x : IBin) : Statement (.sar x) := ⟨rfl, rfl, rfl⟩
theorem rot (x : IBin) : Statement (.rot x) := ⟨rfl, rfl, rfl⟩
theorem popc (x : IUn) : Statement (.popc x) := ⟨rfl, rfl, rfl⟩
theorem clz (x : IUn) : Statement (.clz x) := ⟨rfl, rfl, rfl⟩
theorem brev (x : IUn) : Statement (.brev x) := ⟨rfl, rfl, rfl⟩
theorem bfx (x : IBin) : Statement (.bfx x) := ⟨rfl, rfl, rfl⟩
theorem bfi (x : ITern) : Statement (.bfi x) := ⟨rfl, rfl, rfl⟩
theorem icmp (x : ICmp) : Statement (.icmp x) := ⟨rfl, rfl, rfl⟩
theorem sel (x : ISel) : Statement (.sel x) := ⟨rfl, rfl, rfl⟩
theorem mov (x : IUn) : Statement (.mov x) := ⟨rfl, rfl, rfl⟩
theorem movi (x : IMovi) : Statement (.movi x) := ⟨rfl, rfl, rfl⟩
theorem fadd (x : FBin) : Statement (.fadd x) := ⟨rfl, rfl, rfl⟩
theorem fsub (x : FBin) : Statement (.fsub x) := ⟨rfl, rfl, rfl⟩
theorem fmul (x : FBin) : Statement (.fmul x) := ⟨rfl, rfl, rfl⟩
theorem ffma (x : FTern) : Statement (.ffma x) := ⟨rfl, rfl, rfl⟩
theorem fmin (x : FBin) : Statement (.fmin x) := ⟨rfl, rfl, rfl⟩
theorem fmax (x : FBin) : Statement (.fmax x) := ⟨rfl, rfl, rfl⟩
theorem fabs (x : FUn) : Statement (.fabs x) := ⟨rfl, rfl, rfl⟩
theorem fneg (x : FUn) : Statement (.fneg x) := ⟨rfl, rfl, rfl⟩
theorem frcp (x : FUn) : Statement (.frcp x) := ⟨rfl, rfl, rfl⟩
theorem frsq (x : FUn) : Statement (.frsq x) := ⟨rfl, rfl, rfl⟩
theorem fsqrt (x : FUn) : Statement (.fsqrt x) := ⟨rfl, rfl, rfl⟩
theorem fex2 (x : FUn) : Statement (.fex2 x) := ⟨rfl, rfl, rfl⟩
theorem flg2 (x : FUn) : Statement (.flg2 x) := ⟨rfl, rfl, rfl⟩
theorem fsin (x : FUn) : Statement (.fsin x) := ⟨rfl, rfl, rfl⟩
theorem fcos (x : FUn) : Statement (.fcos x) := ⟨rfl, rfl, rfl⟩
theorem fcmp (x : FCmp) : Statement (.fcmp x) := ⟨rfl, rfl, rfl⟩
theorem fclass (x : FUn) : Statement (.fclass x) := ⟨rfl, rfl, rfl⟩
theorem cvt (x : Cvt) : Statement (.cvt x) := ⟨rfl, rfl, rfl⟩
theorem pack (x : Pack) : Statement (.pack x) := ⟨rfl, rfl, rfl⟩
theorem unpack (x : Unpack) : Statement (.unpack x) := ⟨rfl, rfl, rfl⟩
theorem shfl (x : Shfl) : Statement (.shfl x) := ⟨rfl, rfl, rfl⟩
theorem vote (x : Vote) : Statement (.vote x) := ⟨rfl, rfl, rfl⟩
theorem lred (x : Red) : Statement (.lred x) := ⟨rfl, rfl, rfl⟩
theorem scan (x : Red) : Statement (.scan x) := ⟨rfl, rfl, rfl⟩
theorem sadd (x : UBin) : Statement (.sadd x) := ⟨rfl, rfl, rfl⟩
theorem ssub (x : UBin) : Statement (.ssub x) := ⟨rfl, rfl, rfl⟩
theorem smul (x : UBin) : Statement (.smul x) := ⟨rfl, rfl, rfl⟩
theorem sand (x : UBin) : Statement (.sand x) := ⟨rfl, rfl, rfl⟩
theorem sor (x : UBin) : Statement (.sor x) := ⟨rfl, rfl, rfl⟩
theorem sxor (x : UBin) : Statement (.sxor x) := ⟨rfl, rfl, rfl⟩
theorem sshl (x : UBin) : Statement (.sshl x) := ⟨rfl, rfl, rfl⟩
theorem sshr (x : UShr) : Statement (.sshr x) := ⟨rfl, rfl, rfl⟩
theorem scmp (x : UCmp) : Statement (.scmp x) := ⟨rfl, rfl, rfl⟩
theorem smov (x : UMov) : Statement (.smov x) := ⟨rfl, rfl, rfl⟩
theorem smovi (x : UMovi) : Statement (.smovi x) := ⟨rfl, rfl, rfl⟩
theorem rdlane (x : UBin) : Statement (.rdlane x) := ⟨rfl, rfl, rfl⟩
theorem bra (x : Bra) : Statement (.bra x) := ⟨rfl, rfl, rfl⟩
theorem brc (x : Bra) : Statement (.brc x) := ⟨rfl, rfl, rfl⟩
theorem brx (x : Brx) : Statement (.brx x) := ⟨rfl, rfl, rfl⟩
theorem call (x : Call) : Statement (.call x) := ⟨rfl, rfl, rfl⟩
theorem ret (x : Ret) : Statement (.ret x) := ⟨rfl, rfl, rfl⟩
theorem exit (x : INone) : Statement (.exit x) := ⟨rfl, rfl, rfl⟩
theorem yield (x : INone) : Statement (.yield x) := ⟨rfl, rfl, rfl⟩
theorem pause (x : Pause) : Statement (.pause x) := ⟨rfl, rfl, rfl⟩
theorem trap (x : Trap) : Statement (.trap x) := ⟨rfl, rfl, rfl⟩
theorem rte (x : Rte) : Statement (.rte x) := ⟨rfl, rfl, rfl⟩
theorem rdsr (x : Rdsr) : Statement (.rdsr x) := ⟨rfl, rfl, rfl⟩
theorem wrsr (x : Wrsr) : Statement (.wrsr x) := ⟨rfl, rfl, rfl⟩
theorem bkpt (x : INone) : Statement (.bkpt x) := ⟨rfl, rfl, rfl⟩
theorem aset (x : ASet) : Statement (.aset x) := ⟨rfl, rfl, rfl⟩
theorem adv (x : UBin) : Statement (.adv x) := ⟨rfl, rfl, rfl⟩
theorem ard (x : ARd) : Statement (.ard x) := ⟨rfl, rfl, rfl⟩
theorem anarrow (x : ANarrow) : Statement (.anarrow x) := ⟨rfl, rfl, rfl⟩
theorem ld (x : Mem) : Statement (.ld x) := ⟨rfl, rfl, rfl⟩
theorem st (x : Mem) : Statement (.st x) := ⟨rfl, rfl, rfl⟩
theorem ldu (x : Mem) : Statement (.ldu x) := ⟨rfl, rfl, rfl⟩
theorem pref (x : Pref) : Statement (.pref x) := ⟨rfl, rfl, rfl⟩
theorem ldAcq (x : OMem) : Statement (.ldAcq x) := ⟨rfl, rfl, rfl⟩
theorem stRel (x : OMem) : Statement (.stRel x) := ⟨rfl, rfl, rfl⟩
theorem mbcast (x : MBcast) : Statement (.mbcast x) := ⟨rfl, rfl, rfl⟩
theorem mred (x : Red) : Statement (.mred x) := ⟨rfl, rfl, rfl⟩
theorem mvote (x : Vote) : Statement (.mvote x) := ⟨rfl, rfl, rfl⟩
theorem ldw (x : Mem) : Statement (.ldw x) := ⟨rfl, rfl, rfl⟩
theorem movw (x : UMovi) : Statement (.movw x) := ⟨rfl, rfl, rfl⟩
theorem regrp (x : Regrp) : Statement (.regrp x) := ⟨rfl, rfl, rfl⟩
theorem regret (x : Regret) : Statement (.regret x) := ⟨rfl, rfl, rfl⟩
theorem ldl (x : Mem) : Statement (.ldl x) := ⟨rfl, rfl, rfl⟩
theorem stl (x : Mem) : Statement (.stl x) := ⟨rfl, rfl, rfl⟩
theorem atoml (x : AtomL) : Statement (.atoml x) := ⟨rfl, rfl, rfl⟩
theorem cpy (x : Cpy) : Statement (.cpy x) := ⟨rfl, rfl, rfl⟩
theorem cpyh (x : CpyH) : Statement (.cpyh x) := ⟨rfl, rfl, rfl⟩
theorem cpyout (x : CpyOut) : Statement (.cpyout x) := ⟨rfl, rfl, rfl⟩
theorem cpywp (x : CpyWp) : Statement (.cpywp x) := ⟨rfl, rfl, rfl⟩
theorem cpywait (x : CpyWait) : Statement (.cpywait x) := ⟨rfl, rfl, rfl⟩
theorem barArr (x : BarD) : Statement (.barArr x) := ⟨rfl, rfl, rfl⟩
theorem barWait (x : BarWait) : Statement (.barWait x) := ⟨rfl, rfl, rfl⟩
theorem barSync (x : BarSync) : Statement (.barSync x) := ⟨rfl, rfl, rfl⟩
theorem barDefer (x : BarDefer) : Statement (.barDefer x) := ⟨rfl, rfl, rfl⟩
theorem barLast (x : BarD) : Statement (.barLast x) := ⟨rfl, rfl, rfl⟩
theorem launch (x : LaunchI) : Statement (.launch x) := ⟨rfl, rfl, rfl⟩
theorem tdone (x : INone) : Statement (.tdone x) := ⟨rfl, rfl, rfl⟩
theorem atom (x : Atom) : Statement (.atom x) := ⟨rfl, rfl, rfl⟩
theorem red (x : Atom) : Statement (.red x) := ⟨rfl, rfl, rfl⟩
theorem atomr (x : UBin) : Statement (.atomr x) := ⟨rfl, rfl, rfl⟩
theorem fence (x : Fence) : Statement (.fence x) := ⟨rfl, rfl, rfl⟩
theorem ldra (x : OMem) : Statement (.ldra x) := ⟨rfl, rfl, rfl⟩
theorem qfence (x : QFence) : Statement (.qfence x) := ⟨rfl, rfl, rfl⟩
theorem waitc (x : Waitc) : Statement (.waitc x) := ⟨rfl, rfl, rfl⟩
theorem rget (x : Rmt) : Statement (.rget x) := ⟨rfl, rfl, rfl⟩
theorem rput (x : Rmt) : Statement (.rput x) := ⟨rfl, rfl, rfl⟩
theorem ratom (x : RAtom) : Statement (.ratom x) := ⟨rfl, rfl, rfl⟩
theorem laclr (x : LaX) : Statement (.laclr x) := ⟨rfl, rfl, rfl⟩
theorem laadd (x : LaAdd) : Statement (.laadd x) := ⟨rfl, rfl, rfl⟩
theorem lamad (x : LaMad) : Statement (.lamad x) := ⟨rfl, rfl, rfl⟩
theorem lamrg (x : LaMrg) : Statement (.lamrg x) := ⟨rfl, rfl, rfl⟩
theorem larnd (x : LaRnd) : Statement (.larnd x) := ⟨rfl, rfl, rfl⟩
theorem lald (x : LaMem) : Statement (.lald x) := ⟨rfl, rfl, rfl⟩
theorem lasv (x : LaMem) : Statement (.lasv x) := ⟨rfl, rfl, rfl⟩
theorem lafl (x : LaFl) : Statement (.lafl x) := ⟨rfl, rfl, rfl⟩
theorem redla (x : Redla) : Statement (.redla x) := ⟨rfl, rfl, rfl⟩
theorem collSum (x : UMov) : Statement (.collSum x) := ⟨rfl, rfl, rfl⟩
theorem collMin (x : UMov) : Statement (.collMin x) := ⟨rfl, rfl, rfl⟩
theorem collMax (x : UMov) : Statement (.collMax x) := ⟨rfl, rfl, rfl⟩
theorem collHist (x : UMov) : Statement (.collHist x) := ⟨rfl, rfl, rfl⟩
theorem collRank (x : UMov) : Statement (.collRank x) := ⟨rfl, rfl, rfl⟩
theorem collSelect (x : UMov) : Statement (.collSelect x) := ⟨rfl, rfl, rfl⟩
theorem collStat (x : UMov) : Statement (.collStat x) := ⟨rfl, rfl, rfl⟩
theorem collBcast (x : UMov) : Statement (.collBcast x) := ⟨rfl, rfl, rfl⟩
theorem mma (x : Mma) : Statement (.mma x) := ⟨rfl, rfl, rfl⟩
theorem mmad (x : Mma) : Statement (.mmad x) := ⟨rfl, rfl, rfl⟩
theorem mdrain (x : MDrain) : Statement (.mdrain x) := ⟨rfl, rfl, rfl⟩
theorem mzero (x : MZero) : Statement (.mzero x) := ⟨rfl, rfl, rfl⟩
theorem mkld (x : MTile) : Statement (.mkld x) := ⟨rfl, rfl, rfl⟩
theorem mkst (x : MTile) : Statement (.mkst x) := ⟨rfl, rfl, rfl⟩
theorem dpld (x : Dpld) : Statement (.dpld x) := ⟨rfl, rfl, rfl⟩
theorem dpinv (x : Dpinv) : Statement (.dpinv x) := ⟨rfl, rfl, rfl⟩
theorem mstat (x : MStat) : Statement (.mstat x) := ⟨rfl, rfl, rfl⟩
theorem dmov (x : DUn) : Statement (.dmov x) := ⟨rfl, rfl, rfl⟩
theorem dmovI (x : DMovI) : Statement (.dmovI x) := ⟨rfl, rfl, rfl⟩
theorem drow (x : DPos) : Statement (.drow x) := ⟨rfl, rfl, rfl⟩
theorem dcol (x : DPos) : Statement (.dcol x) := ⟨rfl, rfl, rfl⟩
theorem dlds (x : DLds) : Statement (.dlds x) := ⟨rfl, rfl, rfl⟩
theorem dadd (x : DTBin) : Statement (.dadd x) := ⟨rfl, rfl, rfl⟩
theorem dmul (x : DTBin) : Statement (.dmul x) := ⟨rfl, rfl, rfl⟩
theorem dfma (x : DTTern) : Statement (.dfma x) := ⟨rfl, rfl, rfl⟩
theorem dmin (x : DTBin) : Statement (.dmin x) := ⟨rfl, rfl, rfl⟩
theorem dmax (x : DTBin) : Statement (.dmax x) := ⟨rfl, rfl, rfl⟩
theorem dclamp (x : DTTern) : Statement (.dclamp x) := ⟨rfl, rfl, rfl⟩
theorem dsel (x : DSelI) : Statement (.dsel x) := ⟨rfl, rfl, rfl⟩
theorem dcmp (x : DCmpI) : Statement (.dcmp x) := ⟨rfl, rfl, rfl⟩
theorem dscale (x : DSide) : Statement (.dscale x) := ⟨rfl, rfl, rfl⟩
theorem dbias (x : DSide) : Statement (.dbias x) := ⟨rfl, rfl, rfl⟩
theorem dcvt (x : DCvtI) : Statement (.dcvt x) := ⟨rfl, rfl, rfl⟩
theorem dexp2 (x : DTUn) : Statement (.dexp2 x) := ⟨rfl, rfl, rfl⟩
theorem drcp (x : DTUn) : Statement (.drcp x) := ⟨rfl, rfl, rfl⟩
theorem dst (x : DStI) : Statement (.dst x) := ⟨rfl, rfl, rfl⟩
theorem dstv (x : DStvI) : Statement (.dstv x) := ⟨rfl, rfl, rfl⟩
theorem dla (x : DLaI) : Statement (.dla x) := ⟨rfl, rfl, rfl⟩
theorem clauseStart (x : EvSplit) : Statement (.clauseStart x) := ⟨rfl, rfl, rfl⟩
theorem pauseExpiry (x : EvGroup) : Statement (.pauseExpiry x) := ⟨rfl, rfl, rfl⟩
theorem variableLatencyResultArrival (x : EvArrival) : Statement (.variableLatencyResultArrival x) := ⟨rfl, rfl, rfl⟩
theorem waitSatisfied (x : EvSplit) : Statement (.waitSatisfied x) := ⟨rfl, rfl, rfl⟩
theorem regpoolEviction (x : EvCore) : Statement (.regpoolEviction x) := ⟨rfl, rfl, rfl⟩
theorem takeClassATrap (x : EvGroup) : Statement (.takeClassATrap x) := ⟨rfl, rfl, rfl⟩
theorem groupEnd (x : EvGroup) : Statement (.groupEnd x) := ⟨rfl, rfl, rfl⟩
theorem corralSort (x : EvTeam) : Statement (.corralSort x) := ⟨rfl, rfl, rfl⟩
theorem coreUncorrectableError (x : EvCore) : Statement (.coreUncorrectableError x) := ⟨rfl, rfl, rfl⟩
theorem watchdogExpiry (x : EvGroup) : Statement (.watchdogExpiry x) := ⟨rfl, rfl, rfl⟩
theorem distributorTakeLaunch (x : EvTake) : Statement (.distributorTakeLaunch x) := ⟨rfl, rfl, rfl⟩
theorem teamDispatch (x : EvDispatch) : Statement (.teamDispatch x) := ⟨rfl, rfl, rfl⟩
theorem teamBitmapSet (x : EvTeam) : Statement (.teamBitmapSet x) := ⟨rfl, rfl, rfl⟩
theorem launchComplete (x : EvLaunch) : Statement (.launchComplete x) := ⟨rfl, rfl, rfl⟩
theorem completionRingPost (x : EvCtx) : Statement (.completionRingPost x) := ⟨rfl, rfl, rfl⟩
theorem timeSliceExpiry (x : EvCtxCore) : Statement (.timeSliceExpiry x) := ⟨rfl, rfl, rfl⟩
theorem priorityPreemption (x : EvCtxCore) : Statement (.priorityPreemption x) := ⟨rfl, rfl, rfl⟩
theorem groupEviction (x : EvGroup) : Statement (.groupEviction x) := ⟨rfl, rfl, rfl⟩
theorem groupResume (x : EvResume) : Statement (.groupResume x) := ⟨rfl, rfl, rfl⟩
theorem homeAccess (x : EvHome) : Statement (.homeAccess x) := ⟨rfl, rfl, rfl⟩
theorem atomicUnitOperation (x : EvAtomic) : Statement (.atomicUnitOperation x) := ⟨rfl, rfl, rfl⟩
theorem ldraFlush (x : EvOp) : Statement (.ldraFlush x) := ⟨rfl, rfl, rfl⟩
theorem monitorRegister (x : EvMonitor) : Statement (.monitorRegister x) := ⟨rfl, rfl, rfl⟩
theorem monitorRecheck (x : EvMonitor) : Statement (.monitorRecheck x) := ⟨rfl, rfl, rfl⟩
theorem tableWalk (x : EvWalk) : Statement (.tableWalk x) := ⟨rfl, rfl, rfl⟩
theorem packetResend (x : EvOp) : Statement (.packetResend x) := ⟨rfl, rfl, rfl⟩
theorem copyChannelOperation (x : EvCopy) : Statement (.copyChannelOperation x) := ⟨rfl, rfl, rfl⟩
theorem deferredArrivalPerform (x : EvDeferred) : Statement (.deferredArrivalPerform x) := ⟨rfl, rfl, rfl⟩
theorem matrixPromotion (x : EvMatrix) : Statement (.matrixPromotion x) := ⟨rfl, rfl, rfl⟩
theorem matrixGrant (x : EvMatrix) : Statement (.matrixGrant x) := ⟨rfl, rfl, rfl⟩
theorem matrixQueueOperationPerform (x : EvMatMove) : Statement (.matrixQueueOperationPerform x) := ⟨rfl, rfl, rfl⟩
theorem dpldInstall (x : EvCluster) : Statement (.dpldInstall x) := ⟨rfl, rfl, rfl⟩
theorem dpinvPerform (x : EvCluster) : Statement (.dpinvPerform x) := ⟨rfl, rfl, rfl⟩
theorem drainElement (x : EvDrain) : Statement (.drainElement x) := ⟨rfl, rfl, rfl⟩
theorem remoteOperationPerform (x : EvRemote) : Statement (.remoteOperationPerform x) := ⟨rfl, rfl, rfl⟩
theorem windowAccess (x : EvWindow) : Statement (.windowAccess x) := ⟨rfl, rfl, rfl⟩
theorem remoteFrameAccess (x : EvFrame) : Statement (.remoteFrameAccess x) := ⟨rfl, rfl, rfl⟩
theorem remoteRetryResend (x : EvOp) : Statement (.remoteRetryResend x) := ⟨rfl, rfl, rfl⟩
theorem retryPeriodExpiry (x : EvOp) : Statement (.retryPeriodExpiry x) := ⟨rfl, rfl, rfl⟩
theorem collContribution (x : EvContrib) : Statement (.collContribution x) := ⟨rfl, rfl, rfl⟩
theorem collPartialReceive (x : EvPartial) : Statement (.collPartialReceive x) := ⟨rfl, rfl, rfl⟩
theorem collResultDelivery (x : EvCollEnd) : Statement (.collResultDelivery x) := ⟨rfl, rfl, rfl⟩
theorem collInstanceTimeout (x : EvInst) : Statement (.collInstanceTimeout x) := ⟨rfl, rfl, rfl⟩
theorem flitReceive (x : EvFlit) : Statement (.flitReceive x) := ⟨rfl, rfl, rfl⟩
theorem nakReceive (x : EvNak) : Statement (.nakReceive x) := ⟨rfl, rfl, rfl⟩
theorem portDown (x : EvPort) : Statement (.portDown x) := ⟨rfl, rfl, rfl⟩
theorem portUp (x : EvPort) : Statement (.portUp x) := ⟨rfl, rfl, rfl⟩
theorem lendingPeriod (x : EvPort) : Statement (.lendingPeriod x) := ⟨rfl, rfl, rfl⟩
theorem lendingFlitReceive (x : EvLend) : Statement (.lendingFlitReceive x) := ⟨rfl, rfl, rfl⟩
theorem issueSlotSelection : Statement .issueSlotSelection := ⟨rfl, rfl, rfl⟩
theorem flitTransmission (x : EvSend) : Statement (.flitTransmission x) := ⟨rfl, rfl, rfl⟩
theorem storeAcknowledgement (x : EvOp) : Statement (.storeAcknowledgement x) := ⟨rfl, rfl, rfl⟩
theorem multicastDelivery (x : EvMulticast) : Statement (.multicastDelivery x) := ⟨rfl, rfl, rfl⟩
theorem keyChangeMarker (x : EvMarker) : Statement (.keyChangeMarker x) := ⟨rfl, rfl, rfl⟩
theorem markerReceive (x : EvMarker) : Statement (.markerReceive x) := ⟨rfl, rfl, rfl⟩
theorem rekeyThreshold (x : EvPort) : Statement (.rekeyThreshold x) := ⟨rfl, rfl, rfl⟩
theorem rekeyStallTimeout (x : EvPort) : Statement (.rekeyStallTimeout x) := ⟨rfl, rfl, rfl⟩
theorem islandPowerGood (x : EvPower) : Statement (.islandPowerGood x) := ⟨rfl, rfl, rfl⟩
theorem stateAnnouncementReceive (x : EvAnnounce) : Statement (.stateAnnouncementReceive x) := ⟨rfl, rfl, rfl⟩
theorem peerUnreachableTimeout (x : EvPeer) : Statement (.peerUnreachableTimeout x) := ⟨rfl, rfl, rfl⟩
theorem managementRequest (x : EvMgmt) : Statement (.managementRequest x) := ⟨rfl, rfl, rfl⟩
theorem dieBoot (x : EvBoot) : Statement (.dieBoot x) := ⟨rfl, rfl, rfl⟩
theorem dieFaultReport (x : EvDie) : Statement (.dieFaultReport x) := ⟨rfl, rfl, rfl⟩
theorem heartbeatMiss (x : EvDie) : Statement (.heartbeatMiss x) := ⟨rfl, rfl, rfl⟩
theorem thermalThrottle (x : EvThermal) : Statement (.thermalThrottle x) := ⟨rfl, rfl, rfl⟩
theorem thermalShutdown (x : EvThermal) : Statement (.thermalShutdown x) := ⟨rfl, rfl, rfl⟩
theorem thermalReturn (x : EvThermal) : Statement (.thermalReturn x) := ⟨rfl, rfl, rfl⟩
theorem debugHalt (x : EvGroup) : Statement (.debugHalt x) := ⟨rfl, rfl, rfl⟩
theorem featreq1Write (x : EvVal) : Statement (.featreq1Write x) := ⟨rfl, rfl, rfl⟩
theorem qtailWrite (x : EvQTail) : Statement (.qtailWrite x) := ⟨rfl, rfl, rfl⟩
theorem crheadWrite (x : EvCrHead) : Statement (.crheadWrite x) := ⟨rfl, rfl, rfl⟩
theorem retryWrite (x : EvVal) : Statement (.retryWrite x) := ⟨rfl, rfl, rfl⟩
theorem curbbudgetWrite (x : EvVal) : Statement (.curbbudgetWrite x) := ⟨rfl, rfl, rfl⟩
theorem registerWrite (x : EvRegWrite) : Statement (.registerWrite x) := ⟨rfl, rfl, rfl⟩
theorem hostRead (x : EvHost) : Statement (.hostRead x) := ⟨rfl, rfl, rfl⟩
theorem hostWrite (x : EvHost) : Statement (.hostWrite x) := ⟨rfl, rfl, rfl⟩
theorem hostAtomic (x : EvHost) : Statement (.hostAtomic x) := ⟨rfl, rfl, rfl⟩
theorem hostRegisterAccess (x : EvHost) : Statement (.hostRegisterAccess x) := ⟨rfl, rfl, rfl⟩
theorem unassignedOpcode (x : EvWord) : Statement (.unassignedOpcode x) := ⟨rfl, rfl, rfl⟩
theorem linkKeyLoad (x : EvLinkKey) : Statement (.linkKeyLoad x) := ⟨rfl, rfl, rfl⟩
theorem dnop : Statement .dnop := ⟨rfl, rfl, rfl⟩
theorem dend : Statement .dend := ⟨rfl, rfl, rfl⟩
theorem curbWindowStart : Statement .curbWindowStart := ⟨rfl, rfl, rfl⟩
theorem computeJoin : Statement .computeJoin := ⟨rfl, rfl, rfl⟩
theorem computeLeave : Statement .computeLeave := ⟨rfl, rfl, rfl⟩
theorem islandResetRequest : Statement .islandResetRequest := ⟨rfl, rfl, rfl⟩
theorem islandPowerLoss : Statement .islandPowerLoss := ⟨rfl, rfl, rfl⟩
theorem bootWindowExpiry : Statement .bootWindowExpiry := ⟨rfl, rfl, rfl⟩
theorem ctxStart : Statement .ctxStart := ⟨rfl, rfl, rfl⟩
theorem ctxEnd : Statement .ctxEnd := ⟨rfl, rfl, rfl⟩
theorem resUpdate : Statement .resUpdate := ⟨rfl, rfl, rfl⟩
theorem tlbInv : Statement .tlbInv := ⟨rfl, rfl, rfl⟩
theorem keyLoad : Statement .keyLoad := ⟨rfl, rfl, rfl⟩
theorem keyClear : Statement .keyClear := ⟨rfl, rfl, rfl⟩
theorem attest : Statement .attest := ⟨rfl, rfl, rfl⟩
theorem dbgAttach : Statement .dbgAttach := ⟨rfl, rfl, rfl⟩
theorem dbgDetach : Statement .dbgDetach := ⟨rfl, rfl, rfl⟩
theorem dbgHalt : Statement .dbgHalt := ⟨rfl, rfl, rfl⟩
theorem dbgResume : Statement .dbgResume := ⟨rfl, rfl, rfl⟩
theorem dbgLocate : Statement .dbgLocate := ⟨rfl, rfl, rfl⟩
theorem badCommand : Statement .badCommand := ⟨rfl, rfl, rfl⟩

end Sys2Proof.Laws.Kind
end

