-- ==== Sys2Proof/Laws/Results.lean ====
section
/-! SUPPORT. The register families, said once: what an instruction whose effect is one result in the lanes answers. -/

namespace Sys2Proof.Machine

variable {s : State} {g : Group} {p : Split}

/-- Values an instruction computes from what it read are the same before and after its last reads. -/
theorem lastReads_reads (x : Iss) (w : View) :
    (x.lastReads w).s0 = x.s0 ∧ (x.lastReads w).g0 = x.g0 ∧ (x.lastReads w).p0 = x.p0 ∧ (x.lastReads w).act = x.act := by
  unfold Iss.lastReads
  exact ⟨rfl, rfl, rfl, rfl⟩

/-- What HOLD copies is what the instruction read, whatever its effect on the group. -/
theorem held_group (x : Iss) (h : Group) (w : View) : ({ x with g := h } : Iss).held w = x.held w := rfl

/-- An instruction whose whole effect is a value for each active thread (R111). -/
theorem runCore_writeV (m : Meaning) {d : Opnd} {regs : Nat} (f : Iss → Nat → Word64) (h : Issues s g p)
    (hc : Clear (issueOf s g p m.view) m.view m.data) (hr : RoomFor (issueOf s g p m.view) m.view d regs)
    (h12 : regs = 1 ∨ regs = 2) (hn : m.nonIdem = fun _ => false) (hd : m.det = fun _ => false)
    (hb : m.body = fun i => i.writeV d regs (f i))
    (hf : f ((issueOf s g p m.view).lastReads m.view) = f (issueOf s g p m.view)) :
    ∃ h', runCore m s = .next (goesOn s h' (holding (issueOf s g p m.view) m.view) m.lit)
      ∧ RestKept (issueOf s g p m.view) h' ∧ h'.threads = g.threads
      ∧ Lanes (issueOf s g p m.view) m.view d regs (f (issueOf s g p m.view)) h' := by
  obtain ⟨h', e, o, l⟩ := writeV_spec hr h12 (f (issueOf s g p m.view))
  have hb' : m.body ((issueOf s g p m.view).lastReads m.view) = .ok { issueOf s g p m.view with g := h' } := by
    rw [hb]
    show Iss.writeV _ d regs (f _) = _
    rw [hf, e]
  have hk : h'.key = g.key := by rw [o]
  refine ⟨counted (issueOf s g p m.view) h', ?_, ?_, ?_, ⟨l.1, l.2⟩⟩
  · rw [runCore_seq m h hc hn hd hb' rfl rfl hk rfl rfl rfl, held_group]
    rfl
  · unfold RestKept
    rw [o]
    rfl
  · show h'.threads = _
    rw [o]

end Sys2Proof.Machine
end

