-- ==== Sys2Proof/Tests/Slice0.lean ====
section
/-! SUPPORT. Tests of the model: for every statement of the obligations small states and operands that meet its hypotheses, clause by
clause; for every instruction a word laid out from the encoding tables that decodes to it; an ill-formed term for each check; and
values worked by hand from the rules, or given by the spec. -/

namespace Sys2Proof.Tests

open Sys2Proof Sys2Proof.Machine

set_option Elab.async false

/-! ## Small states

One group of sixteen threads, its one split about to issue; addresses below 2^30 are mapped onto themselves with every
permission, and the context holds key slot 0. -/

/-- a registers: a0 covers 0x1000 to 0x2000, a1 is misaligned, a2 has no permission, a15 the private window. -/
def images : List AReg :=
  ⟨0x1000, 0x1000, 0x2000, true, true, true, false⟩ :: ⟨0x1002, 0x1000, 0x2000, true, true, true, false⟩ ::
    ⟨0x1000, 0x1000, 0x2000, false, false, false, false⟩ :: (List.replicate 12 AReg.zero).concat (a15 0x4000 16)

/-- A split of some threads, with its s registers. -/
def splitOf (m : Mask) (s : List Word64) : Split :=
  { Split.fresh m 0x8000 s (a15 0 0) with st := .issuing, header := 0x0021F000#64, code := [0, 0], a := images }

/-- s0 = 0, s1 = 64, s2 = 3, s3 = 0x100, s4 = 0x40, s5 = 0x8040; the rest 0. -/
def sRegs : List Word64 := [0, 64, 3, 0x100, 0x40, 0x8040] ++ List.replicate 58 0

def all16 : Mask := maskOf 16 (fun _ => true)

/-- The split of the tests: sixteen active threads. -/
def P : Split := splitOf all16 sRegs

def kG : GroupKey := ⟨⟨1, 0⟩, 0, false⟩

/-- A group with that one split, two wide and one narrow accumulators a thread. -/
def groupOf (p : Split) : Group :=
  { Group.fresh kG 0 0 LRec.zero ((List.range 16).map (fun t => Thread.fresh t t 2 1)) p with trap := .fresh 0x9000 }
def G : Group := groupOf P

def tm0 : Team := { Team.fresh ⟨1, 0⟩ 0 0 false false 4096 0 0 0 0 none with resBase := 10, resCount := 100 }

/-- Tables at 2^30 that map the first GiB onto itself with every permission. -/
def tables : List Host.Cell :=
  cellWrite (cellWrite (cellWrite [] (2 ^ 30) (leBytes 8 0x40002003)) 0x40002000 (leBytes 8 0x40004003)) 0x40004000 (leBytes 8 0xC39)

def stateOf (g : Group) : State :=
  { State.reset with
    sched := { State.reset.sched with cur := some ⟨g.key, 0⟩ }
    groups := [g]
    teams := [tm0]
    launches := [Launch.fresh 1 0 0 0 LRec.zero]
    ctxs := [{ Context.fresh 0 with keys := 1, root := 2 ^ 30 }]
    mem := { State.reset.mem with cells := tables }
    pkg := { State.reset.pkg with keys := [(0, 7)] } }
def S : State := stateOf G

/-! ## Hypotheses as checks -/

def issuesB (s : State) (g : Group) (p : Split) : Bool :=
  decide (s.issuer = some (g, p)) && !g.key.shadow && decide (s.shadowOf g p.sid = none)
theorem issues_of {s : State} {g : Group} {p : Split} (h : issuesB s g p = true) : Issues s g p := by
  simp only [issuesB, Bool.and_eq_true, decide_eq_true_eq, Bool.not_eq_true'] at h
  exact ⟨h.1.1, h.1.2, h.2⟩

def clearB (x : Iss) (w : View) (data : Option Opnd := none) : Bool :=
  (x.stalledOn w).isNone && !x.s0.passWaits { x.k with shadow := false } && (match x.flag? with | some n => decide (x.g0.flag n < 63) | none => true)
    && (x.expired w data).isNone && (x.staleW w data).isNone
theorem clear_of {x : Iss} {w : View} {data : Option Opnd} (h : clearB x w data = true) : Clear x w data := by
  simp only [clearB, Bool.and_eq_true, Option.isNone_iff_eq_none, Bool.not_eq_true'] at h
  obtain ⟨⟨⟨⟨h1, h5⟩, h2⟩, h3⟩, h4⟩ := h
  refine ⟨h1, h5, fun n hn => ?_, fun _ => h3, fun _ => h4⟩
  rw [hn] at h2
  simpa using h2

theorem checked_of {x : Iss} (h : x.s0.unchecked x.k x.sid x.p0.region = false) : Checked x := h

theorem not_checked_of {x : Iss} (h : x.s0.unchecked x.k x.sid x.p0.region = true) : ¬Checked x := fun c => by
  have c : x.s0.unchecked x.k x.sid x.p0.region = false := c
  rw [h] at c
  cases c

/-- A property of every thread of a mask, checked thread by thread. -/
theorem all_act {m : Mask} {P : Nat → Prop} [DecidablePred P]
    (h : ((List.range 512).all (fun t => !m.getLsbD t || decide (P t))) = true) (t : Nat) (ht : m.getLsbD t = true) : P t := by
  have hl : t < 512 := by
    rcases Nat.lt_or_ge t 512 with hl | hl
    · exact hl
    · rw [BitVec.getLsbD_of_ge m t hl] at ht
      exact absurd ht (by decide)
  have := List.all_eq_true.1 h t (List.mem_range.2 hl)
  simpa [ht] using this

theorem iS : Issues S G P := issues_of (by decide +kernel)

/-! ## Each statement's hypotheses are met: registers and control -/

def C : Ctl := Ctl.plain
/-- The issue of an instruction with a view, in the state of the tests. -/
abbrev I (w : View) : Iss := issueOf S G P w

theorem witness_LaneIntegerResult : ∃ i r w s g p, Claims.laneInteger i = some r ∧ i.view = some w ∧ Issues s g p
    ∧ Clear (issueOf s g p w) w ∧ RoomFor (issueOf s g p w) w r.d r.regs :=
  ⟨.iadd ⟨C, .i32, false, .v 255, .s 2, .imm 0x3FFFF⟩, _, _, S, G, P, rfl, rfl, iS, clear_of (by decide +kernel), by
    unfold RoomFor; decide +kernel⟩
theorem witness_LaneFloatResult : ∃ i r w s g p, Claims.laneFloat i = some r ∧ i.view = some w ∧ Issues s g p
    ∧ Clear (issueOf s g p w) w ∧ RoomFor (issueOf s g p w) w r.d r.regs :=
  ⟨.fadd ⟨C, .rn, .f64, .v 4, .v 2, .reg (.v 6)⟩, _, _, S, G, P, rfl, rfl, iS, clear_of (by decide +kernel), by
    unfold RoomFor; decide +kernel⟩
/-- Values that each clause on rounding is about. -/
theorem witness_LaneFloatResult_rounded :
    fF16 ∈ [fF32, fF64, fF16, fBF16] ∧ 0 < 3 ∧ (if (0 : Int) ≤ -1 then 6 * 2 ^ (-1 : Int).toNat = 3 else 6 = 3 * 2 ^ (1 : Int).toNat) ∧ 8 ∈ [8, 16, 32, 64]
    ∧ (∃ v ∈ [FVal.nan true, .inf true], v.isNan = true)
    ∧ (let l := [FVal.inf true, .fin false 1 0]
       (∀ v ∈ l, v.isNan = false) ∧ FVal.inf true ∈ l ∧ FVal.inf (!true) ∉ l ∧ ∀ v ∈ [FVal.inf false, .inf true], v.isNan = false)
    ∧ (∀ v ∈ [FVal.fin true 1 0, .fin false 1 0], v.isNan = false ∧ v ≠ .inf true ∧ v ≠ .inf false)
    ∧ Claims.total [FVal.fin true 1 0, .fin false 1 0] = 0 ∧ Claims.total [FVal.fin true 1 0, .fin false 3 (-1)] ≠ 0 :=
  ⟨by simp, by decide +kernel⟩
theorem witness_LaneExchangeResult : ∃ i r w s g p, Claims.laneExchange i = some r ∧ i.view = some w ∧ Issues s g p
    ∧ Clear (issueOf s g p w) w ∧ RoomFor (issueOf s g p w) w r.d r.regs :=
  ⟨.shfl ⟨C, false, .xor, .v 4, .v 1, .imm 1⟩, _, _, S, G, P, rfl, rfl, iS, clear_of (by decide +kernel), by unfold RoomFor; decide +kernel⟩

theorem witness_MemberResult :
    (∃ (x : Red) (n : BitVec 8), x.d = .v n ∧ Issues S G P ∧ Clear (I (x.view [.v, .w])) (x.view [.v, .w])
      ∧ RoomFor (I (x.view [.v, .w])) (x.view [.v, .w]) x.d (x.op.regs x.flag))
    ∧ (∃ (x : Red) (n : BitVec 5), x.d = .w n ∧ Issues S G P ∧ Clear (I (x.view [.v, .w])) (x.view [.v, .w])
      ∧ RoomForShared (I (x.view [.v, .w])) (x.view [.v, .w]) x.d (x.op.regs x.flag))
    ∧ ∃ x : UMovi, Issues S G P ∧ Clear (I x.movwView) x.movwView ∧ RoomForShared (I x.movwView) x.movwView x.d 1 :=
  ⟨⟨⟨C, false, .add, .v 0, .v 1⟩, 0, rfl, iS, clear_of (by decide +kernel), by unfold RoomFor; decide +kernel⟩,
   ⟨⟨C, false, .add, .w 31, .v 1⟩, 31, rfl, iS, clear_of (by decide +kernel), by unfold RoomForShared; intro; decide +kernel⟩,
   ⟨⟨C, .w 31, .imm 5⟩, iS, clear_of (by decide +kernel), by unfold RoomForShared; intro; decide +kernel⟩⟩

theorem witness_PredicateResult : ∃ i r w n s g p, Claims.predicate i = some r ∧ i.view = some w ∧ r.d = .p n ∧ Issues s g p
    ∧ Clear (issueOf s g p w) w :=
  ⟨.icmp ⟨C, .i32, .lt, .p 7, .v 1, .imm 0⟩, _, _, 7, S, G, P, rfl, rfl, rfl, iS, clear_of (by decide +kernel)⟩
theorem witness_UniformResult : ∃ i r w s g p, Claims.uniform i = some r ∧ i.view = some w ∧ Issues s g p ∧ Clear (issueOf s g p w) w :=
  ⟨.sadd ⟨C, .s 63, .s 1, .imm 1⟩, _, _, S, G, P, rfl, rfl, iS, clear_of (by decide +kernel)⟩


def C1 : Ctl := { Ctl.plain with pred := 1 }
/-- p1 holds in the first octet alone; v1 of the second awaits operation 9. -/
def busyG : Group :=
  { G with threads := G.threads.zipIdx.map (fun t => if t.2 < 8 then t.1.setPred 1 true else t.1)
           v := [{ name := 1, octet := 1, vals := List.replicate 8 0, src := .pool, seq := 0, pend := [], busy := some 9 }] }

theorem witness_RdlaneResult_value : ∃ (x : UBin), Issues S G P ∧ Clear (I x.rdlaneView) x.rdlaneView ∧ (I x.rdlaneView).any = true
    ∧ ((I x.rdlaneView).uniSrc x.b).toNat % 65536 = 15 ∧ (G.vEnt? x.a.num (15 / 8)).bind VEnt.busy = none :=
  ⟨⟨C, .s 0, .v 1, .imm 15⟩, iS, clear_of (by decide +kernel), by decide +kernel, by decide +kernel, by decide +kernel⟩
theorem witness_RdlaneResult_outside : ∃ (x : UBin), Issues S G P ∧ Clear (I x.rdlaneView) x.rdlaneView ∧ (I x.rdlaneView).any = true
    ∧ ((I x.rdlaneView).uniSrc x.b).toNat % 65536 = G.f := ⟨⟨C, .s 0, .v 1, .imm 16⟩, iS, clear_of (by decide +kernel), by decide +kernel, by decide +kernel⟩
theorem witness_RdlaneResult_waits : ∃ (x : UBin), Issues (stateOf busyG) busyG P
    ∧ Clear (issueOf (stateOf busyG) busyG P x.rdlaneView) x.rdlaneView ∧ (issueOf (stateOf busyG) busyG P x.rdlaneView).any = true
    ∧ P.mask.getLsbD 15 = true ∧ busyG.exitedMask.getLsbD 15 = false
    ∧ ((issueOf (stateOf busyG) busyG P x.rdlaneView).uniSrc x.b).toNat % 65536 = 15 ∧ (busyG.vEnt? x.a.num (15 / 8)).bind VEnt.busy = some 9 :=
  ⟨⟨C1, .s 0, .v 1, .imm 15⟩, issues_of (by decide +kernel), clear_of (by decide +kernel), by decide +kernel, by decide +kernel, by decide +kernel,
    by decide +kernel, by decide +kernel⟩

/-- A handler: PRIV is set. -/
def hG : Group := { G with priv := true, handler := some { defer := [], code := cSOFTWARE_TRAP, others := [], since := 0 } }
/-- A regrouped team. -/
def regS : State := { S with teams := [{ tm0 with regrouped := true }] }

theorem witness_AddressRegisterResult :
    (∃ x : ASet, Clear (I x.view) x.view ∧ x.pv = false ∧ (I x.view).regrouped = false)
    ∧ (∃ x : ASet, Issues (stateOf hG) hG P ∧ Clear (issueOf (stateOf hG) hG P x.view) x.view ∧ x.pv = true ∧ hG.priv = true
        ∧ (issueOf (stateOf hG) hG P x.view).regrouped = false)
    ∧ (∃ x : ASet, Clear (I x.view) x.view ∧ x.pv = true ∧ G.priv = false)
    ∧ (∃ x : ASet, Issues regS G P ∧ Clear (issueOf regS G P x.view) x.view ∧ (issueOf regS G P x.view).regrouped = true
        ∧ ((issueOf regS G P x.view).areg x.d).pv = true)
    ∧ (∃ x : UBin, Clear (I x.advView) x.advView)
    ∧ (∃ x : ANarrow, Issues regS G P ∧ Clear (issueOf regS G P x.view) x.view ∧ ((issueOf regS G P x.view).areg x.a).pv = false
        ∧ ((issueOf regS G P x.view).areg x.d).pv = false) :=
  ⟨⟨⟨C, true, true, false, false, .a 15, .s 3, .s 3, .s 5⟩, clear_of (by decide +kernel), rfl, by decide +kernel⟩,
   ⟨⟨C, true, true, false, true, .a 15, .s 3, .s 3, .s 5⟩, issues_of (by decide +kernel), clear_of (by decide +kernel), rfl, rfl, by decide +kernel⟩,
   ⟨⟨C, true, true, false, true, .a 0, .s 3, .s 3, .s 5⟩, clear_of (by decide +kernel), rfl, rfl⟩,
   ⟨⟨C, true, true, false, false, .a 15, .s 3, .s 3, .s 5⟩, issues_of (by decide +kernel), clear_of (by decide +kernel), by decide +kernel, by decide +kernel⟩,
   ⟨⟨C, .a 0, .a 0, .imm 0x3FFFF⟩, clear_of (by decide +kernel)⟩,
   ⟨⟨C, true, false, false, .a 1, .a 0, .s 3, .s 5⟩, issues_of (by decide +kernel), clear_of (by decide +kernel), by decide +kernel, by decide +kernel⟩⟩

theorem witness_SystemRegisters :
    (∃ x : Wrsr, Issues S G P ∧ Clear (I x.view) x.view ∧ x.num = 0) ∧ (∃ x : Wrsr, Clear (I x.view) x.view ∧ x.num ≠ 0)
    ∧ G.priv = false ∧ hG.priv = true ∧ hG.trap.scr.length = 4 :=
  ⟨⟨⟨C, 0, .v 1⟩, iS, clear_of (by decide +kernel), rfl⟩, ⟨⟨C, 0x2F0, .s 1⟩, clear_of (by decide +kernel), by decide⟩, rfl, rfl, rfl⟩

/-- s5 holds 0x41, the address of no clause. -/
def oddP : Split := { P with s := P.s.set 5 0x41#64 }

theorem witness_HintsAndJumps :
    Issues S G P ∧ (∃ x : INone, Clear (I x.view) x.view) ∧ (∃ x : Pause, Clear (I x.view) x.view ∧ x.n = 65535)
    ∧ (∃ x : Bra, Clear (I (x.view true)) (x.view true)) ∧ (∃ x : Call, Clear (I x.view) x.view)
    ∧ (∃ x : Ret, Clear (I x.view) x.view ∧ (I x.view).uni x.a &&& 63#64 = 0#64)
    ∧ ∃ x : Ret, let i := issueOf (stateOf (groupOf oddP)) (groupOf oddP) oddP x.view
      Issues (stateOf (groupOf oddP)) (groupOf oddP) oddP ∧ Clear i x.view ∧ i.uni x.a &&& 63#64 ≠ 0#64 :=
  ⟨iS, ⟨⟨C⟩, clear_of (by decide +kernel)⟩, ⟨⟨C, 65535⟩, clear_of (by decide +kernel), rfl⟩, ⟨⟨C, 0x20000⟩, clear_of (by decide +kernel)⟩,
   ⟨⟨C, 1, .s 63⟩, clear_of (by decide +kernel)⟩, ⟨⟨C, .s 5⟩, clear_of (by decide +kernel), by decide +kernel⟩,
   ⟨⟨C, .s 5⟩, issues_of (by decide +kernel), clear_of (by decide +kernel), by decide +kernel⟩⟩

/-- p1 holds in the even threads. -/
def oddG : Group := { G with threads := G.threads.zipIdx.map (fun t => if t.2 % 2 = 0 then t.1.setPred 1 true else t.1) }
/-- The same with four splits and a full deferral list. -/
def fullP : Split := { P with defer := List.replicate 32 { mask := 1#512, pc := 0x10000#64 } }
def fullG : Group :=
  { oddG with splits := [fullP, { P with sid := 1, mask := 0 }, { P with sid := 2, mask := 0 }, { P with sid := 3, mask := 0 }] }
/-- v2 holds 0x8040 in every thread, v3 0, v4 0x8041. -/
def tgtG : Group :=
  { G with v := [⟨2, 0, List.replicate 8 0x8040, .pool, 0, [], none⟩, ⟨2, 1, List.replicate 8 0x8040, .pool, 1, [], none⟩,
                 ⟨4, 0, List.replicate 8 0x8041, .pool, 2, [], none⟩, ⟨4, 1, List.replicate 8 0x8041, .pool, 3, [], none⟩] }

/-- Four splits and a full deferral list, with 0x80C0 in v2. -/
def fullTgtG : Group := { fullG with v := [⟨2, 0, List.replicate 8 0x80C0, .pool, 0, [], none⟩, ⟨2, 1, List.replicate 8 0x80C0, .pool, 1, [], none⟩] }

theorem witness_BranchesComplete :
    (∃ x : Bra, let w := x.view false; let i := issueOf (stateOf oddG) oddG P w
      let parts := mkParts [(i.act, Claims.clauseAt P x.disp), (oddG.splitLive P &&& ~~~i.act, P.pc + 64)]
      Issues (stateOf oddG) oddG P ∧ Clear i w ∧ parts.length = 2 ∧ (stateOf oddG).unchecked oddG.key P.sid P.region = false
        ∧ Claims.RoomToDivide oddG parts)
    ∧ (∃ x : Bra, let w := x.view false; let i := issueOf (stateOf fullG) fullG fullP w
      let parts := mkParts [(i.act, Claims.clauseAt fullP x.disp), (fullG.splitLive fullP &&& ~~~i.act, fullP.pc + 64)]
      Issues (stateOf fullG) fullG fullP ∧ Clear i w ∧ (stateOf fullG).unchecked fullG.key fullP.sid fullP.region = false
        ∧ ¬Claims.RoomToDivide fullG parts)
    ∧ (∃ x : Brx, let i := issueOf (stateOf tgtG) tgtG P x.view
      Issues (stateOf tgtG) tgtG P ∧ Clear i x.view ∧ (∀ t ∈ i.threads, i.val x.a 2 t &&& 63#64 = 0#64)
        ∧ (mkParts ((i.threads.map (fun t => (BitVec.twoPow 512 t, i.val x.a 2 t))) ++ [((0 : Mask), P.pc + 64)])).length ≤ 1)
    ∧ (∃ x : Brx, let i := issueOf (stateOf tgtG) tgtG P x.view
      Issues (stateOf tgtG) tgtG P ∧ Clear i x.view ∧ 0 ∈ i.threads ∧ i.val x.a 2 0 &&& 63#64 ≠ 0#64)
    ∧ (∃ x : Brx, let i := issueOf (stateOf fullTgtG) fullTgtG fullP x.view
      let taken := i.threads.map (fun t => (BitVec.twoPow 512 t, i.val x.a 2 t))
      Issues (stateOf fullTgtG) fullTgtG fullP ∧ Clear i x.view ∧ (∀ t ∈ i.threads, i.val x.a 2 t &&& 63#64 = 0#64)
        ∧ ¬Claims.RoomToDivide fullTgtG
          (mkParts (taken ++ [(fullTgtG.splitLive fullP &&& ~~~(taken.foldl (fun m q => m ||| q.1) 0#512), fullP.pc + 64)]))) := by
  have h1 : Issues (stateOf oddG) oddG P := issues_of (by decide +kernel)
  have h2 : Issues (stateOf fullG) fullG fullP := issues_of (by decide +kernel)
  have h3 : Issues (stateOf tgtG) tgtG P := issues_of (by decide +kernel)
  have h4 : Issues (stateOf fullTgtG) fullTgtG fullP := issues_of (by decide +kernel)
  refine ⟨⟨⟨C1, 8⟩, h1, clear_of (by decide +kernel), by decide +kernel, by decide +kernel, ?_⟩,
    ⟨⟨C1, 8⟩, h2, clear_of (by decide +kernel), by decide +kernel, ?_⟩,
    ⟨⟨C, .v 2, some (.s 1)⟩, h3, clear_of (by decide +kernel), by decide +kernel, by decide +kernel⟩,
    ⟨⟨C, .v 4, none⟩, h3, clear_of (by decide +kernel), by decide +kernel, by decide +kernel⟩,
    ⟨⟨C1, .v 2, none⟩, h4, clear_of (by decide +kernel), by decide +kernel, ?_⟩⟩ <;>
  · unfold Claims.RoomToDivide; decide +kernel

theorem witness_ExitCompletes : ∃ x : INone, Issues S G P ∧ Clear (I x.view) x.view ∧ Checked (I x.view) :=
  ⟨⟨C⟩, iS, clear_of (by decide +kernel), checked_of (by decide +kernel)⟩

/-- The context has a debugger. -/
def dbgS : State := { S with ctxs := [{ Context.fresh 0 with keys := 1, root := 2 ^ 30, dbg := true }] }
/-- The word in the slot. -/
def wordP : Split := { P with code := [0x3FF, 0] }
def wordG : Group := groupOf wordP

theorem witness_RequestedTraps :
    (∃ x : Trap, Issues S G P ∧ Clear (I x.view) x.view ∧ (I x.view).any = true)
    ∧ (∃ x : INone, Clear (I x.view) x.view ∧ (I x.view).any = true ∧ (I x.view).debugged = false)
    ∧ (∃ x : INone, Issues dbgS G P ∧ Clear (issueOf dbgS G P x.view) x.view ∧ (issueOf dbgS G P x.view).any = true
        ∧ (issueOf dbgS G P x.view).debugged = true)
    ∧ ∃ x : EvWord, Issues (stateOf wordG) wordG wordP ∧ wordP.word = x.w :=
  ⟨⟨⟨C, 255⟩, iS, clear_of (by decide +kernel), by decide +kernel⟩, ⟨⟨C⟩, clear_of (by decide +kernel), by decide +kernel, by decide +kernel⟩,
   ⟨⟨C⟩, issues_of (by decide +kernel), clear_of (by decide +kernel), by decide +kernel, by decide +kernel⟩,
   ⟨⟨0x3FF⟩, issues_of (by decide +kernel), rfl⟩⟩

/-! ## Loads, stores, scratchpad -/

/-- A load of the tests: there are entries and room, whether every piece is served with the issue, and whether a thread faults. -/
def loadReady (s : State) (g : Group) (p : Split) (w : View) (l : LoadSpec) (done faulty : Bool) : Bool :=
  let x := issueOf s g p w
  let got := x.gatherFor (Claims.loadWant l) l.reg l.threads l.ea
  let fits := s.entriesFit x.core got.pieces
  let s2 := Claims.readied x l got
  let near := !l.ldra && fits.2 && l.threads.all (fun t => !s2.serveHeld g.key t)
  let ps := if near then got.pieces.map (fun q => s2.serveNow x.core g.ctx l.ordered q) else got.pieces
  x.any && fits.1 && (!got.faults.isEmpty) == faulty && !ps.isEmpty && (ps.all (fun q => decide (q.st = .done)) && !g.pairchk) == done
    && (match l.dest with
        | .v n r => (x.s0.mapVs (x.lastReads w).g (namesFrom n r) (x.g0.octets (pieceMask got.pieces))).isSome
        | .w n r => (x.s0.mapWs (x.lastReads w).g (namesFrom n r)).isSome
        | _ => true)

/-- Another group of the core holds its 768 request entries, one an operation. -/
def fullOp (n : Nat) : MemOp :=
  { Iss.memOp (I { c := C }) 1 .load 0 [⟨0, 128 * n, 128 * n, 4, 0, [], ⟨0, 0, false, false, 0, 0⟩, .todo, 0⟩] .none 4 false with g := ⟨⟨9, 0⟩, 0, false⟩ }
/-- The offsets of the last eight threads lead past the image. -/
def offG : Group := { G with v := [⟨1, 1, List.replicate 8 0x1000, .pool, 0, [], none⟩] }
def offS : State := stateOf offG
def fullS : State := { S with ops := { S.ops with mem := (List.range 768).map fullOp }, sched := { S.sched with nextId := 5 } }

/-- Loads that miss, through a0; one that hits, in the private window; one whose later threads fall outside its image; and one
that finds no request entry. -/
theorem witness_LoadsIssue :
    (∃ i f w, Claims.loads i = some f ∧ i.view = some w ∧ Issues S G P ∧ Clear (I w) w ∧ loadReady S G P w (f (I w)) false false = true
      ∧ (f (I w)).reg.pv = false)
    ∧ (∃ i f w, Claims.loads i = some f ∧ i.view = some w ∧ Clear (I w) w ∧ loadReady S G P w (f (I w)) true false = true)
    ∧ (∃ i f w, Claims.loads i = some f ∧ i.view = some w ∧ Clear (I w) w ∧ loadReady S G P w (f (I w)) false false = true
        ∧ (f (I w)).ordered = true)
    ∧ (∃ i f w, Claims.loads i = some f ∧ i.view = some w ∧ Clear (I w) w ∧ loadReady S G P w (f (I w)) false false = true
        ∧ (f (I w)).dest = .s 63)
    ∧ (∃ i f w, Claims.loads i = some f ∧ i.view = some w ∧ Clear (I w) w ∧ loadReady S G P w (f (I w)) false false = true
        ∧ (f (I w)).dest = .w 31 1)
    ∧ (∃ i f w, Claims.loads i = some f ∧ i.view = some w ∧ Issues offS offG P ∧ Clear (issueOf offS offG P w) w
        ∧ loadReady offS offG P w (f (issueOf offS offG P w)) false true = true)
    ∧ ∃ i f w, Claims.loads i = some f ∧ i.view = some w ∧ Issues fullS G P ∧ Clear (issueOf fullS G P w) w ∧ (issueOf fullS G P w).any = true
        ∧ (fullS.entriesFit 0 ((issueOf fullS G P w).gatherFor (Claims.loadWant (f (issueOf fullS G P w))) (f (issueOf fullS G P w)).reg
            (f (issueOf fullS G P w)).threads (f (issueOf fullS G P w)).ea).pieces).1 = false :=
  ⟨⟨.ld ⟨C, .n32, .v 255, .a 0, .disp 0xFFC⟩, _, _, rfl, rfl, iS, clear_of (by decide +kernel), by decide +kernel, rfl⟩,
   ⟨.ld ⟨C, .n32, .v 8, .a 15, .disp 0x3C⟩, _, _, rfl, rfl, clear_of (by decide +kernel), by decide +kernel⟩,
   ⟨.ldra ⟨C, true, .dev, .v 8, .a 0, .disp 0⟩, _, _, rfl, rfl, clear_of (by decide +kernel), by decide +kernel, rfl⟩,
   ⟨.ldu ⟨C, .n64, .s 63, .a 0, .disp 8⟩, _, _, rfl, rfl, clear_of (by decide +kernel), by decide +kernel, rfl⟩,
   ⟨.ldw ⟨C, .i8, .w 31, .a 0, .disp 8⟩, _, _, rfl, rfl, clear_of (by decide +kernel), by decide +kernel, rfl⟩,
   ⟨.ld ⟨C, .n32, .v 8, .a 0, .idx (.v 1) .x1 0⟩, _, _, rfl, rfl, issues_of (by decide +kernel), clear_of (by decide +kernel), by decide +kernel⟩,
   ⟨.ld ⟨C, .n32, .v 255, .a 0, .disp 0xFFC⟩, _, _, rfl, rfl, issues_of (by decide +kernel), clear_of (by decide +kernel), by decide +kernel, by decide +kernel⟩⟩

/-- A store of the tests: there are entries, whether every piece is performed with the issue, and whether a thread faults. -/
def storeReady (s : State) (g : Group) (p : Split) (w : View) (l : StoreSpec) (done faulty : Bool) : Bool :=
  let x := issueOf s g p w
  let got := x.gatherFor { perm := .store, allowed := AReg.wr, size := l.size, placed := l.placed } l.reg x.threads l.ea
  let fits := s.entriesFit x.core got.pieces
  let late := l.ordered || !fits.2 || got.pieces.any (fun q => q.attr.sc)
    || x.threads.any (fun t => s.acquiring g.key t || s.releasing g.key t) || s.behind g.key got.pieces
  let qs := got.pieces.map (fun q => q.withData (l.bytes q.thread))
  let r := if late then (x.walked got, qs) else (x.walked got).storesNow x.core g.ctx l.reg.pv qs
  x.any && fits.1 && (!got.faults.isEmpty) == faulty && !got.pieces.isEmpty && r.2.all (fun q => decide (q.st = .done)) == done

theorem witness_StoresIssue :
    (∃ i d f w, Claims.stores i = some (d, f) ∧ i.view = some w ∧ Issues S G P ∧ Clear (I w) w (some d)
      ∧ storeReady S G P w (f (I w)) false false = true ∧ (f (I w)).reg.pv = false)
    ∧ (∃ i d f w, Claims.stores i = some (d, f) ∧ i.view = some w ∧ Clear (I w) w (some d) ∧ storeReady S G P w (f (I w)) true false = true)
    ∧ (∃ i d f w, Claims.stores i = some (d, f) ∧ i.view = some w ∧ Clear (I w) w (some d) ∧ storeReady S G P w (f (I w)) false false = true
        ∧ (f (I w)).ordered = true)
    ∧ (∃ i d f w, Claims.stores i = some (d, f) ∧ i.view = some w ∧ Issues offS offG P ∧ Clear (issueOf offS offG P w) w (some d)
        ∧ storeReady offS offG P w (f (issueOf offS offG P w)) false true = true)
    ∧ ∃ i d f w, Claims.stores i = some (d, f) ∧ i.view = some w ∧ Issues fullS G P ∧ Clear (issueOf fullS G P w) w (some d)
        ∧ (issueOf fullS G P w).any = true
        ∧ (fullS.entriesFit 0 ((issueOf fullS G P w).gatherFor
            { perm := .store, allowed := AReg.wr, size := (f (issueOf fullS G P w)).size, placed := (f (issueOf fullS G P w)).placed }
            (f (issueOf fullS G P w)).reg (issueOf fullS G P w).threads (f (issueOf fullS G P w)).ea).pieces).1 = false :=
  ⟨⟨.st ⟨C, .n64, .v 8, .a 0, .disp 0xFF8⟩, _, _, _, rfl, rfl, iS, clear_of (by decide +kernel), by decide +kernel, rfl⟩,
   ⟨.st ⟨C, .n32, .v 8, .a 15, .disp 0⟩, _, _, _, rfl, rfl, clear_of (by decide +kernel), by decide +kernel⟩,
   ⟨.stRel ⟨C, false, .team, .v 8, .a 0, .disp 0⟩, _, _, _, rfl, rfl, clear_of (by decide +kernel), by decide +kernel, rfl⟩,
   ⟨.st ⟨C, .n32, .v 8, .a 0, .idx (.v 1) .x1 0⟩, _, _, _, rfl, rfl, issues_of (by decide +kernel), clear_of (by decide +kernel), by decide +kernel⟩,
   ⟨.st ⟨C, .n64, .v 8, .a 0, .disp 0xFF8⟩, _, _, _, rfl, rfl, issues_of (by decide +kernel), clear_of (by decide +kernel), by decide +kernel, by decide +kernel⟩⟩

/-- The pieces of a prefetch. -/
def prefPieces (s : State) (x : Pref) : List Piece :=
  let i := issueOf s G P x.view
  (i.gatherFor { perm := .load, allowed := AReg.rd, size := 1 } (i.areg x.a) i.threads
    (fun t => Int.ofNat (i.areg x.a).ptr.toNat + i.addrOff x.addr t)).pieces
theorem witness_PrefetchIssues :
    (∃ x : Pref, Issues S G P ∧ Clear (I x.view) x.view ∧ prefPieces S x ≠ [] ∧ (S.entriesFit 0 (prefPieces S x)).1 = true)
    ∧ (∃ x : Pref, Clear (I x.view) x.view ∧ prefPieces S x = [])
    ∧ ∃ x : Pref, Issues fullS G P ∧ Clear (issueOf fullS G P x.view) x.view ∧ prefPieces fullS x ≠ []
        ∧ (fullS.entriesFit 0 (prefPieces fullS x)).1 = false :=
  ⟨⟨⟨C, .l1, .a 0, .disp 0⟩, iS, clear_of (by decide +kernel), by decide +kernel, by decide +kernel⟩,
   ⟨⟨C, .l1, .a 2, .disp 0⟩, clear_of (by decide +kernel), by decide +kernel⟩,
   ⟨⟨C, .l1, .a 0, .disp 0⟩, issues_of (by decide +kernel), clear_of (by decide +kernel), by decide +kernel, by decide +kernel⟩⟩
theorem witness_FaultSelection : ∃ fs : List ThrFault, fs ≠ [] ∧ ∀ e ∈ fs, e.thread < 512 :=
  ⟨[⟨511, cADDR_BOUNDS, 0, false, none⟩, ⟨0, cALIGN, 4, false, none⟩], by decide, by decide⟩

theorem witness_ScratchpadLoad : ∃ (x : Sys2Proof.Mem) (tm : Team),
    Issues S G P ∧ Clear (I (x.view [.v] [.s] offSrc)) (x.view [.v] [.s] offSrc) ∧ S.team? G.key.team = some tm
    ∧ (∀ t, (I (x.view [.v] [.s] offSrc)).act.getLsbD t = true → tm.spadIn (Claims.offset (I (x.view [.v] [.s] offSrc)) x.a x.addr t) x.w.bytes = true)
    ∧ DestRoom (I (x.view [.v] [.s] offSrc)) (x.view [.v] [.s] offSrc) (.v x.d.num x.w.regs) (I (x.view [.v] [.s] offSrc)).act :=
  ⟨⟨C, .n32, .v 11, .s 1, .disp (4096 - 64 - 4)⟩, tm0, iS, clear_of (by decide +kernel), rfl, all_act (by decide +kernel), by
    unfold DestRoom; decide +kernel⟩
theorem witness_ScratchpadStore : ∃ (x : Sys2Proof.Mem) (tm : Team),
    Issues S G P ∧ Clear (I (x.view dataSrc [.s] offSrc)) (x.view dataSrc [.s] offSrc) (some x.d) ∧ S.team? G.key.team = some tm
    ∧ cellsWf tm.spad = true
    ∧ ∀ t, (I (x.view dataSrc [.s] offSrc)).act.getLsbD t = true →
        tm.spadIn (Claims.offset (I (x.view dataSrc [.s] offSrc)) x.a x.addr t) x.w.bytes = true :=
  ⟨⟨C, .n32, .v 11, .s 1, .disp (4096 - 64 - 4)⟩, tm0, iS, clear_of (by decide +kernel), rfl, rfl, all_act (by decide +kernel)⟩
theorem witness_ScratchpadAtomic : ∃ (x : AtomL) (tm : Team), let i := I x.view
    Issues S G P ∧ Clear i x.view ∧ Checked i ∧ G.det = false ∧ S.team? G.key.team = some tm ∧ RoomFor i x.view x.d 2 ∧ x.ty = .n64
    ∧ ∀ t, i.act.getLsbD t = true → (i.val x.a 1 t).toNat % 2 ^ 32 % 8 = 0 ∧ tm.spadIn (Int.ofNat ((i.val x.a 1 t).toNat % 2 ^ 32)) 8 = true :=
  ⟨⟨C, .cas, .n64, .v 4, .v 1, .reg (.v 2), some (.v 6)⟩, tm0, iS, clear_of (by decide +kernel), checked_of (by decide +kernel), rfl, rfl, by
    unfold RoomFor; decide +kernel, rfl, all_act (by decide +kernel)⟩
theorem witness_ScratchpadAtomic_det : ∃ x : AtomL, let g : Group := { G with det := true }; let i := issueOf (stateOf g) g P x.view
    Issues (stateOf g) g P ∧ Clear i x.view ∧ g.det = true ∧ i.any = true ∧ i.teamGroups ≤ 1 ∧ i.holdsAll = true :=
  ⟨⟨C, .add, .n32, .v 4, .v 1, .imm 1, none⟩, issues_of (by decide +kernel), clear_of (by decide +kernel), rfl, by decide +kernel, by decide +kernel,
    by decide +kernel⟩

/-! ## Copies, barriers, launches -/

def okB {ε α : Type} : Except ε α → Bool
  | .ok _ => true
  | .error _ => false
def okGet {ε α : Type} (d : α) : Except ε α → α
  | .ok a => a
  | .error _ => d
theorem ok_of {ε α : Type} {d : α} {e : Except ε α} (h : okB e = true) : e = .ok (okGet d e) := by
  cases e with
  | ok a => rfl
  | error e => cases h
theorem some_of {α : Type} {d : α} {e : Option α} (h : e.isSome = true) : e = some (e.getD d) := by
  cases e with
  | some a => rfl
  | none => cases h

/-- s6 holds a length of 8, s7 0x10; s8 and s9 a halo descriptor of 2 by 2 words with a halo of 1, zero outside. -/
def cpP : Split := { P with s := sRegs.take 6 ++ [8, 0x10, 0x0000001000460101#64, 0x0000000000000010#64] ++ List.replicate 54 0 }
def cpG : Group := groupOf cpP
def cpS : State := stateOf cpG
theorem iCp : Issues cpS cpG cpP := issues_of (by decide +kernel)

def linOf (i : Iss) (x : Cpy) : LinSpec :=
  { kind := if x.lin then .spadToSpad else .toSpad, ch := x.ch.toNat, pm := x.pm, reg := if x.lin then none else some (i.areg x.a)
    src := if x.lin then (i.uni x.a).toNat else 0, dst := (i.uni x.d).toNat, len := (i.uni x.b).toNat % 2 ^ 32
    stride := (i.uni x.b).toNat / 2 ^ 32 }
def outOf (i : Iss) (x : CpyOut) : LinSpec :=
  { kind := .out, ch := x.ch.toNat, pm := x.pm, reg := some (i.areg x.d), src := (i.uni x.a).toNat, dst := 0
    len := (i.uni x.b).toNat % 2 ^ 32, stride := (i.uni x.b).toNat / 2 ^ 32 }
def linReady (i : Iss) (l : LinSpec) : Bool :=
  i.any && (copyMisaligned l.pm l.len l.stride (match l.kind with | .out => l.src | _ => l.dst) (match l.reg with | some a => a.ptr.toNat | none => l.src)).isNone
    && (match l.reg with | some a => !a.pv | none => true) && !i.s0.unchecked i.k i.sid i.p0.region
    && (i.copyMembers l.pm).all (fun t => okB (i.linUnits l t)) && !(i.copyMembers l.pm).isEmpty

theorem witness_CopiesIssue_linear :
    Issues cpS cpG cpP
    ∧ (∃ x : Cpy, x.lin = false ∧ Clear (issueOf cpS cpG cpP x.view) x.view (some x.d) ∧ linReady (issueOf cpS cpG cpP x.view) (linOf (issueOf cpS cpG cpP x.view) x) = true)
    ∧ (∃ x : Cpy, x.pm = true ∧ Clear (issueOf cpS cpG cpP x.view) x.view (some x.d) ∧ linReady (issueOf cpS cpG cpP x.view) (linOf (issueOf cpS cpG cpP x.view) x) = true)
    ∧ (∃ x : Cpy, Clear (issueOf cpS cpG cpP x.view) x.view (some x.d) ∧ linReady (issueOf cpS cpG cpP x.view) (linOf (issueOf cpS cpG cpP x.view) x) = true
        ∧ (issueOf cpS cpG cpP x.view).linOverlap (linOf (issueOf cpS cpG cpP x.view) x) = true)
    ∧ ∃ x : CpyOut, Clear (issueOf cpS cpG cpP x.view) x.view (some x.d) ∧ linReady (issueOf cpS cpG cpP x.view) (outOf (issueOf cpS cpG cpP x.view) x) = true :=
  ⟨iCp, ⟨⟨C, 0, false, false, .s 7, .a 0, .s 6⟩, rfl, clear_of (by decide +kernel), by decide +kernel⟩,
   ⟨⟨C, 7, true, false, .s 7, .a 0, .s 6⟩, rfl, clear_of (by decide +kernel), by decide +kernel⟩,
   ⟨⟨C, 0, false, true, .s 7, .s 7, .s 6⟩, clear_of (by decide +kernel), by decide +kernel, by decide +kernel⟩,
   ⟨⟨C, 0, false, .a 0, .s 7, .s 6⟩, clear_of (by decide +kernel), by decide +kernel⟩⟩

theorem witness_CopiesIssue_halo : ∃ x : CpyH, let i := issueOf cpS cpG cpP x.view
    let d := haloDesc (cpP.s.getD x.b.num 0) (cpP.s.getD (x.b.num + 1) 0)
    let a := i.areg x.a
    let base := (i.uni x.d).toNat
    Clear i x.view (some x.d) ∧ i.any = true ∧ d.reserved = false ∧ d.nc * d.e ≤ d.lpitch ∧ base % 4 = 0 ∧ d.lpitch % 4 = 0 ∧ d.mstride % 4 = 0
      ∧ a.ptr.toNat % d.e = 0 ∧ d.gpitch % (d.e : Int) = 0 ∧ a.pv = false
      ∧ ∃ rows : Nat → List CopyUnit, ∀ t ∈ i.copyMembers true, i.haloUnits d a base t = .ok (rows t) := by
  refine ⟨⟨C, 2, .s 7, .a 0, .s 8⟩, clear_of (by decide +kernel), by decide +kernel, by decide +kernel, by decide +kernel, by decide +kernel,
    by decide +kernel, by decide +kernel, by decide +kernel, by decide +kernel, by decide +kernel, fun t => okGet [] _, fun t ht => ok_of ?_⟩
  revert t
  decide +kernel

/-- Channel 1's write pointer of the team stands at 8, and channel 2 has an operation under way. -/
def ptrS : State :=
  { cpS with teams := [tm0.putPtr { WPtr.zero 0 1 with count := 8 }]
             ops := { cpS.ops with copies := [⟨0, .toSpad, kG, 0, 0, 2, 1, [], false, none, 0, none, 0, none, 0⟩] } }

theorem witness_WritePointers : ∃ tm, Issues ptrS cpG cpP ∧ ptrS.team? cpG.key.team = some tm
    ∧ (∃ x : CpyWp, let i := issueOf ptrS cpG cpP x.view; Clear i x.view ∧ x.rst = true ∧ Checked i ∧ i.any = true
        ∧ ptrS.ops.copies.any (fun o => o.g.team = cpG.key.team && o.core = cpG.core && o.ch = x.ch.toNat) = true)
    ∧ (∃ x : CpyWp, let i := issueOf ptrS cpG cpP x.view; Clear i x.view ∧ x.rst = true ∧ Checked i ∧ i.any = true
        ∧ ptrS.ops.copies.any (fun o => o.g.team = cpG.key.team && o.core = cpG.core && o.ch = x.ch.toNat) = false)
    ∧ (∃ x : CpyWait, let i := issueOf ptrS cpG cpP x.view; Clear i x.view ∧ (i.uniSrc x.b).toNat ≤ (tm.ptr (cpG.half tm) x.ch.toNat).count)
    ∧ ∃ x : CpyWait, let i := issueOf ptrS cpG cpP x.view; Clear i x.view ∧ i.any = true ∧ (tm.ptr (cpG.half tm) x.ch.toNat).failed = false
        ∧ (tm.ptr (cpG.half tm) x.ch.toNat).count < (i.uniSrc x.b).toNat :=
  ⟨_, issues_of (by decide +kernel), some_of (d := tm0) (by decide +kernel),
   ⟨⟨C, 2, true, .s 10⟩, clear_of (by decide +kernel), rfl, checked_of (by decide +kernel), by decide +kernel, by decide +kernel⟩,
   ⟨⟨C, 1, true, .s 10⟩, clear_of (by decide +kernel), rfl, checked_of (by decide +kernel), by decide +kernel, by decide +kernel⟩,
   ⟨⟨C, 1, .imm 8⟩, clear_of (by decide +kernel), by decide +kernel⟩,
   ⟨⟨C, 1, .imm 9⟩, clear_of (by decide +kernel), by decide +kernel, by decide +kernel, by decide +kernel⟩⟩

theorem mayArrive_of {x : Iss} {b : Src} {tm : Team} (h1 : x.any = true) (h2 : (x.uniSrc b).toNat ≤ 16384)
    (h3 : x.s0.earlierMet x.g0.key x.act x.s0.sched.nextId .team = true) (h4 : x.s0.team? x.g0.key.team = some tm) (h5 : tm.bars.length = 16) :
    Claims.MayArrive x b tm := ⟨h1, h2, h3, h4, h5⟩

theorem witness_BarriersIssue :
    (∃ x : BarD, Clear (I (x.view [.s])) (x.view [.s]) ∧ Checked (I (x.view [.s])) ∧ Claims.MayArrive (I (x.view [.s])) x.b tm0)
    ∧ (∃ x : BarSync, Clear (I x.view) x.view ∧ Checked (I x.view) ∧ Claims.MayArrive (I x.view) x.b tm0)
    ∧ (∃ x : BarWait, Clear (I x.view) x.view ∧ (I x.view).any = true ∧ S.team? G.key.team = some tm0) :=
  ⟨⟨⟨C, 15, .s 10, .imm 16384⟩, clear_of (by decide +kernel), checked_of (by decide +kernel),
      mayArrive_of (by decide +kernel) (by decide +kernel) (by decide +kernel) rfl rfl⟩,
   ⟨⟨C, 0, .imm 0⟩, clear_of (by decide +kernel), checked_of (by decide +kernel),
      mayArrive_of (by decide +kernel) (by decide +kernel) (by decide +kernel) rfl rfl⟩,
   ⟨⟨C, 0, .s 0⟩, clear_of (by decide +kernel), by decide +kernel, rfl⟩⟩

theorem witness_ArrivalsIssue :
    (∃ x : BarDefer, let i := I x.view; Clear i x.view ∧ Checked i ∧ i.any = true ∧ (i.uniSrc x.b).toNat ≤ 16384 ∧ S.team? G.key.team = some tm0 ∧ tm0.bars.length = 16)
    ∧ (∃ x : BarDefer, let i := issueOf ptrS cpG cpP x.view; Clear i x.view ∧ Checked i ∧ i.any = true
        ∧ (ptrS.ops.copies.filter (fun o => o.g = cpG.key && x.chans.getLsbD o.ch)).map CopyOp.id = [0])
    ∧ (∃ (x : BarD) (n : BitVec 3), let w := x.view [.p]; Clear (I w) w ∧ Checked (I w) ∧ Claims.MayArrive (I w) x.b tm0 ∧ x.d = .p n ∧ G.pairchk = false) :=
  ⟨⟨⟨C, 3, .s 10, .imm 16384, 255⟩, clear_of (by decide +kernel), checked_of (by decide +kernel), by decide +kernel, by decide +kernel, rfl, rfl⟩,
   ⟨⟨C, 3, .s 10, .imm 0, 4⟩, clear_of (by decide +kernel), checked_of (by decide +kernel), by decide +kernel, by decide +kernel⟩,
   ⟨⟨C, 0, .p 7, .imm 0⟩, 7, clear_of (by decide +kernel), checked_of (by decide +kernel),
      mayArrive_of (by decide +kernel) (by decide +kernel) (by decide +kernel) rfl rfl, rfl, rfl⟩⟩

/-- A version 1 record of one team of sixteen threads at 0x1000; the context's queues stand at 0x2000, one entry deep. -/
def recBytes : List Byte :=
  [1, 0, 16, 1, 1, 0, 0, 0, 128, 0, 0, 0, 0, 0, 0, 0, 0, 0x80, 0, 0, 0, 0, 0, 0, 1, 0, 0, 0, 0, 0, 0, 0] ++ List.replicate 32 0
def launchS : State :=
  { S with ctxs := [{ Context.fresh 0 with keys := 1, root := 2 ^ 30, qdepth := 1, qbase := 0x2000 }]
           mem := { S.mem with cells := cellWrite tables 0x1000 recBytes } }

theorem rec_of {raw : List Byte} (h : (parseRec raw).2.2 = true) : parseRec raw = ((parseRec raw).1, (parseRec raw).2.1, true) :=
  Prod.ext rfl (Prod.ext rfl h)
theorem pair_of {ε α β : Type} {d : α × β} {e : Except ε (α × β)} (h : okB e = true) : e = .ok ((okGet d e).1, (okGet d e).2) := ok_of h

def lX : LaunchI := ⟨C, .s 10, .a 0, .imm 63⟩
def lI : Iss := issueOf launchS G P lX.view
def lGot : List Byte × List Piece := okGet ([], []) (lI.readRecord (lI.areg lX.a))
def lCtx : Context := (launchS.ctx? 0).getD (Context.fresh 1)
def lCounts : List Nat := (launchS.readResv 0 (parseRec lGot.1).1).getD []
/-- The state when the record and its counts have been read. -/
def lRead : State := Claims.readBy lI launchS lGot.2
def lS1 : State := ((lRead.devTouch 0 0x5F00 lGot.1.length .store).devWrite 0 0x5F00 lGot.1).getD S

/-- A queue number too large, a record of version 2, and a queue that is full. -/
def badRecS : State := { launchS with mem := { launchS.mem with cells := cellWrite tables 0x1000 (2 :: recBytes.drop 1) } }
def fullQS : State := { launchS with ctxs := [{ Context.fresh 0 with keys := 1, root := 2 ^ 30, qdepth := 1, qbase := 0x2000, qtail := [(63, 1)] }] }
/-- The record of a launch, where its words can be read. -/
def recAt (s : State) : Bool :=
  let i := issueOf s G P lX.view
  match i.readRecord (i.areg lX.a) with
  | .ok (raw, ps) =>
    !i.owes ps && (match s.ctx? G.ctx with
      | some c => c.id == 0 && s.recordOk c.id (parseRec raw).1 (parseRec raw).2.1 (parseRec raw).2.2 && (s.readResv c.id (parseRec raw).1).isSome
      | none => false)
  | .error _ => false
theorem witness_LaunchIssues_traps :
    (∃ x : LaunchI, Issues launchS G P ∧ Clear (issueOf launchS G P x.view) x.view ∧ Checked (issueOf launchS G P x.view)
      ∧ (issueOf launchS G P x.view).any = true ∧ 64 ≤ ((issueOf launchS G P x.view).uniSrc x.q).toNat)
    ∧ (let i := issueOf badRecS G P lX.view
      Issues badRecS G P ∧ Clear i lX.view ∧ Checked i ∧ badRecS.earlierMet G.key i.act badRecS.sched.nextId .dev = true ∧ recAt badRecS = false
      ∧ okB (i.readRecord (i.areg lX.a)) = true ∧ i.owes (okGet ([], []) (i.readRecord (i.areg lX.a))).2 = false)
    ∧ (let i := issueOf fullQS G P lX.view
      Issues fullQS G P ∧ Clear i lX.view ∧ Checked i ∧ recAt fullQS = true
      ∧ fullQS.ctxs.all (fun c => decide (c.qdepth ≤ (countOf c.qtail 63 - countOf c.qhead 63).toNat)) = true) :=
  ⟨⟨⟨C, .s 10, .a 0, .imm 64⟩, issues_of (by decide +kernel), clear_of (by decide +kernel), checked_of (by decide +kernel), by decide +kernel, by decide +kernel⟩,
   ⟨issues_of (by decide +kernel), clear_of (by decide +kernel), checked_of (by decide +kernel), by decide +kernel, by decide +kernel, by decide +kernel, by decide +kernel⟩,
   ⟨issues_of (by decide +kernel), clear_of (by decide +kernel), checked_of (by decide +kernel), by decide +kernel, by decide +kernel⟩⟩

/-- Queue 63 of one entry, the last the context has. -/
theorem witness_LaunchIssues :
    Issues launchS G P ∧ Clear lI lX.view ∧ Checked lI ∧ lI.any = true ∧ (lI.uniSrc lX.q).toNat = 63 ∧ lI.owes lGot.2 = false
      ∧ launchS.earlierMet G.key lI.act launchS.sched.nextId .dev = true
      ∧ lI.readRecord (lI.areg lX.a) = .ok (lGot.1, lGot.2) ∧ parseRec lGot.1 = ((parseRec lGot.1).1, (parseRec lGot.1).2.1, true)
      ∧ launchS.ctx? G.ctx = some lCtx ∧ lCtx.id = 0 ∧ lCtx.qdepth = 1 ∧ lCtx.qbase = 0x2000#64
      ∧ launchS.recordOk 0 (parseRec lGot.1).1 (parseRec lGot.1).2.1 true = true
      ∧ launchS.readResv 0 (parseRec lGot.1).1 = some lCounts ∧ (countOf lCtx.qtail 63 - countOf lCtx.qhead 63).toNat < lCtx.qdepth
      ∧ (parseRec lGot.1).1.resv = 0 ∧ launchS.devFar 0 0x5F00 lGot.1.length .store = none
      ∧ launchS.devFar 0 0x1100 (4 * (parseRec lGot.1).1.teams) .load = none
      ∧ (lRead.devTouch 0 (0x2000 + 63 * 1 * 256 + (countOf lCtx.qtail 63).toNat % 1 * 256) lGot.1.length .store).devWrite 0
        (0x2000 + 63 * 1 * 256 + (countOf lCtx.qtail 63).toNat % 1 * 256) lGot.1 = some lS1 := by
  refine ⟨issues_of (by decide +kernel), clear_of (by decide +kernel), checked_of (by decide +kernel), by decide +kernel, by decide +kernel,
    by decide +kernel, by decide +kernel, pair_of (by decide +kernel), rec_of (by decide +kernel), some_of (by decide +kernel), by decide +kernel, by decide +kernel,
    by decide +kernel, by decide +kernel, some_of (by decide +kernel), by decide +kernel, by decide +kernel,
    by decide +kernel, by decide +kernel, ?_⟩
  have h : 0x2000 + 63 * 1 * 256 + (countOf lCtx.qtail 63).toNat % 1 * 256 = 0x5F00 := by decide +kernel
  rw [h]
  exact some_of (by decide +kernel)

/-- A load of the split's region whose checks are open. -/
def openS : State :=
  { S with ops := { S.ops with mem := [{ Iss.memOp (I { c := C }) 0 .load all16 [⟨0, 0x1000, 0x1000, 4, 0, [], ⟨0, 0, false, false, 0, 0⟩, .todo, 0⟩]
      .none 4 false with checked := false }] } }
theorem witness_DoneAndRegroup :
    (∃ x : INone, Issues S G P ∧ Clear (I x.view) x.view ∧ Checked (I x.view))
    ∧ (∃ x : INone, Issues openS G P ∧ Clear (issueOf openS G P x.view) x.view ∧ ¬Checked (issueOf openS G P x.view))
    ∧ (∃ x : Regrp, Clear (I x.view) x.view ∧ (I x.view).any = true ∧ Checked (I x.view) ∧ S.earlierMet G.key (I x.view).act S.sched.nextId .team = true)
    ∧ (∃ x : Regret, Clear (I x.view) x.view ∧ (I x.view).any = true ∧ Checked (I x.view) ∧ S.earlierMet G.key (I x.view).act S.sched.nextId .team = true) :=
  ⟨⟨⟨C⟩, iS, clear_of (by decide +kernel), checked_of (by decide +kernel)⟩,
   ⟨⟨C⟩, issues_of (by decide +kernel), clear_of (by decide +kernel), not_checked_of (by decide +kernel)⟩,
   ⟨⟨C, .v 0, .v 240, 16⟩, clear_of (by decide +kernel), by decide +kernel, checked_of (by decide +kernel), by decide +kernel⟩,
   ⟨⟨C, .v 0, 0⟩, clear_of (by decide +kernel), by decide +kernel, checked_of (by decide +kernel), by decide +kernel⟩⟩

/-! ## Atomics, order, monitors, remote operations -/

/-- An atomic of the tests: its threads pass their checks. -/
def atomReady (x : Iss) (l : AtomSpec) : Bool :=
  x.any && (x.gatherFor { perm := .atomic, allowed := l.allowed, size := l.size, placed := l.placed } l.reg x.threads l.ea).faults.isEmpty

/-- A split of one thread, since a slot holds one image; and its group. -/
def soloP : Split := splitOf 1#512 sRegs
def soloG : Group := { groupOf soloP with threads := [Thread.fresh 0 0 2 1] }

/-- The images of one memory, narrow and wide slots at its start. -/
theorem witness_AtomicForms_ops :
    (∃ i d f w, Claims.atomics i = some (d, f) ∧ i.view = some w ∧ Issues S G P ∧ Clear (I w) w d ∧ Checked (I w) ∧ atomReady (I w) (f (I w)) = true
      ∧ Claims.imageFits i (I w) ∧ DestRoom (I w) w (f (I w)).dest (I w).act)
    ∧ (∃ i d f w, Claims.atomics i = some (d, f) ∧ i.view = some w ∧ Clear (I w) w d ∧ Checked (I w) ∧ atomReady (I w) (f (I w)) = true
      ∧ (f (I w)).dest = .none ∧ (f (I w)).rel = true)
    ∧ (∃ (y : Redla) (d : Option Opnd) (f : Iss → AtomSpec) (w : View), let x := issueOf (stateOf soloG) soloG soloP w
      Claims.atomics (.redla y) = some (d, f) ∧ (Instr.redla y).view = some w ∧ Issues (stateOf soloG) soloG soloP ∧ Clear x w d ∧ Checked x
      ∧ atomReady x (f x) = true ∧ y.src = .image 0 ∧ x.accAwaited [0] = none ∧ (x.bound 0).isSome = true ∧ y.kw = true)
    ∧ (∃ i d f w, let g : Group := { G with det := true }
        let x := issueOf (stateOf g) g P w
        Claims.atomics i = some (d, f) ∧ i.view = some w ∧ Issues (stateOf g) g P ∧ Clear x w d ∧ Checked x ∧ x.any = true ∧ Claims.barredInDet i) :=
  ⟨⟨.atom ⟨C, .cas, true, .sys, .ar, .x8, .v 252, .a 0, .v 1⟩, _, _, _, rfl, rfl, iS, clear_of (by decide +kernel), checked_of (by decide +kernel),
      by decide +kernel, trivial, by unfold DestRoom; decide +kernel⟩,
   ⟨.red ⟨C, .add, false, .dev, .rel, .x1, .v 4, .a 0, .s 0⟩, _, _, _, rfl, rfl, clear_of (by decide +kernel), checked_of (by decide +kernel),
      by decide +kernel, rfl, rfl⟩,
   ⟨⟨C, true, .dev, false, .x1, .a 0, .s 0, .image 0⟩, _, _, _, rfl, rfl, issues_of (by decide +kernel), clear_of (by decide +kernel), checked_of (by decide +kernel),
      by decide +kernel, rfl, by decide +kernel, by decide +kernel, rfl⟩,
   ⟨.red ⟨C, .fadd, false, .dev, .none, .x1, .v 4, .a 0, .s 0⟩, _, _, _, rfl, rfl, issues_of (by decide +kernel), clear_of (by decide +kernel),
      checked_of (by decide +kernel), by decide +kernel, rfl⟩⟩

/-- Atomics that find no request entry, and whose later threads fall outside the image. -/
theorem witness_AtomicForms_waits :
    (∃ i d f w, let x := issueOf fullS G P w
      Claims.atomics i = some (d, f) ∧ i.view = some w ∧ Issues fullS G P ∧ Clear x w d ∧ Checked x ∧ atomReady x (f x) = true
      ∧ (fullS.entriesFit x.core (x.gatherFor { perm := .atomic, allowed := (f x).allowed, size := (f x).size, placed := (f x).placed } (f x).reg x.threads
          (f x).ea).pieces).1 = false)
    ∧ (∃ i d f w, let x := issueOf offS offG P w
      let got := x.gatherFor { perm := .atomic, allowed := (f x).allowed, size := (f x).size, placed := (f x).placed } (f x).reg x.threads (f x).ea
      Claims.atomics i = some (d, f) ∧ i.view = some w ∧ Issues offS offG P ∧ Clear x w d ∧ Checked x ∧ x.any = true
      ∧ (faultOf got.faults .atomic false P.iaddr P.word).isSome = true) :=
  ⟨⟨.red ⟨C, .add, false, .dev, .rel, .x1, .v 4, .a 0, .s 0⟩, _, _, _, rfl, rfl, issues_of (by decide +kernel), clear_of (by decide +kernel),
      checked_of (by decide +kernel), by decide +kernel, by decide +kernel⟩,
   ⟨.red ⟨C, .add, false, .dev, .rel, .x1, .v 4, .a 0, .v 1⟩, _, _, _, rfl, rfl, issues_of (by decide +kernel), clear_of (by decide +kernel),
      checked_of (by decide +kernel), by decide +kernel, by decide +kernel⟩⟩

/-- s0 = 0 and sizes of 6 and 7 a thread: sixteen times 6 is 96, within the 100 reserved, and 112 is beyond them. -/
theorem witness_AtomicForms_reserved : let w (x : UBin) := x.atomrView
    (∃ x : UBin, Issues S G P ∧ Clear (I (w x)) (w x) ∧ Checked (I (w x)) ∧ (I (w x)).any = true ∧ S.team? G.key.team = some tm0
      ∧ ((I (w x)).uni x.a).toNat + (((I (w x)).threads.map (fun t => ((I (w x)).src x.b 1 t).toNat % 2 ^ 32)).sum) ≤ tm0.resCount
      ∧ RoomFor (I (w x)) (w x) x.d 2)
    ∧ ∃ x : UBin, Clear (I (w x)) (w x) ∧ Checked (I (w x))
      ∧ tm0.resCount < ((I (w x)).uni x.a).toNat + (((I (w x)).threads.map (fun t => ((I (w x)).src x.b 1 t).toNat % 2 ^ 32)).sum) :=
  ⟨⟨⟨C, .v 4, .s 0, .imm 6⟩, iS, clear_of (by decide +kernel), checked_of (by decide +kernel), by decide +kernel, rfl, by decide +kernel,
      by unfold RoomFor; decide +kernel⟩,
   ⟨⟨C, .v 4, .s 0, .imm 7⟩, clear_of (by decide +kernel), checked_of (by decide +kernel), by decide +kernel⟩⟩

/-- What an instruction or an event leaves, where it leaves something. -/
def after (o : Host.Outcome State Fault Refusal) (s : State) : State :=
  match o with
  | .next t => t
  | _ => s
/-- The split of a state is about to issue again, its group as it was. -/
def again (s : State) : State := { s with sched := { s.sched with cur := some ⟨kG, 0⟩ }, mem := { s.mem with tlb := [], walks := [] } }
def gOf (s : State) : Group := (s.group? kG).getD G
def pOf (s : State) : Split := ((gOf s).split? 0).getD P

/-- A store under way, and a remote put in its queue. -/
def busyS : State := again (after (exec (.rput ⟨C, .n32, .x1, 1, .v 8, .v 9, .v 10⟩)
  (again (after (exec (.st ⟨C, .n64, .v 8, .a 0, .disp 0xFF8⟩) S) S))) S)

theorem witness_FencesAndMonitors_fences :
    (∃ x : Fence, Issues S G P ∧ Clear (I x.view) x.view ∧ (I x.view).any = true
      ∧ S.ptMet ⟨S.sched.nextId, G.key, (I x.view).act, x.scope, x.kind != .acq, x.kind != .rel, 0, (I x.view).flag?⟩ = true)
    ∧ (∃ x : Fence, let i := issueOf busyS (gOf busyS) (pOf busyS) x.view
        Issues busyS (gOf busyS) (pOf busyS) ∧ Clear i x.view ∧ i.any = true
      ∧ busyS.ptMet ⟨busyS.sched.nextId, (gOf busyS).key, i.act, x.scope, x.kind != .acq, x.kind != .rel, 0, i.flag?⟩ = false)
    ∧ (∃ x : QFence, Clear (I x.view) x.view ∧ (I x.view).any = true ∧ x.queues ≠ 0
      ∧ S.ptMet ⟨S.sched.nextId, G.key, (I x.view).act, .grp, false, false, x.queues, (I x.view).flag?⟩ = true)
    ∧ ∃ x : QFence, let i := issueOf busyS (gOf busyS) (pOf busyS) x.view
      Clear i x.view ∧ i.any = true ∧ x.queues ≠ 0
      ∧ busyS.ptMet ⟨busyS.sched.nextId, (gOf busyS).key, i.act, .grp, false, false, x.queues, i.flag?⟩ = false :=
  ⟨⟨⟨C, .acq, .sys⟩, iS, clear_of (by decide +kernel), by decide +kernel, by decide +kernel⟩,
   ⟨⟨C, .full, .sys⟩, issues_of (by decide +kernel), clear_of (by decide +kernel), by decide +kernel, by decide +kernel⟩,
   ⟨⟨C, 0x7FF⟩, clear_of (by decide +kernel), by decide +kernel, by decide, by decide +kernel⟩,
   ⟨⟨C, 0x7FF⟩, clear_of (by decide +kernel), by decide +kernel, by decide, by decide +kernel⟩⟩

/-- What a WAITC gathers for its lowest thread. -/
def waitGot (i : Iss) (x : Waitc) : Gathered :=
  i.gatherFor { perm := .load, allowed := AReg.rd, size := if x.wide then 8 else 4, placed := natural (if x.wide then 8 else 4) true } (i.areg x.a)
    [i.low] (fun _ => Int.ofNat (i.areg x.a).ptr.toNat)
theorem witness_FencesAndMonitors_monitors :
    (∃ x : Waitc, let i := I x.view
      Issues S G P ∧ Clear i x.view ∧ i.any = true ∧ (waitGot i x).faults = [] ∧ (S.entriesFit i.core (waitGot i x).pieces).1 = true)
    ∧ (∃ x : Waitc, let i := issueOf fullS G P x.view
      Issues fullS G P ∧ Clear i x.view ∧ i.any = true ∧ (waitGot i x).faults = [] ∧ (fullS.entriesFit i.core (waitGot i x).pieces).1 = false)
    ∧ ∃ x : Waitc, let i := I x.view
      Clear i x.view ∧ i.any = true ∧ (faultOf (waitGot i x).faults .load false P.iaddr P.word).isSome = true :=
  ⟨⟨⟨C, .ne, false, true, .dev, .a 0, .imm 5⟩, iS, clear_of (by decide +kernel), by decide +kernel, by decide +kernel, by decide +kernel⟩,
   ⟨⟨C, .ne, false, true, .dev, .a 0, .imm 5⟩, issues_of (by decide +kernel), clear_of (by decide +kernel), by decide +kernel, by decide +kernel, by decide +kernel⟩,
   ⟨⟨C, .ne, false, true, .dev, .a 1, .imm 5⟩, clear_of (by decide +kernel), by decide +kernel, by decide +kernel⟩⟩

/-- v6 holds the highest device number, 511, in every thread. -/
def peerG : Group := { G with v := (List.range 2).map (fun o => { name := 6, octet := o, vals := List.replicate 8 511, src := .pool, seq := 0, pend := [], busy := none }) }
/-- One thread's device is out of range, and the rest are 511; and every one is. -/
def mixG (top : Nat) : Group :=
  { G with v := [⟨6, 0, 512 :: List.replicate 7 (BitVec.ofNat 32 top), .pool, 0, [], none⟩, ⟨6, 1, List.replicate 8 (BitVec.ofNat 32 top), .pool, 1, [], none⟩,
                 ⟨7, 0, List.replicate 8 4, .pool, 2, [], none⟩] }
def goneOf (x : Iss) (l : RemoteSpec) : List ThrFault :=
  (x.threads.filter (fun t => decide (512 ≤ l.peer t))).map (fun t => ⟨t, cENDPOINT_DOWN, BitVec.ofNat 64 (l.peer t), true, none⟩)
def misOf (x : Iss) (l : RemoteSpec) : List ThrFault :=
  (x.threads.filter (fun t => decide (l.peer t < 512) && l.align && decide (l.off t % l.size ≠ 0))).map (fun t => ⟨t, cALIGN, BitVec.ofNat 64 (l.off t), false, none⟩)
theorem witness_RemoteOperationsIssue :
    (∃ i d f w, let x := issueOf (stateOf peerG) peerG P w
      Claims.remotes i = some (d, f) ∧ i.view = some w ∧ Issues (stateOf peerG) peerG P ∧ Clear x w d ∧ Checked x ∧ x.any = true
      ∧ misOf x (f x) = [] ∧ (∃ t ∈ x.threads, (f x).peer t < 512) ∧ DestRoom x w (f x).dest x.act)
    ∧ (∃ i d f w, let x := issueOf (stateOf (mixG 511)) (mixG 511) P w
      Claims.remotes i = some (d, f) ∧ i.view = some w ∧ Issues (stateOf (mixG 511)) (mixG 511) P ∧ Clear x w d ∧ Checked x ∧ x.any = true
      ∧ misOf x (f x) = [] ∧ goneOf x (f x) ≠ [] ∧ (∃ t ∈ x.threads, (f x).peer t < 512) ∧ (f x).dest = .none)
    ∧ (∃ i d f w, let x := issueOf (stateOf (mixG 511)) (mixG 511) P w
      Claims.remotes i = some (d, f) ∧ i.view = some w ∧ Clear x w d ∧ Checked x ∧ misOf x (f x) ≠ []
      ∧ (faultOf (goneOf x (f x) ++ misOf x (f x)) (f x).perm false P.iaddr P.word).isSome = true)
    ∧ ∃ i d f w, let x := issueOf (stateOf (mixG 600)) (mixG 600) P w
      Claims.remotes i = some (d, f) ∧ i.view = some w ∧ Issues (stateOf (mixG 600)) (mixG 600) P ∧ Clear x w d ∧ Checked x
      ∧ (∀ t ∈ x.threads, 512 ≤ (f x).peer t) ∧ (faultOf (goneOf x (f x) ++ misOf x (f x)) (f x).perm false P.iaddr P.word).isSome = true :=
  ⟨⟨.ratom ⟨C, .add, true, 63, .v 254, .v 6, .v 7⟩, _, _, _, rfl, rfl, issues_of (by decide +kernel), clear_of (by decide +kernel),
      checked_of (by decide +kernel), by decide +kernel, by decide +kernel, ⟨15, by decide +kernel, by decide +kernel⟩, by unfold DestRoom; decide +kernel⟩,
   ⟨.rput ⟨C, .n32, .x8, 0, .v 8, .v 6, .v 7⟩, _, _, _, rfl, rfl, issues_of (by decide +kernel), clear_of (by decide +kernel), checked_of (by decide +kernel),
      by decide +kernel, by decide +kernel, by decide +kernel, ⟨1, by decide +kernel, by decide +kernel⟩, rfl⟩,
   ⟨.ratom ⟨C, .add, true, 63, .v 254, .v 6, .v 7⟩, _, _, _, rfl, rfl, clear_of (by decide +kernel), checked_of (by decide +kernel),
      by decide +kernel, by decide +kernel⟩,
   ⟨.rget ⟨C, .n32, .x1, 0, .v 8, .v 6, .v 8⟩, _, _, _, rfl, rfl, issues_of (by decide +kernel), clear_of (by decide +kernel), checked_of (by decide +kernel),
      by decide +kernel, by decide +kernel⟩⟩

/-! ## Accumulators and collectives -/

/-- x0 and x1 are wide, x2 narrow, x3 unbound. -/
theorem witness_AccumulatorForms :
    (∃ i r w, Claims.accumulators i = some r ∧ i.view = some w ∧ Issues S G P ∧ Clear (I w) w ∧ (I w).any = true ∧ r.x = 0
      ∧ (I w).accAwaited (r.x :: r.xs.toList) = none ∧ (∃ m, (I w).bound r.x = some m ∧ r.fits m none = true) ∧ r.xs = none)
    ∧ (∃ i r w, Claims.accumulators i = some r ∧ i.view = some w ∧ Clear (I w) w ∧ r.x = 1 ∧ r.xs = some 2
      ∧ (I w).accAwaited (r.x :: r.xs.toList) = none ∧ ∃ m n, (I w).bound r.x = some m ∧ (I w).bound 2 = some n ∧ r.fits m (some n) = true)
    ∧ (∃ i r w, Claims.accumulators i = some r ∧ i.view = some w ∧ Clear (I w) w ∧ Checked (I w) ∧ r.x = 3
      ∧ (I w).accAwaited (r.x :: r.xs.toList) = none ∧ (I w).bound r.x = none)
    ∧ ∃ x : LaRnd, Issues S G P ∧ Clear (I x.view) x.view ∧ (I x.view).any = true ∧ (I x.view).accAwaited [x.x.toNat] = none
      ∧ ((I x.view).bound x.x.toNat).isSome = true ∧ RoomFor (I x.view) x.view x.d x.fmt.regs :=
  ⟨⟨.laadd ⟨C, 0, .f64, .v 4⟩, _, _, rfl, rfl, iS, clear_of (by decide +kernel), by decide +kernel, rfl, by decide +kernel,
      ⟨.zero true, by decide +kernel, rfl⟩, rfl⟩,
   ⟨.lafl ⟨C, 1, 2, .memb⟩, _, _, rfl, rfl, clear_of (by decide +kernel), rfl, rfl, by decide +kernel,
      ⟨.zero true, .zero false, by decide +kernel, by decide +kernel, rfl⟩⟩,
   ⟨.lamad ⟨C, 3, .f32, .v 4, .v 5⟩, _, _, rfl, rfl, clear_of (by decide +kernel), checked_of (by decide +kernel), rfl, by decide +kernel, by decide +kernel⟩,
   ⟨⟨C, 2, .f64, .rd, .v 254⟩, iS, clear_of (by decide +kernel), by decide +kernel, by decide +kernel, by decide +kernel, by unfold RoomFor; decide +kernel⟩⟩

theorem witness_AccumulatorMemory : ∃ (x : LaMem) (m : Image), let i := issueOf (stateOf soloG) soloG soloP x.view
    Issues (stateOf soloG) soloG soloP ∧ Clear i x.view ∧ i.accAwaited [x.x.toNat] = none ∧ i.bound x.x.toNat = some m ∧ m.wide = true
      ∧ loadReady (stateOf soloG) soloG soloP x.view
        { threads := i.threads, ea := fun t => Int.ofNat (i.areg x.a).ptr.toNat + i.addrOff x.addr t, reg := i.areg x.a
          size := if m.wide then 280 else 56, signed := false, dest := .x x.x.toNat, placed := fun _ a => slotAt m.wide a } false false = true
      ∧ storeReady (stateOf soloG) soloG soloP x.view
        { ea := fun t => Int.ofNat (i.areg x.a).ptr.toNat + i.addrOff x.addr t, reg := i.areg x.a, size := if m.wide then 280 else 56
          bytes := fun t => leBytes (if m.wide then 280 else 56) (((i.img t x.x.toNat).map Image.toNat).getD 0)
          placed := fun _ a => slotAt m.wide a } false false = true :=
  ⟨⟨C, 1, .a 0, .disp 0xD80⟩, .zero true, issues_of (by decide +kernel), clear_of (by decide +kernel), by decide +kernel, by decide +kernel, rfl,
    by decide +kernel, by decide +kernel⟩

/-- A SUM of eight 32-bit integers at 0x1100 into 0x1200, instance 5 of group 1, its status word at 0x1300. -/
def descBytes : List Byte :=
  [5, 0, 0, 0, 1, 0, 0, 0, 0, 0x11, 0, 0, 0, 0, 0, 0, 0, 0x12, 0, 0, 0, 0, 0, 0, 8, 0, 0, 0, 1, 0, 5, 0] ++ List.replicate 8 0
    ++ [0, 0x13, 0, 0, 0, 0, 0, 0, 32, 0, 0, 0] ++ List.replicate 12 0
/-- Collective group 1 of context 0: device 0 alone, a fan-out of 2, a time limit of 1. -/
def collS : State :=
  { S with mem := { S.mem with cells := cellWrite tables 0x1000 descBytes }
           isl := { S.isl with colls := [⟨1, 1, 0x8000000008000001#64, [0, 0, 0, 0, 0, 0, 0]⟩] } }

def umX : UMov := ⟨C, .s 20, .a 0⟩
def umI : Iss := issueOf collS G P umX.collView
def umPs : List Piece := okGet [] (umI.access { perm := .load, allowed := AReg.rd, size := 64, placed := fun _ o => decide (o % 64 = 0) } (umI.areg umX.a)
  (Int.ofNat (umI.areg umX.a).ptr.toNat) umI.low)
def umBs : List Byte := okGet [] (umI.descBytes umPs)
def umPages : List (Nat × Nat × BitVec 10) := okGet [] (umI.pagesAll ((collDesc umBs).1.ranges (collKind 0x340) (.int false true) 0))

theorem witness_CollectivesIssue :
    Claims.collectives (.collSum umX) = some (umX, 0x340) ∧ Issues collS G P ∧ Clear umI umX.collView ∧ Checked umI ∧ umI.any = true
      ∧ umI.access { perm := .load, allowed := AReg.rd, size := 64, placed := fun _ o => decide (o % 64 = 0) } (umI.areg umX.a)
          (Int.ofNat (umI.areg umX.a).ptr.toNat) umI.low = .ok umPs ∧ umI.owes umPs = false
      ∧ umI.descBytes umPs = .ok umBs ∧ elemTy (collDesc umBs).1.ty = some (.int false true) ∧ (collDesc umBs).2 = false
      ∧ collS.collValid G.ctx (collKind 0x340) (collDesc umBs).1 = true
      ∧ umI.pagesAll ((collDesc umBs).1.ranges (collKind 0x340) (.int false true) collS.pkg.device.toNat) = .ok umPages
      ∧ collS.collInFlight G.ctx (collDesc umBs).1 = false :=
  ⟨rfl, issues_of (by decide +kernel), clear_of (by decide +kernel), checked_of (by decide +kernel), by decide +kernel, ok_of (by decide +kernel),
    by decide +kernel, ok_of (by decide +kernel), by decide +kernel, by decide +kernel, by decide +kernel, ok_of (by decide +kernel), by decide +kernel⟩

/-- The same state once the first of two such instructions is queued: the second meets its instance in flight. -/
def dupS : State := again (after (exec (.collSum umX) collS) collS)
theorem witness_CollectivesIssue_duplicate :
    Issues dupS (gOf dupS) (pOf dupS) ∧ dupS.collInFlight G.ctx (collDesc umBs).1 = true
      ∧ Clear (issueOf dupS (gOf dupS) (pOf dupS) ({ umX with d := .s 21 } : UMov).collView) ({ umX with d := .s 21 } : UMov).collView :=
  ⟨issues_of (by decide +kernel), by decide +kernel, clear_of (by decide +kernel)⟩
/-- With no status word to write, and with a descriptor of zeros. -/
def plainS : State :=
  { dupS with mem := { dupS.mem with cells := cellWrite tables 0x1000 (descBytes.take 40 ++ List.replicate 8 0 ++ descBytes.drop 48) } }
def noDescS : State := { collS with mem := { collS.mem with cells := tables } }
/-- What a collective reads of its descriptor. -/
def descOf (s : State) (g : Group) (p : Split) : Option (List Byte) :=
  let i := issueOf s g p umX.collView
  match i.access { perm := .load, allowed := AReg.rd, size := 64, placed := fun _ o => decide (o % 64 = 0) } (i.areg umX.a)
      (Int.ofNat (i.areg umX.a).ptr.toNat) i.low with
  | .ok ps => if i.owes ps then none else match i.descBytes ps with
    | .ok bs => some bs
    | .error _ => none
  | .error _ => none
theorem witness_CollectivesIssue_others :
    (Issues plainS (gOf plainS) (pOf plainS) ∧ Clear (issueOf plainS (gOf plainS) (pOf plainS) ({ umX with d := .s 21 } : UMov).collView) ({ umX with d := .s 21 } : UMov).collView
      ∧ (descOf plainS (gOf plainS) (pOf plainS)).map (fun b => ((collDesc b).1.status, plainS.collInFlight G.ctx (collDesc b).1)) = some (0, true))
    ∧ (Issues noDescS G P ∧ Clear (issueOf noDescS G P umX.collView) umX.collView ∧ Checked (issueOf noDescS G P umX.collView)
      ∧ (descOf noDescS G P).map (fun b => (collDesc b).1.inst) = some 0
      ∧ (descOf noDescS G P).map (fun b => noDescS.collValid G.ctx (collKind 0x340) (collDesc b).1) = some false) :=
  ⟨⟨issues_of (by decide +kernel), clear_of (by decide +kernel), by decide +kernel⟩,
   ⟨issues_of (by decide +kernel), clear_of (by decide +kernel), checked_of (by decide +kernel), by decide +kernel, by decide +kernel⟩⟩

/-! ## Traps, returns -/

theorem witness_TrapTaken :
    (S.group? G.key = some G ∧ G.split? P.sid = some P ∧ G.trap.tvec ≠ 0 ∧ G.priv = false)
    ∧ (let g : Group := { G with trap := .fresh 0 }
       (stateOf g).group? g.key = some g ∧ g.split? P.sid = some P ∧ g.threads.length ≤ 512 ∧ g.trap.tvec = 0
         ∧ ((stateOf g).launch? g.key.team.launch).isSome = true)
    ∧ ((stateOf hG).group? hG.key = some hG ∧ hG.split? P.sid = some P ∧ hG.trap.tvec ≠ 0 ∧ hG.priv = true) := by decide +kernel

/-- In the handler, the record without and with the mark that the entry cannot be returned to. -/
def norG : Group := { hG with trap := { hG.trap with cause := 0x200#64 } }
theorem witness_ReturnCompletes :
    (Issues (stateOf hG) hG P ∧ hG.holdsHandler P = true ∧ (hG.handler.map Handler.code).getD 0 ≠ cPAIR_LOST ∧ (hG.handler.map Handler.code).getD 0 ≠ cDRAIN_FAULT)
    ∧ (∃ x : Rte, x.target = some (.s 1) ∧ Clear (issueOf (stateOf hG) hG P x.view) x.view ∧ (issueOf (stateOf hG) hG P x.view).any = true
        ∧ (issueOf (stateOf hG) hG P x.view).uni (.s 1) &&& 63#64 = 0#64)
    ∧ (∃ x : Rte, x.target = none ∧ Clear (issueOf (stateOf hG) hG P x.view) x.view ∧ hG.trap.cause.getLsbD 9 = false)
    ∧ (∃ x : Rte, x.target = none ∧ Issues (stateOf norG) norG P ∧ Clear (issueOf (stateOf norG) norG P x.view) x.view ∧ norG.holdsHandler P = true
        ∧ norG.trap.cause.getLsbD 9 = true)
    ∧ (∃ x : Rte, x.target = some (.s 2) ∧ Clear (issueOf (stateOf hG) hG P x.view) x.view
        ∧ (issueOf (stateOf hG) hG P x.view).uni (.s 2) &&& 63#64 ≠ 0#64)
    ∧ (∃ x : Rte, Issues S G P ∧ Clear (I x.view) x.view ∧ (I x.view).any = true ∧ G.priv = false)
    ∧ (∃ x : Rte, let w := x.view
        Issues (stateOf hG) hG P ∧ Clear (issueOf (stateOf hG) hG P w) w ∧ (issueOf (stateOf hG) hG P w).any = false ∧ hG.priv = true)
    ∧ (let g := { hG with handler := some { defer := [], code := cPAIR_LOST, others := [], since := 0 } }
       ∃ x : Rte, let w := x.view
        Issues (stateOf g) g P ∧ Clear (issueOf (stateOf g) g P w) w ∧ (issueOf (stateOf g) g P w).any = true ∧ g.holdsHandler P = true
        ∧ (((stateOf g).team? g.key.team).map Team.pairchk).getD false = false ∧ (((stateOf g).team? g.key.team).map Team.degraded).getD false = false) :=
  ⟨⟨issues_of (by decide +kernel), by decide +kernel, by decide +kernel, by decide +kernel⟩,
   ⟨⟨C, some (.s 1)⟩, rfl, clear_of (by decide +kernel), by decide +kernel, by decide +kernel⟩,
   ⟨⟨C, none⟩, rfl, clear_of (by decide +kernel), by decide +kernel⟩,
   ⟨⟨C, none⟩, rfl, issues_of (by decide +kernel), clear_of (by decide +kernel), by decide +kernel, by decide +kernel⟩,
   ⟨⟨C, some (.s 2)⟩, rfl, clear_of (by decide +kernel), by decide +kernel⟩,
   ⟨⟨C, none⟩, iS, clear_of (by decide +kernel), by decide +kernel, rfl⟩,
   ⟨⟨C1, none⟩, issues_of (by decide +kernel), clear_of (by decide +kernel), by decide +kernel, rfl⟩,
   ⟨⟨C, none⟩, issues_of (by decide +kernel), clear_of (by decide +kernel), by decide +kernel, by decide +kernel, by decide +kernel, by decide +kernel⟩⟩

/-! ## Matrix instructions -/

/-- s8 and s9 hold a format block of INT8 with an I32 tile that drains into v240 to v255. -/
def matP : Split := { P with s := sRegs.take 6 ++ [0x80000#64, 0, 0, 0x1F00000000000000#64] ++ List.replicate 54 0 }
def matG : Group := groupOf matP
/-- A program of a DEND alone stands at 0x1000; so does an image of zeros. -/
def matS : State :=
  { stateOf matG with mem := { (stateOf matG).mem with cells := cellWrite tables 0x1000 [2, 0, 0, 0] } }
abbrev M (w : View) : Iss := issueOf matS matG matP w
theorem iM : Issues matS matG matP := issues_of (by decide +kernel)
def mzX : MZero := ⟨C, 15⟩
def mzOp : MatOp := Claims.matOp (M mzX.view) matS { kind := .mzero, tile := 15, reqs := [Claims.rowsOf (M mzX.view) 0] }
/-- Thirty-two entries of the cluster are taken. -/
def tableS : State := matS.setMtx { matS.mtx with ops := (List.range 32).map (fun n => { mzOp with id := 100 + n }) }

/-- Where a tile of the one octet of a split of one thread lies. -/
abbrev soloI (w : View) : Iss := issueOf (stateOf soloG) soloG soloP w
def soloReq (o : Nat) : MatReq := okGet (Claims.rowsOf (M mzX.view) 0) ((soloI mzX.view).tilePlace ((soloI mzX.view).areg (.a 0)) 0 false o)
def dpX : Dpld := ⟨C, 63, .a 0⟩
def dpI : Iss := M dpX.view
def dpGot : List Byte × List Piece := okGet ([], []) (dpI.readThrough (dpI.areg dpX.a) (Int.ofNat (dpI.areg dpX.a).ptr.toNat) 128 128)
def wordsOf (bs : List Byte) : List (BitVec 32) := (List.range 32).map (fun n => BitVec.ofNat 32 (leNat ((bs.drop (4 * n)).take 4)))
/-- The same with a word of ones, which is no micro-instruction. -/
def badS : State := { matS with mem := { matS.mem with cells := cellWrite tables 0x1000 (List.replicate 4 0xFF) } }
def badI : Iss := issueOf badS matG matP dpX.view
def badGot : List Byte × List Piece := okGet ([], []) (badI.readThrough (badI.areg dpX.a) (Int.ofNat (badI.areg dpX.a).ptr.toNat) 128 128)

theorem witness_MatrixEntriesAndStatus :
    (Issues matS matG matP ∧ Clear (M mzX.view) mzX.view ∧ (M mzX.view).any = true ∧ Claims.EntryFree matS matG)
    ∧ (Issues tableS matG matP ∧ Clear (issueOf tableS matG matP mzX.view) mzX.view ∧ ¬Claims.EntryFree tableS matG)
    ∧ (∃ x : MDrain, let i := M x.view
        let w1 := matP.s.getD (x.f.num + 1) 0
        Clear i x.view ∧ Checked i ∧ i.any = true ∧ blockReserved (matP.s.getD x.f.num 0) w1 = true ∧ blockVout w1 = true
          ∧ Claims.VoutFree i (i.lastReads x.view).g w1 ∧ Claims.vout w1 = .v 240 16)
    ∧ (∃ x : MDrain, let i := M x.view
        Clear i x.view ∧ Checked i ∧ i.any = true ∧ blockReserved (matP.s.getD x.f.num 0) (matP.s.getD (x.f.num + 1) 0) = false)
    ∧ (∃ x : MTile, Issues (stateOf soloG) soloG soloP ∧ Clear (soloI x.view) x.view ∧ (soloI x.view).any = true
        ∧ ∀ o ∈ (soloI x.view).octs, (soloI x.view).tilePlace ((soloI x.view).areg x.a) x.disp false o = .ok (soloReq o))
    ∧ (Clear dpI dpX.view ∧ Checked dpI ∧ dpI.any = true
        ∧ dpI.readThrough (dpI.areg dpX.a) (Int.ofNat (dpI.areg dpX.a).ptr.toNat) 128 128 = .ok (dpGot.1, dpGot.2)
        ∧ dpI.owes dpGot.2 = false ∧ firstRejected (wordsOf dpGot.1) 0 = none)
    ∧ (Issues badS matG matP ∧ Clear badI dpX.view ∧ Checked badI
        ∧ badI.readThrough (badI.areg dpX.a) (Int.ofNat (badI.areg dpX.a).ptr.toNat) 128 128 = .ok (badGot.1, badGot.2)
        ∧ badI.owes badGot.2 = false ∧ firstRejected (wordsOf badGot.1) 0 = some 0)
    ∧ (∃ x : Dpinv, Clear (M x.view) x.view ∧ Checked (M x.view) ∧ (M x.view).any = true)
    ∧ (∃ x : MStat, Clear (M x.view) x.view ∧ x.n.toNat = 64) ∧ ∃ x : MStat, Clear (M x.view) x.view ∧ x.n.toNat = 63 :=
  ⟨⟨iM, clear_of (by decide +kernel), by decide +kernel, by unfold Claims.EntryFree; decide +kernel⟩,
   ⟨issues_of (by decide +kernel), clear_of (by decide +kernel), by unfold Claims.EntryFree; decide +kernel⟩,
   ⟨⟨C, 0, true, .s 8⟩, clear_of (by decide +kernel), checked_of (by decide +kernel), by decide +kernel, by decide +kernel, by decide +kernel,
    ⟨by decide +kernel, by decide +kernel⟩, by decide +kernel⟩,
   ⟨⟨C, 0, true, .s 6⟩, clear_of (by decide +kernel), checked_of (by decide +kernel), by decide +kernel, by decide +kernel⟩,
   ⟨⟨C, 15, .a 0, 0⟩, issues_of (by decide +kernel), clear_of (by decide +kernel), by decide +kernel, fun o _ => ok_of (by revert o; decide +kernel)⟩,
   ⟨clear_of (by decide +kernel), checked_of (by decide +kernel), by decide +kernel, pair_of (by decide +kernel), by decide +kernel, by decide +kernel⟩,
   ⟨issues_of (by decide +kernel), clear_of (by decide +kernel), checked_of (by decide +kernel), pair_of (by decide +kernel), by decide +kernel, by decide +kernel⟩,
   ⟨⟨C, 63⟩, clear_of (by decide +kernel), checked_of (by decide +kernel), by decide +kernel⟩,
   ⟨⟨C, 64, .s 20⟩, clear_of (by decide +kernel), rfl⟩, ⟨⟨C, 63, .s 20⟩, clear_of (by decide +kernel), rfl⟩⟩

/-- The group has loaded slot 63 and, last, made it invalid; another group's load of it comes after. -/
def chgOp (k : MatKind) : MatOp := { mzOp with kind := k }
def othersOp : MatOp := { chgOp (.dpld 63) with g := { kG with group := 1 } }
def changedS : State := matS.setMtx { matS.mtx with ops := [chgOp (.dpld 63), chgOp (.dpinv 63), othersOp] }
theorem witness_MatrixEntriesAndStatus_changes :
    let i := issueOf changedS matG matP (MStat.view ⟨C, 63, .s 20⟩)
    Issues changedS matG matP ∧ Clear i (MStat.view ⟨C, 63, .s 20⟩)
    ∧ changedS.mtx.ops = [chgOp (.dpld 63), chgOp (.dpinv 63)] ++ [othersOp]
    ∧ (∀ o ∈ [othersOp], ¬(o.g = matG.key ∧ o.cluster = coreCluster i.core))
    ∧ (∀ l, [chgOp (.dpld 63), chgOp (.dpinv 63)].getLast? = some l → l.g = matG.key ∧ l.cluster = coreCluster i.core)
    ∧ i.mstat 63 = 2 :=
  ⟨issues_of (by decide +kernel), clear_of (by decide +kernel), rfl, by decide +kernel, fun l h => by cases h; decide +kernel, by decide +kernel⟩

/-- An atomic of the split is still to be performed on the program. -/
def owingS : State :=
  { matS with ops := { matS.ops with mem := [{ Iss.memOp (M { c := C }) 1 (.atomic .add false false) all16
      [⟨0, 0x1000, 0x1000, 4, 0, [], ⟨0, 0, false, false, 0, 0⟩, .todo, 0⟩] .none 4 false with args := [noArg 0] }] }, sched := { matS.sched with nextId := 2 } }
theorem witness_MatrixEntriesAndStatus_owes : let i := issueOf owingS matG matP dpX.view
    Issues owingS matG matP ∧ Clear i dpX.view ∧ Checked i ∧ i.any = true ∧ okB (i.readThrough (i.areg dpX.a) (Int.ofNat (i.areg dpX.a).ptr.toNat) 128 128) = true
      ∧ i.owes (okGet ([], []) (i.readThrough (i.areg dpX.a) (Int.ofNat (i.areg dpX.a).ptr.toNat) 128 128)).2 = true :=
  ⟨issues_of (by decide +kernel), clear_of (by decide +kernel), checked_of (by decide +kernel), by decide +kernel, by decide +kernel, by decide +kernel⟩

/-- The handler of a stopped drain, its restart registers valid, without and with ABORT; and the survivor of a lost pair. -/
def drainG (pos : Word64) : Group :=
  { matG with priv := true, handler := some { defer := [], code := cDRAIN_FAULT, others := [], since := 0 }, dr := { matG.dr with pos := pos } }
def drainS (g : Group) : State := (stateOf g).setMtx { matS.mtx with ops := [{ mzOp with stopped := true }] }
def lostG : Group := { G with priv := true, pairchk := true, handler := some { defer := [], code := cPAIR_LOST, others := [], since := 0 } }
def lostPairS : State :=
  { stateOf lostG with teams := [{ tm0 with pair := true, pairchk := true }], launches := [Launch.fresh 1 0 0 0 { LRec.zero with degrade := true }] }
theorem witness_ReturnCompletes_drains :
    (let g := drainG 0x8000000000000000
     ∃ o, Issues (drainS g) g matP ∧ Clear (issueOf (drainS g) g matP (⟨C, none⟩ : Rte).view) (⟨C, none⟩ : Rte).view
      ∧ (issueOf (drainS g) g matP (⟨C, none⟩ : Rte).view).any = true ∧ g.holdsHandler matP = true ∧ bitAt g.dr.pos 63 = true ∧ bitAt g.dr.pos 61 = false
      ∧ (drainS g).mtx.ops.find? (fun o => o.g = g.key && o.stopped) = some o ∧ o.mate = none)
    ∧ (let g := drainG 0xA000000000000000
       ∃ o, Issues (drainS g) g matP ∧ Clear (issueOf (drainS g) g matP (⟨C, none⟩ : Rte).view) (⟨C, none⟩ : Rte).view ∧ g.holdsHandler matP = true
        ∧ bitAt g.dr.pos 63 = true ∧ bitAt g.dr.pos 61 = true ∧ (drainS g).mtx.ops.find? (fun o => o.g = g.key && o.stopped) = some o)
    ∧ (Issues lostPairS lostG P ∧ Clear (issueOf lostPairS lostG P (⟨C, none⟩ : Rte).view) (⟨C, none⟩ : Rte).view
        ∧ (issueOf lostPairS lostG P (⟨C, none⟩ : Rte).view).any = true ∧ lostG.holdsHandler P = true
        ∧ ((lostPairS.team? lostG.key.team).map Team.pairchk).getD false = true
        ∧ ((lostPairS.launch? lostG.key.team.launch).map (fun l => l.lrec.degrade)).getD false = true) :=
  ⟨⟨_, issues_of (by decide +kernel), clear_of (by decide +kernel), by decide +kernel, by decide +kernel, by decide +kernel, by decide +kernel,
      some_of (d := mzOp) (by decide +kernel), by decide +kernel⟩,
   ⟨_, issues_of (by decide +kernel), clear_of (by decide +kernel), by decide +kernel, by decide +kernel, by decide +kernel, some_of (d := mzOp) (by decide +kernel)⟩,
   ⟨issues_of (by decide +kernel), clear_of (by decide +kernel), by decide +kernel, by decide +kernel, by decide +kernel, by decide +kernel⟩⟩

/-- Other format blocks in s8 and s9, with the sparse feature. -/
def blkP (w0 w1 : Word64) : Split := { matP with s := matP.s.take 8 ++ [w0, w1] ++ List.replicate 54 0 }
def blkG (w0 w1 : Word64) (stale : BitVec 32) : Group := { groupOf (blkP w0 w1) with stale := stale }
def blkS (g : Group) : State := { stateOf g with pkg := { S.pkg with featAct0 := 0x100 } }
def mmX : Mma := ⟨C, 0, false, .v 248, .w 16, .s 8⟩
def blkI (w0 w1 : Word64) (stale : BitVec 32) (m : Mma) : Iss := issueOf (blkS (blkG w0 w1 stale)) (blkG w0 w1 stale) (blkP w0 w1) (m.view true)
def int8 : MatPair := ⟨.int8, .int8, 32, 8, 16, .i32, true, true, 2⟩
/-- What every clause of the passes asks. -/
def passClear (i : Iss) (w : View) : Bool :=
  (i.stalledOn w).isNone && !i.s0.passWaits i.g0.key && i.flag?.isNone && (i.expired w none).isNone && !i.s0.unchecked i.k i.sid i.p0.region && i.any
def legalBlock (i : Iss) (w0 w1 : Word64) : Bool := blockReserved w0 w1 && blockVout w1 && (i.s0.blockPair w0).isSome
def legalPass (i : Iss) (m : Mma) (w0 w1 : Word64) : Bool :=
  legalBlock i w0 w1 && decide (m.a.num % int8.regsA w0 = 0 ∧ m.a.num + int8.regsA w0 ≤ 256) && decide (m.b.num % 16 = 0 ∧ m.b.num ≤ 16) && (i.rangeAwaited m.a.num (int8.regsA w0) m.b.num int8.bRegs).isNone

/-- v248 to v255 and w16 to w31 are read, and nothing awaits. -/
theorem witness_MatrixPassesIssue : Issues matS matG matP ∧ ∃ (x : Mma) (pr : MatPair), let w := x.view true
    let i := M w
    let w0 := matP.s.getD x.f.num 0
    let w1 := matP.s.getD (x.f.num + 1) 0
    passClear i w = true ∧ Claims.PassReady i x true pr w0 w1 ∧ Claims.EntryFree matS matG ∧ Claims.CurbTakes i (Claims.charge i pr)
      ∧ Claims.VoutFree i (i.lastReads w).g w1 :=
  ⟨iM, ⟨mmX, int8, by decide +kernel,
   { block := ⟨by decide +kernel, fun _ => by decide +kernel, rfl⟩, a := ⟨by decide +kernel, by decide +kernel⟩, b := ⟨by decide +kernel, by decide +kernel⟩
     ready := by decide +kernel, last := fun h => absurd h (by decide +kernel), inside := by decide +kernel, sparse := fun h => absurd h (by decide +kernel)
     fresh := fun n _ _ => by
       show (0 : BitVec 32).getLsbD n = false
       simp },
   by unfold Claims.EntryFree; decide +kernel, ⟨by decide +kernel, by decide +kernel⟩, ⟨by decide +kernel, by decide +kernel⟩⟩⟩

/-- A format that no row has; A and B ranges not aligned; metadata just outside the scratchpad, and of zeros; w31 invalidated; no
entry free. -/
theorem witness_MatrixPassesIssue_refused :
    (passClear (blkI 0x70 0 0 mmX) (mmX.view true) = true ∧ (blkS (blkG 0x70 0 0)).blockPair 0x70 = none)
    ∧ (passClear (blkI 0 0 0 { mmX with a := .v 249 }) (({ mmX with a := .v 249 } : Mma).view true) = true ∧ legalBlock (blkI 0 0 0 mmX) 0 0 = true
        ∧ ¬Claims.legalA { mmX with a := .v 249 } int8 0)
    ∧ (passClear (blkI 0 0 0 { mmX with b := .w 24 }) (({ mmX with b := .w 24 } : Mma).view true) = true ∧ Claims.legalA { mmX with b := .w 24 } int8 0
        ∧ ¬Claims.legalB { mmX with b := .w 24 } int8)
    ∧ (let m : Mma := { mmX with a := .v 240 }
       let i := blkI 0x2000 0x10000000000 0 m
       passClear i (m.view true) = true ∧ legalPass i m 0x2000 0x10000000000 = true
        ∧ (i.firstOutside (i.matRanges int8 0x2000 0x10000000000)).isSome = true)
    ∧ (let m : Mma := { mmX with a := .v 240 }
       let i := blkI 0x2000 0 0 m
       passClear i (m.view true) = true ∧ legalPass i m 0x2000 0 = true ∧ i.firstOutside (i.matRanges int8 0x2000 0) = none ∧ (i.badMeta int8 0).isSome = true)
    ∧ (let i := blkI 0 0 0x80000000 mmX
       passClear i (mmX.view true) = true ∧ legalPass i mmX 0 0 = true ∧ i.firstOutside (i.matRanges int8 0 0) = none ∧ i.g0.stale.getLsbD 31 = true
        ∧ ∀ k, 16 ≤ k → k < 31 → i.g0.stale.getLsbD k = false)
    ∧ (Issues tableS matG matP ∧ ¬Claims.EntryFree tableS matG) := by
  refine ⟨by decide +kernel, ?_, ?_, by decide +kernel, by decide +kernel, ⟨by decide +kernel, by decide +kernel, by decide +kernel, by decide +kernel, ?_⟩,
    issues_of (by decide +kernel), ?_⟩
  · unfold Claims.legalA; decide +kernel
  · unfold Claims.legalA Claims.legalB; decide +kernel
  · intro k h1 h2
    have : ∀ k, k < 31 → (0x80000000#32).getLsbD k = false := by decide
    exact this k h2
  · unfold Claims.EntryFree; decide +kernel

/-! ## Micro-instructions -/

def mdX : MDrain := ⟨C, 0, false, .s 8⟩
/-- A drain of one request: metadata at 0 in the scratchpad, its stores through a0, its v values from v240. -/
def drOp : MatOp := Claims.matOp (M mdX.view) matS
  { kind := .mdrain false, tile := 0, fmt0 := 0, fmt1 := 0x1F00000000000000#64, areg := images.headD .zero, reqs := [Claims.rowsOf (M mdX.view) 0] }
/-- d1 = 4088, d2 = 4089, d3 = 0x1000. -/
def drRun : DrainRun :=
  { cluster := 0, op := drOp.id, octet := 0, elem := 127, slot := 0, d := [0, 4088, 4089, 0x1000, 0, 0, 0, 0], pc := 0, effs := [], fl := 0
    met := none, first := none }
def drS (o : MatOp) (r : DrainRun) : State := matS.setMtx { matS.mtx with ops := [o], run := some r }
def wideOp : MatOp := { drOp with fmt1 := 0x3F00000000000000#64 }
def noneOp : MatOp := { drOp with fmt1 := 0 }
/-- Side words of columns at the scratchpad's end, and beyond it. -/
def edgeOp : MatOp := { drOp with fmt0 := 0x00F0000000000000#64 }
def farOp : MatOp := { drOp with fmt0 := 0x0100000000000000#64 }

theorem witness_DrainValueForms :
    (drS drOp drRun).mtx.run = some drRun ∧ (∃ i d f, Claims.drainValue i = some (d, f))
    ∧ (drS edgeOp drRun).mtx.op? drRun.op = some edgeOp ∧ (drS edgeOp drRun).team? edgeOp.g.team = some tm0
    ∧ (∃ i k d f, Claims.sideValue i = some (true, k, d, f)
        ∧ tm0.spadIn (Int.ofNat (field edgeOp.fmt0 48 16 * 16 + (((drS edgeOp drRun).runLo drRun * 16 + drRun.elem % 16) * 4 + k.toNat) * 4)) 4 = true
        ∧ tm0.spadIn (Int.ofNat (field farOp.fmt0 48 16 * 16 + (((drS farOp drRun).runLo drRun * 16 + drRun.elem % 16) * 4 + k.toNat) * 4)) 4 = false)
    ∧ ∃ i k d f, Claims.sideValue i = some (false, k, d, f) ∧ tm0.spadIn (Int.ofNat (field drOp.fmt0 32 16 * 16 + ((8 * 0 + 127 / 16) * 4 + k.toNat) * 4)) 4 = true :=
  ⟨rfl, ⟨.dmovI ⟨7, 0x1FFF⟩, _, _, rfl⟩, rfl, rfl, ⟨.dlds ⟨3, true, 3⟩, _, _, _, rfl, by decide +kernel, by decide +kernel⟩,
   ⟨.dbias ⟨.f32, 0, 0, false, 3⟩, _, _, _, rfl, by decide +kernel⟩⟩

def glRun : DrainRun := { drRun with d := [0, 0, 0, 0x1000, 0, 0, 0, 0] }
def glGot : Nat × List (Nat × Nat × Nat × BitVec 10) := okGet (0, []) ((drS drOp glRun).drainStore glRun drOp 0 8)
theorem err_of {ε α : Type} {d : ε} {e : Except ε α} (h : okB e = false) : e = .error (match e with | .error x => x | .ok _ => d) := by
  cases e with
  | ok a => cases h
  | error e => rfl

theorem witness_DrainStoreForms :
    (let s := drS drOp drRun
     s.mtx.run = some drRun ∧ s.mtx.op? drRun.op = some drOp ∧ s.team? drOp.g.team = some tm0)
    ∧ (∃ x : DStI, x.glob = false ∧ tm0.spadIn (Claims.dreg drRun x.b).toInt (2 ^ x.z.toNat) = true)
    ∧ (∃ x : DStI, x.glob = false ∧ tm0.spadIn (Claims.dreg drRun x.b).toInt (2 ^ x.z.toNat) = false)
    ∧ (∃ x : DStI, x.glob = true ∧ x.z = 3 ∧ Claims.dreg glRun x.b = 0#64 ∧ (drS drOp glRun).drainStore glRun drOp 0 8 = .ok (glGot.1, glGot.2))
    ∧ (∃ (x : DStI) (f : DrainFlt), x.glob = true ∧ Claims.dreg drRun x.b = 0x1000#64 ∧ (drS drOp drRun).drainStore drRun drOp 0x1000 8 = .error f)
    ∧ bitAt noneOp.fmt1 60 = false ∧ (bitAt drOp.fmt1 60 = true ∧ bitAt drOp.fmt1 61 = false) ∧ (bitAt wideOp.fmt1 60 = true ∧ bitAt wideOp.fmt1 61 = true)
    ∧ (∃ (x : DLaI) (m : Image), (drS drOp drRun).runImage drRun x.x.toNat = some m ∧ m.wide = true)
    ∧ (∃ x : DLaI, ∀ m, (drS drOp drRun).runImage drRun x.x.toNat = some m → m.wide = false ∧ x.ty = .f64)
    ∧ (drRun.first = none ∧ drOp.mate = none)
    ∧ (∃ q e, drOp.reqs.find? (fun q => q.octet = drRun.octet) = some q ∧ nextElem q.rows 15 = some e) := by
  refine ⟨⟨rfl, rfl, rfl⟩, ⟨⟨false, 3, 0, 1⟩, rfl, by decide +kernel⟩, ⟨⟨false, 3, 0, 2⟩, rfl, by decide +kernel⟩,
    ⟨⟨true, 3, 0, 0⟩, rfl, rfl, rfl, pair_of (by decide +kernel)⟩,
    ⟨⟨true, 3, 0, 3⟩, _, rfl, rfl, err_of (d := ⟨0, 0, 0⟩) (by decide +kernel)⟩, by decide, ⟨by decide, by decide⟩, ⟨by decide, by decide⟩,
    ⟨⟨.f64, 1, 0⟩, .zero true, by decide +kernel, rfl⟩, ⟨⟨.f64, 2, 0⟩, fun m h => ?_⟩, ⟨rfl, rfl⟩, ⟨_, 16, rfl, by decide +kernel⟩⟩
  have h2 : (drS drOp drRun).runImage drRun 2 = some (.zero false) := by decide +kernel
  have h3 : some m = some (Image.zero false) := h.symm.trans h2
  cases h3
  exact ⟨rfl, rfl⟩

/-- The other copy's operation is under way too. -/
def mateOp : MatOp := { drOp with mate := some 200 }
def matedS : State := matS.setMtx { matS.mtx with ops := [mateOp, { drOp with id := 200 }], run := some drRun }
theorem witness_DrainStoreForms_mate : ∃ q, matedS.mtx.run = some drRun ∧ matedS.mtx.op? drRun.op = some mateOp ∧ drRun.first = none
    ∧ mateOp.mate.bind matedS.mtx.op? = some q := ⟨{ drOp with id := 200 }, rfl, rfl, rfl, rfl⟩

/-- A global store whose page lies at device 5, which is not reached: nothing held yet, and held for the whole retry period. -/
def awayOp : MatOp := { drOp with areg := ⟨0x40001000, 0x40001000, 0x40002000, true, true, true, false⟩ }
def awayS (holds : List HeldReq) : State :=
  { drS awayOp glRun with cycle := 2 ^ 40, isl := { matS.isl with holds := holds }
                          mem := { matS.mem with cells := cellWrite tables 0x40004010 (leBytes 8 (0xC39 + 2 ^ 51 + 5 * 2 ^ 42)) } }
def awayFlt (s : State) : Option DrainFlt := match s.drainStore glRun awayOp 0 8 with | .error f => some f | .ok _ => none
def awayHeld : HeldReq := ⟨7, .op awayOp.id, 5, 0, 0⟩
theorem witness_DrainStoreForms_away :
    (∀ l ∈ [[], [awayHeld]], (awayFlt (awayS l)).map DrainFlt.code = some cENDPOINT_DOWN ∧ (awayS l).leadOp awayOp = awayOp
      ∧ (awayS l).mtx.op? glRun.op = some awayOp)
    ∧ ((awayS []).heldBack (.op awayOp.id) ((awayS []).drainFar glRun awayOp 0 8)).isSome = true
    ∧ ((awayS [awayHeld]).heldBack (.op awayOp.id) ((awayS [awayHeld]).drainFar glRun awayOp 0 8)).isSome = false := by decide +kernel

/-- An element that has stored a word in the scratchpad, one in memory, one in v255 and an addend in its accumulator, and raised
inexact; it is the request's last, or the last of a row. -/
def endEffs : List DrainEff := [.spad 4088 [1, 2, 3, 4], .glob 0x1000 [(0, 4, 0x1000, 7)] [5, 6, 7, 8], .vreg 255 1 9, .acc 0 true 0x3FF0000000000000#64]
def endOp (z : Bool) : MatOp := { drOp with kind := .mdrain z, flag := some 3 }
def endRun (elem : Nat) : DrainRun := { drRun with effs := endEffs, fl := 1, elem := elem }
def endS (z : Bool) (elem : Nat) : State := drS (endOp z) (endRun elem)
def endB (s : State) (r : DrainRun) (o : MatOp) (last : Bool) : Bool :=
  decide (s.mtx.run = some r) && decide (s.mtx.op? r.op = some o) && r.first.isNone && o.mate.isNone && !o.g.shadow
    && (match o.reqs.find? (fun q => q.octet = r.octet) with
      | some q => (nextElem q.rows r.elem).isNone == last
      | none => false)
    && (match s.team? o.g.team with | some tm => cellsWf tm.spad | none => false) && s.mem.wf
    && (match s.group? o.g with | some g => (g.threads[r.thread]?).any (fun th => !th.exited) | none => false)
    && decide (r.elem < 128) && decide (r.thread < 512) && (Claims.globParts r.effs).all (fun p => !isDevReg p.2.2.1 && isHbm p.2.2.1)
    && decide ((s.mtx.tiles.map (fun t => (t.g, t.octet, t.k))).Nodup) && s.mtx.tiles.all (fun t => decide (t.words.length = 256))
theorem witness_DrainStoreForms_ends :
    (∀ z ∈ [false, true], endB (endS z 127) (endRun 127) (endOp z) true = true ∧ endB (endS z 15) (endRun 15) (endOp z) false = true)
    ∧ ((endS true 127).accKey 0x1000 7 = (endS true 127).accKey 0x1000 7 ∧ (endS true 127).ops.pts = [])
    ∧ (∃ e ∈ (endS true 127).mtx.ops, e.reqs.all (fun x => x.octet == 0) = true)
    ∧ (let r : DrainRun := { drRun with first := some ([], 0), effs := endEffs }
       (drS drOp r).mtx.run = some r ∧ (drS drOp r).mtx.op? r.op = some drOp ∧ ([] : List DrainEff).map effItem ≠ r.effs.map effItem)
    ∧ (∀ h ∈ matS.isl.holds, h.key ≠ .op drOp.id) := by decide +kernel
/-- With no active thread, LR on SRCA or not. -/
theorem witness_MatrixPassesIssue_idle : ∀ l ∈ [false, true], let m : Mma := { mmX with c := { C1 with lrA := l } }
    let w := m.view true
    let i := M w
    i.any = false ∧ (i.stalledOn w).isNone = true ∧ matS.passWaits matG.key = false ∧ (i.expired w none).isNone = true
      ∧ matS.unchecked i.k i.sid i.p0.region = false ∧ (matS.blockPair (matP.s.getD 8 0)).isSome = true ∧ (i.lastAwaited 248 8).isNone = true := by decide +kernel

/-! ## Clauses, waits, cycles, results -/

def run (is : List Instr) (s : State) : State := is.foldl (fun s i => after (exec i s) s) s
/-- The split is at its boundary, its clause at 0x1000; memory there begins with some bytes. -/
def boundP : Split := { P with st := .boundary, pc := 0x1000 }
def boundG : Group := groupOf boundP
def clauseS (g : Group) (bs : List Byte) : State :=
  { stateOf g with sched := State.reset.sched
                   mem := { (stateOf g).mem with cells := cellWrite tables 0x1000 bs } }
/-- A header of one slot, one that waits for flag 11 too, and one with a reserved field set. -/
def hdOk : List Byte := [0, 0xF0, 0xDF, 0, 0, 0, 0, 0]
def hdWait : List Byte := [0, 0xF8, 0xDF, 0, 0, 0, 0, 0]
def hdBad : List Byte := [0, 0xF0, 0xDF, 0x80, 0, 0, 0, 0]
def flagG : Group := { boundG with flags := List.replicate 11 0 ++ [63] }
def clauseOf (s : State) : Word64 × List Word64 := okGet (0, []) (s.fetchClause 0 0 0 0x1000)
def waitS : State := clauseS flagG hdWait
def okS : State := clauseS boundG hdOk
def ok2S : State := clauseS boundG hdWait
def badHdS : State := clauseS boundG hdBad

theorem mayStart_of {s : State} {g : Group} {p : Split}
    (h : (decide (s.group? g.key = some g) && decide (g.split? p.sid = some p) && !g.key.shadow && decide (s.group? { g.key with shadow := true } = none)
      && decide (g.nextSplit = some p) && g.splits.all (fun q => !q.issuing || g.stopped q.sid) && !g.stopping && !g.trapPends) = true) : Claims.MayStart s g p := by
  simp only [Bool.and_eq_true, decide_eq_true_eq, Bool.not_eq_true', List.all_eq_true] at h
  obtain ⟨⟨⟨⟨⟨⟨⟨h1, h2⟩, h3⟩, h4⟩, h5⟩, h6⟩, h7⟩, h8⟩ := h
  refine ⟨h1, h2, h3, h4, h5, fun q hq hi => ?_, h7, .inl h8⟩
  have := h6 q hq
  rw [hi] at this
  simpa using this

theorem witness_ClausesAndWaits_starts :
    (Claims.MayStart okS boundG boundP ∧ okS.fetchClause boundG.core boundG.ctx boundG.fetchMember boundP.pc.toNat = .ok ((clauseOf okS).1, (clauseOf okS).2)
      ∧ headerSound (clauseOf okS).1 = true ∧ slotsSound (clauseOf okS).2 = true ∧ (List.range 12).filter (fun n => (clauseOf okS).1.getLsbD n) = []
      ∧ okS.entersRegion boundG boundP.pc (clauseOf okS).1 = true ∧ okS.unchecked boundG.key boundP.sid boundP.region = false)
    ∧ (Claims.MayStart ok2S boundG boundP ∧ ok2S.fetchClause boundG.core boundG.ctx boundG.fetchMember boundP.pc.toNat = .ok ((clauseOf ok2S).1, (clauseOf ok2S).2)
      ∧ (List.range 12).filter (fun n => (clauseOf ok2S).1.getLsbD n) = [11] ∧ boundG.flag 11 = 0)
    ∧ (Claims.MayStart waitS flagG boundP ∧ waitS.fetchClause flagG.core flagG.ctx flagG.fetchMember boundP.pc.toNat = .ok ((clauseOf waitS).1, (clauseOf waitS).2)
      ∧ headerSound (clauseOf waitS).1 = true ∧ slotsSound (clauseOf waitS).2 = true
      ∧ (List.range 12).filter (fun n => (clauseOf waitS).1.getLsbD n) = [11] ∧ flagG.flag 11 = 63)
    ∧ (Claims.MayStart badHdS boundG boundP
      ∧ badHdS.fetchClause boundG.core boundG.ctx boundG.fetchMember boundP.pc.toNat = .ok ((clauseOf badHdS).1, (clauseOf badHdS).2) ∧ headerSound (clauseOf badHdS).1 = false) :=
  ⟨⟨mayStart_of (by decide +kernel), pair_of (by decide +kernel), by decide +kernel, by decide +kernel, by decide +kernel, by decide +kernel, by decide +kernel⟩,
   ⟨mayStart_of (by decide +kernel), pair_of (by decide +kernel), by decide +kernel, by decide +kernel⟩,
   ⟨mayStart_of (by decide +kernel), pair_of (by decide +kernel), by decide +kernel, by decide +kernel, by decide +kernel, by decide +kernel⟩,
   ⟨mayStart_of (by decide +kernel), pair_of (by decide +kernel), by decide +kernel⟩⟩

/-- A split that waits in some way. -/
def atP (st : SplitSt) : Split := { P with st := st, header := 0x00DFF800#64 }
def atS (st : SplitSt) : State := clauseS (groupOf (atP st)) []
def atReady (st : SplitSt) : Bool :=
  let s := atS st
  let g := groupOf (atP st)
  decide (s.group? g.key = some g) && decide (g.split? 0 = some (atP st)) && decide (s.group? { g.key with shadow := true } = none)
    && !g.stopped 0 && !g.stopping && !g.trapPends && g.noneIssuing
/-- A barrier's generation may have passed a token by as much as 2^31 - 1. -/
def genTm : Team := { tm0 with bars := List.replicate 16 { Barrier.zero with gen := 0x7FFFFFFF } }
theorem witness_ClausesAndWaits_waits :
    (atReady .waiting = true ∧ ∀ n, n < 12 → (atP .waiting).header.getLsbD n = true → (groupOf (atP .waiting)).flag n = 0)
    ∧ (atReady (.blocked (.retry wMATRIX (some 9))) = true ∧ wMATRIX ≠ wCURB ∧ (atS (.blocked (.retry wMATRIX (some 9)))).underWay 9 = false)
    ∧ (atReady (.blocked (.barrier 15 0 16)) = true ∧ (atS (.blocked (.barrier 15 0 16))).team? kG.team = some tm0 ∧ ((tm0.bar 15).gen - 0).toNat < 2 ^ 31)
    ∧ ((genTm.bar 15).gen - 0).toNat < 2 ^ 31 ∧ (({ State.reset with teams := [genTm] } : State).team? kG.team) = some genTm
    ∧ (atReady (.blocked (.barLast 0 0 0 1#512)) = true ∧ (atS (.blocked (.barLast 0 0 0 1#512))).team? kG.team = some tm0
        ∧ ((tm0.bar 0).gen - 0).toNat < 2 ^ 31)
    ∧ (atReady (.blocked (.retry wREMOTE none)) = true ∧ (atS (.blocked (.retry wREMOTE none))).heldIssue ⟨kG, 0⟩ (atP (.blocked (.retry wREMOTE none))).iaddr = false)
    ∧ (atReady (.blocked (.monitor 9)) = true ∧ (atS (.blocked (.monitor 9))).memOp? 9 = none) := by decide +kernel

/-- A core's L1 holds a line, the next cycle brings two soft errors and 90 degrees, and the cycle is the last before a Curb window begins. -/
def lineS : State :=
  { S with cycle := 1022, sched := { S.sched with inputs := [⟨some 17, some (0, 0, 32), some 90⟩] }, mem := { S.mem with l1 := [⟨0, 0, 32, List.replicate 128 0, false, false, 0, false, 0x1000, 0⟩] } }
/-- A group has been at a boundary for 4,032 cycles and offers nothing; the picks of a cycle have not issued. -/
def dueG : Group := { boundG with readyFor := 4032 }
def overdueS : State := clauseS dueG hdOk
theorem witness_CyclesAndResults_selection :
    ((∀ g ∈ lineS.groups, g.readyFor < 4032 ∨ lineS.cycle < g.pauseEnd ∨ lineS.isReady g = false ∨ (g.offer lineS.cycle).isSome = true)
      ∧ lineS.cycleInput.soft = some 17 ∧ lineS.dieLost 17 = false ∧ lineS.cycle + 1 < (lineS.mtx.window + 1) * 1024 ∧ lineS.sched.issue = [])
    ∧ (∃ g ∈ overdueS.groups, 4032 ≤ g.readyFor ∧ g.pauseEnd ≤ overdueS.cycle ∧ overdueS.isReady g = true ∧ g.offer overdueS.cycle = none)
    ∧ ({ S.sched with issue := [⟨kG, 0⟩] } : Sched).issue ≠ [] := by decide +kernel

theorem witness_CyclesAndResults_cycles :
    (∃ (s : State) (g : Group), s.group? g.key = some g ∧ g.pauseEnd ≠ 0 ∧ g.pauseEnd ≤ s.cycle)
    ∧ ∃ (s : State) (g : Group), s.group? g.key = some g ∧ g.key.shadow = false ∧ s.group? { g.key with shadow := true } = none ∧ s.wdLimit g.ctx = g.wd :=
  ⟨⟨{ stateOf { G with pauseEnd := 5 } with cycle := 5 }, { G with pauseEnd := 5 }, by decide +kernel⟩,
   ⟨stateOf { G with wd := 2 ^ 32 }, { G with wd := 2 ^ 32 }, by decide +kernel⟩⟩

/-- A load of two octets whose pieces are all performed, and one into s63. -/
def loadS : State := run [.ld ⟨C, .n32, .v 255, .a 0, .disp 0xFFC⟩] S
def arrived (o : MemOp) : MemOp := { o with pieces := o.pieces.map (fun p => { p with st := .done, data := List.replicate p.size 1 }) }
def opOf (s : State) : MemOp := arrived ((s.ops.mem.head?).getD (Iss.memOp (issueOf S G P mzX.view) 0 .load 0 [] .none 0 false))
def landS (s : State) : State := s.setOps { s.ops with mem := [opOf s] }
def loadS' : State := landS loadS
def uniS' : State := landS (run [.ldu ⟨C, .n64, .s 63, .a 0, .disp 8⟩] S)
theorem witness_CyclesAndResults_results :
    (loadS'.memOp? (opOf loadS).id = some (opOf loadS) ∧ (opOf loadS).kind = .load ∧ 1 ∈ (opOf loadS).octetsLeft ∧ (opOf loadS).octetReady 1 = true
      ∧ (opOf loadS).dest = .v 255 1 ∧ MemOp.octetsLeft { opOf loadS with arrived := BitVec.twoPow 64 1 } ≠ [])
    ∧ (uniS'.memOp? (opOf uniS').id = some (opOf uniS') ∧ 0 ∈ (opOf uniS').octetsLeft ∧ (opOf uniS').octetReady 0 = true ∧ (opOf uniS').dest = .s 63
      ∧ ((uniS'.deliverOctet (opOf uniS') 0).loadDone { opOf uniS' with arrived := BitVec.twoPow 64 0 }).isSome = true) := by decide +kernel
/-- Registers of some group await an octet of an operation. -/
def awaitedB (s : State) (o : MemOp) (octet : Nat) : Bool :=
  s.groups.any (fun g => (List.range 8).any (fun i => (g.threads[8 * octet + i]?).any (fun th => !th.exited)) && (match o.dest with
    | .v n r => g.v.any (fun e => e.busy == some o.id && e.octet == octet && decide (n ≤ e.name ∧ e.name < n + r))
    | .w n r => g.wr.any (fun e => e.busy == some o.id && decide (n ≤ e.name ∧ e.name < n + r))
    | .s n => g.splits.any (fun p => p.sBusy.contains (n, o.id) && decide (n < p.s.length))
    | _ => false))
/-- A load into v255 whose last octet is one of two, one into w30 and w31, and one into s63, every place answered. -/
def ldwS' : State := landS (run [.ldw ⟨C, .n64, .w 30, .a 0, .disp 8⟩] S)
theorem witness_CyclesAndResults_values :
    ∀ e ∈ [(loadS', 1, false), (loadS'.putMemOp { opOf loadS' with arrived := 1 }, 1, true), (ldwS', 0, true), (uniS', 0, true)],
      let o := (e.1.ops.mem.head?).getD (opOf S)
      e.1.memOp? o.id = some o ∧ o.kind = .load ∧ e.2.1 ∈ o.octetsLeft ∧ o.octetReady e.2.1 = true ∧ (∀ p ∈ o.pieces, p.st = .done) ∧ o.args = []
        ∧ o.acq = false ∧ e.1.ops.pts = [] ∧ awaitedB e.1 o e.2.1 = true
        ∧ (MemOp.octetsLeft { o with arrived := o.arrived ||| BitVec.twoPow 64 e.2.1 } = [] ∨ (o.dest = .w 30 2) ∨ o.dest = .s 63 ↔ e.2.2 = true) := by decide +kernel

/-- Two class A traps pend, the split at its boundary, or blocked in BAR.SYNC. -/
def asyncG (st : SplitSt) : Group := { groupOf { boundP with st := st } with asyncs := [⟨cWATCHDOG, 0, false⟩, ⟨cDRAIN_FAULT, 0, false⟩] }
theorem witness_GroupEvents_traps :
    (∀ st ∈ [SplitSt.boundary, .blocked (.barrier 15 1 16)], (stateOf (asyncG st)).group? kG = some (asyncG st)
      ∧ (asyncG st).oldest = some { boundP with st := st } ∧ (firstAsync (asyncG st).asyncs).isSome = true ∧ (asyncG st).priv = false)
    ∧ (stateOf (asyncG (.blocked (.barrier 15 1 16)))).undone (asyncG (.blocked (.barrier 15 1 16))) (.barrier 15 1 16) = true := by decide +kernel

/-- A group whose threads have all exited: a drain of it stands stopped; nothing of it is left; and it is saved. -/
def goneG : Group := { G with threads := G.threads.map (fun t => { t with exited := true }), splits := [] }
def stoppedS : State := (stateOf goneG).setMtx { matS.mtx with ops := [{ mzOp with stopped := true }] }
def goneSaved : Saved := ⟨goneG, 0x100000, 4096, false, false, false, []⟩
theorem witness_GroupEvents_ends :
    ((stateOf goneG).group? goneG.key = some goneG ∧ goneG.key.shadow = false ∧ (∀ th ∈ goneG.threads, th.exited = true) ∧ goneG.flagsClear = true
      ∧ (∀ o ∈ (stateOf goneG).mtx.ops, o.g ≠ goneG.key) ∧ (stateOf goneG).group? { goneG.key with shadow := true } = none)
    ∧ (stoppedS.group? goneG.key = some goneG ∧ ∃ o ∈ stoppedS.mtx.ops, o.g = goneG.key ∧ o.stopped = true)
    ∧ (let s : State := { stateOf goneG with groups := [], saved := [goneSaved] }
       s.group? goneG.key = none ∧ s.saved.find? (fun z => z.g.key = goneG.key) = some goneSaved ∧ goneG.ended = true) := by decide +kernel
/-- Nothing that the group or the other copy of a check pair issued is open, in a state that holds both. -/
def goneSh : Group := { goneG with key := { kG with shadow := true } }
def gonePair : State := { stateOf goneG with groups := [goneG, goneSh] }
theorem witness_GroupEvents_performed : Claims.Performed (stateOf goneG) goneG
    ∧ gonePair.group? { goneG.key with shadow := true } = some goneSh ∧ goneSh.ended = true ∧ Claims.Performed gonePair goneSh :=
  ⟨⟨fun _ h => absurd h List.not_mem_nil, fun _ h => absurd h List.not_mem_nil, by decide +kernel⟩, by decide +kernel, by decide +kernel,
   ⟨fun _ h => absurd h List.not_mem_nil, fun _ h => absurd h List.not_mem_nil, by decide +kernel⟩⟩

/-- One split has arrived at a REGRP that carries nothing; two at different instructions. -/
def arrivedS : State := run [.regrp ⟨C, .v 0, .v 0, 0⟩] S
/-- Two splits that arrive with different instructions. -/
def halves : Group :=
  { boundG with splits := [{ P with mask := 0xFF#512, st := .issuing }, { P with sid := 1, mask := 0xFF00#512, st := .issuing, pc := 0x8040 }] }
def secondS (s : State) : State := { s with sched := { s.sched with cur := some ⟨kG, 1⟩ } }
def mixedS : State := run [.regrp ⟨C, .v 0, .v 1, 1⟩] (secondS (run [.regrp ⟨C, .v 0, .v 1, 1⟩] (stateOf halves)))
def wholeB (s : State) (tm : Team) (f : Nat) : Bool :=
  let gs := s.copyGroups tm.key false
  decide (s.team? tm.key = some tm) && decide (s.copyGroups tm.key true = []) && s.saved.isEmpty && decide (tm.gone = [])
    && decide (gs.map (fun g => g.key.group) = List.range gs.length) && decide (f % 8 = 0) && gs.all (fun g => decide (g.f = f ∧ g.threads.length = f))
theorem whole_of {s : State} {tm : Team} {f : Nat} (h : wholeB s tm f = true) : Claims.WholeTeam s tm (s.copyGroups tm.key false) f := by
  simp only [wholeB, Bool.and_eq_true, decide_eq_true_eq, List.isEmpty_iff, List.all_eq_true] at h
  obtain ⟨⟨⟨⟨⟨⟨h1, h2⟩, h3⟩, h4⟩, h5⟩, h6⟩, h7⟩ := h
  exact ⟨h1, rfl, h2, fun y hy => absurd hy (by rw [h3]; exact List.not_mem_nil), h4, h5, h6, h7⟩
theorem cons_of {α : Type} {l : List α} {Q : α → List α → Prop} [∀ a r, Decidable (Q a r)]
    (h : (match l with | a :: r => decide (Q a r) | [] => false) = true) : ∃ a r, l = a :: r ∧ Q a r := by
  cases l with
  | nil => cases h
  | cons a r => exact ⟨a, r, rfl, of_decide_eq_true h⟩

theorem witness_GroupEvents_sorts :
    (Claims.WholeTeam arrivedS tm0 (arrivedS.copyGroups tm0.key false) 16 ∧ (∀ g ∈ arrivedS.copyGroups tm0.key false, g.arrived = true ∧ g.priv = false)
      ∧ arrivedS.teamQuiet tm0.key = true ∧ (∀ g ∈ arrivedS.copyGroups tm0.key false, arrivedS.coreHolds g.core = true)
      ∧ ∃ e rest, (arrivedS.copyGroups tm0.key false).flatMap Group.arrivals = e :: rest ∧ (∀ f ∈ rest, f.1.iaddr = e.1.iaddr) ∧ e.2.n = 0)
    ∧ (Claims.WholeTeam mixedS tm0 (mixedS.copyGroups tm0.key false) 16 ∧ (∀ g ∈ mixedS.copyGroups tm0.key false, g.arrived = true ∧ g.priv = false)
      ∧ mixedS.teamQuiet tm0.key = true
      ∧ ∃ e rest, (mixedS.copyGroups tm0.key false).flatMap Group.arrivals = e :: rest ∧ ∃ f ∈ rest, f.1.iaddr ≠ e.1.iaddr)
    ∧ (let s := run [.regrp ⟨C, .v 0, .v 8, 3⟩] S
      Claims.WholeTeam s tm0 (s.copyGroups tm0.key false) 16
      ∧ ((s.copyGroups tm0.key false).flatMap Group.arrivals).any (fun e => okB (s.corral tm0 e.1 e.2) && !e.2.ret && e.2.n == 3) = true)
    ∧ (let s := run [.regret ⟨C, .v 0, 0⟩] S
      Claims.WholeTeam s tm0 (s.copyGroups tm0.key false) 16 ∧ tm0.regrouped = false
      ∧ ((s.copyGroups tm0.key false).flatMap Group.arrivals).any (fun e => okB (s.corral tm0 e.1 e.2) && e.2.ret) = true) :=
  ⟨⟨whole_of (by decide +kernel), by decide +kernel, by decide +kernel, by decide +kernel, cons_of (by decide +kernel)⟩,
    ⟨whole_of (by decide +kernel), by decide +kernel, by decide +kernel, cons_of (by decide +kernel)⟩,
    ⟨whole_of (by decide +kernel), by decide +kernel⟩, ⟨whole_of (by decide +kernel), by decide +kernel, by decide +kernel⟩⟩

/-- Two groups of a team whose splits wait for register pool entries; the context's save pool has room, or none. -/
def poolP : Split := { splitOf 1#512 [] with st := .blocked (.retry wREGPOOL none), a := [] }
/-- A group of one thread without accumulators: its record is short. -/
def tiny (p : Split) : Group := { groupOf p with threads := [Thread.fresh 0 0 0 0] }
def poolS (size : Nat) : State :=
  { clauseS (tiny poolP) [] with
    groups := [tiny poolP, { tiny poolP with key := { kG with group := 1 } }]
    ctxs := [{ Context.fresh 0 with keys := 1, root := 2 ^ 30, saveBase := 0x100000, saveSize := size }] }
def roomB (s : State) (g : Group) (kind : SaveKind) : Bool :=
  let s0 := s.flushPrivate g.core g.ctx
  ((s0.ctx? g.ctx).bind (fun c => c.findRoom (s0.groupRecord g (s0.recTiles g.key) kind).length)).isSome
def poolReady (s : State) (room : Bool) : Bool :=
  match s.youngest 0 with
  | g :: h :: rest =>
    (g :: h :: rest).all Group.poolBlocked && !g.key.shadow && decide (s.copiesOf g.key = [g]) && s.quiet g && s.mem.wf
      && (roomB s g ⟨false, s.teamRegrouped g.key.team, false, none⟩ == room)
  | _ => false
theorem witness_GroupEvents_pool : poolReady (poolS 0x100000) true = true ∧ poolReady (poolS 0) false = true ∧ 383 ∉ S.pkg.badCores := by
  decide +kernel

/-! ## Launches, teams, groups that move -/

/-- A LAUNCH has written its record to queue 63. -/
def queuedS : State :=
  (run [.launch lX] { launchS with launches := [{ Launch.fresh 1 0 0 0 LRec.zero with dispatched := [0], ended := [0] }] }).setPkg { S.pkg with healthy := 0x3FF, featAct0 := 0x3FF#64 }
def qCtx : Context := (queuedS.ctx? 0).getD (Context.fresh 1)
def preS : State := { queuedS with ctxs := [{ qCtx with pre := [] }] }
def qRaw : List Byte := (preS.entryBytes qCtx 63).getD []
def qRec : LRec := (parseRec qRaw).1
/-- The distributor has taken it. -/
def takenS : State := run [.distributorTakeLaunch ⟨0, 63⟩] preS
def takenL : Launch := (takenS.launches.getLast?).getD (Launch.fresh 0 0 0 0 LRec.zero)

/-- The device's own access needs no device that is not reached, and nothing of it is held back. -/
def freeB (s : State) (ctx va n : Nat) (p : Perm) : Bool := decide (s.devFar ctx va n p = none) && s.isl.holds.all (fun h => decide (h.key ≠ .dev ctx va))

/-- The entry holds no sound record. -/
def badEntryS : State := { preS with mem := { preS.mem with cells := tables } }
theorem witness_LaunchesAndTeams_take :
    (let c := { qCtx with pre := [] }
     preS.ctx? c.id = some c ∧ preS.serves c 63 = true ∧ preS.entryBytes c 63 = some qRaw ∧ (parseRec qRaw).2.2 = true
      ∧ preS.recordOk c.id qRec (parseRec qRaw).2.1 true = true ∧ (preS.readResv c.id qRec).isSome = true
      ∧ (∀ l ∈ preS.launches, l.handle ≠ c.id * 2 ^ 54 + 63 * 2 ^ 48 + (c.seq + 1) % 2 ^ 48)
      ∧ freeB preS c.id (c.entryAt 63 (countOf c.qhead 63)) 256 .load = true ∧ qRec.resv = 0)
    ∧ (let c := { qCtx with pre := [] }
       badEntryS.ctx? c.id = some c ∧ badEntryS.serves c 63 = true
        ∧ freeB badEntryS c.id (c.entryAt 63 (countOf c.qhead 63)) 256 .load = true
        ∧ (badEntryS.entryBytes c 63).map (fun raw => badEntryS.recordOk c.id (parseRec raw).1 (parseRec raw).2.1 (parseRec raw).2.2) = some false)
    ∧ (queuedS.ctx? qCtx.id = some qCtx ∧ queuedS.serves qCtx 63 = true ∧ (qCtx.pre.find? (fun e => e.q = 63 && e.n = countOf qCtx.qhead 63)).isSome = true
        ∧ (queuedS.entryBytes qCtx 63).isSome = true ∧ freeB queuedS qCtx.id (qCtx.entryAt 63 (countOf qCtx.qhead 63)) 256 .load = true) := by
  decide +kernel
theorem witness_LaunchesAndTeams_complete :
    let l := { Launch.fresh 1 0 0 0 LRec.zero with dispatched := [0], ended := [0] }
    let s : State := { State.reset with launches := [l] }
    s.launch? l.handle = some l ∧ l.complete = false ∧ l.allDispatched = true ∧ (∀ t ∈ l.dispatched, t ∈ l.ended) ∧ s.launchReleased l.handle = true
      ∧ l.lrec.done = 0 ∧ freeB launchS 0 0x1100 8 .store = true := by
  decide +kernel
/-- A ring of four entries with one place free. -/
def ringC : Context := { Context.fresh 0 with posts := [(1, 2, 3)], crdepth := 4, crtail := 3, gen := 2 }
/-- A ring at device 5, which is not reached: nothing held yet, a post held a cycle ago, and one whose retry period is over. -/
def farC : Context := { ringC with crbase := 0x40001000, root := 2 ^ 30, keys := 1 }
def ringFarS (holds : List HeldReq) : State :=
  { S with cycle := 2 ^ 40, ctxs := [farC], isl := { S.isl with holds := holds }
           mem := { S.mem with cells := cellWrite tables 0x40004010 (leBytes 8 (0xC39 + 2 ^ 51 + 5 * 2 ^ 42)) } }
def heldAt (since : Nat) : HeldReq := ⟨7, .dev 0 (0x40001000 + 3 * 32), 5, since, 0⟩
theorem witness_LaunchesAndTeams_post :
    (let s : State := { State.reset with ctxs := [ringC] }
     s.ctx? ringC.id = some ringC ∧ ringC.posts = [(1, 2, 3)] ∧ ringC.ringRoom = 1 ∧ freeB s 0 (ringC.crbase.toNat + 3 * 32) 32 .store = true)
    ∧ (∀ l ∈ [[], [heldAt (2 ^ 40)], [heldAt 0]], (ringFarS l).ctx? farC.id = some farC ∧ farC.ringRoom = 1
        ∧ (ringFarS l).devFar 0 (farC.crbase.toNat + farC.crtail.toNat % farC.crdepth * 32) 32 .store = some 5)
    ∧ (ringFarS []).passed (2 ^ 40) (ringFarS []).isl.retry = false ∧ (ringFarS []).passed 0 (ringFarS []).isl.retry = true := by
  decide +kernel
theorem witness_LaunchesAndTeams_dispatch :
    takenS.launch? takenL.handle = some takenL ∧ takenL.allDispatched = false ∧ takenS.firstGoing takenL = some (0, true)
      ∧ takenS.fits takenL.lrec 383 = true ∧ takenL.lrec.priv = 0 := by decide +kernel
/-- A TABLE row names the team itself to wait for. -/
def rowL : Launch := Launch.fresh 2 0 0 0 { LRec.zero with table := 0x1000, nx := 1, ny := 1, nz := 1, nmb := 1 }
def rowS : State := { launchS with launches := [rowL], mem := { launchS.mem with cells := cellWrite tables 0x1000 [1] } }
theorem witness_LaunchesAndTeams_table : rowS.launch? rowL.handle = some rowL ∧ rowL.allDispatched = false ∧ (rowS.firstGoing rowL).isSome = true
      ∧ freeB rowS rowL.ctx rowL.lrec.table.toNat 64 .load = true := by
  decide +kernel

/-- The team's one group has ended; its launch names a bitmap at 0x1080. -/
def bitL : Launch := { Launch.fresh 1 0 0 0 { LRec.zero with bitmap := 0x1080 } with dispatched := [0] }
def bitTm : Team := tm0
def bitS : State :=
  { launchS with groups := [{ G with threads := G.threads.map (fun t => { t with exited := true, done := some 0 }), splits := [] }], launches := [bitL], teams := [bitTm] }
theorem witness_LaunchesAndTeams_bitmap :
    bitS.team? bitTm.key = some bitTm ∧ bitS.launch? bitTm.key.launch = some bitL ∧ bitTm.bitSet = false ∧ bitL.lrec.bitmap ≠ 0
      ∧ (∀ n, n < bitL.lrec.groups → bitS.groupDone ⟨bitTm.key, n, false⟩ bitL.lrec.f = true)
      ∧ freeB bitS bitL.ctx (bitL.lrec.bitmap.toNat + bitTm.key.team / 8) 1 .load = true
      ∧ bitS.devRead bitL.ctx (bitL.lrec.bitmap.toNat + bitTm.key.team / 8) 1 = some [0]
      ∧ ((bitS.putTeam { bitTm with bitSet := true }).devWrite bitL.ctx (bitL.lrec.bitmap.toNat + bitTm.key.team / 8) [0 ||| BitVec.twoPow 8 (bitTm.key.team % 8)]).isSome = true := by
  decide +kernel

/-- Core 0 alone runs, with a group of context 0; a launch of context 1 waits that needs all of a scratchpad. -/
def waitL (q : Nat) : Launch := Launch.fresh 2 1 q 1 { LRec.zero with spad := 320 }
def crowdS (q : Nat) : State :=
  { S with groups := [boundG], sched := State.reset.sched, launches := [Launch.fresh 1 0 16 0 LRec.zero, waitL q], cycle := 2250 * 2000 + 1
           ctxs := [{ Context.fresh 0 with keys := 1, root := 2 ^ 30, slices := [(0, 1)] }, Context.fresh 1], teams := [{ tm0 with k := 128 * 1024 }]
           pkg := { S.pkg with healthy := 1, badCores := (List.range 47).map (· + 1) } }
/-- A choice of groups to leave, one of them not yet asked. -/
def asks (s : State) (ls : List Launch) : Bool :=
  match ls.findSome? (fun l => s.victims 0 0 l) with
  | some ks => s.groups.any (fun g => ks.contains { g.key with shadow := false } && !g.evictReq)
  | none => false
theorem witness_GroupsMove_slice :
    let s := crowdS 16
    let c := { Context.fresh 0 with keys := 1, root := 2 ^ 30, slices := [(0, 1)] }
    s.ctx? c.id = some c ∧ s.prioOn c.id 0 = some (prioOf 16) ∧ c.slices.find? (fun e => e.1 = 0) = some (0, 1) ∧ 1 + c.tslice * 2250 ≤ s.cycle
      ∧ asks s ((s.waitingLaunches c.id ++ s.waitingTeams c.id).filter (fun l => decide (prioOf l.q ≤ prioOf 16))) = true := by
  decide +kernel
theorem witness_GroupsMove_priority :
    (crowdS 15).prioOn 0 0 = some (prioOf 16)
      ∧ asks (crowdS 15) (((crowdS 15).waitingLaunches 0 ++ (crowdS 15).waitingTeams 0).filter (fun l => decide (prioOf l.q < prioOf 16))) = true := by
  decide +kernel

/-- A group of one thread that was asked to leave: alone in its team, and with another. -/
def leaveG : Group := { tiny { splitOf 1#512 [] with st := .boundary, a := [] } with evictReq := true }
def leaveS : State :=
  { clauseS leaveG [] with ctxs := [{ Context.fresh 0 with keys := 1, root := 2 ^ 30, saveBase := 0x100000, saveSize := 0x100000 }], teams := [{ tm0 with bars := [] }] }
def bothS : State := { leaveS with groups := [leaveG, { leaveG with key := { kG with group := 1 }, evictReq := false }] }
def plainSave (s : State) : SaveKind := ⟨false, s.teamRegrouped kG.team, false, none⟩
def leaves (s : State) : Bool :=
  decide (s.group? kG = some leaveG) && !leaveG.priv && !leaveG.haltReq && leaveG.asyncs.isEmpty && decide (s.copiesOf kG = [leaveG]) && s.quiet leaveG
    && !leaveG.det && s.mem.wf && roomB s leaveG (plainSave s)
theorem witness_GroupsMove_save :
    (leaves bothS = true ∧ ∃ h ∈ bothS.groups, h.key.team = leaveG.key.team ∧ h.key ≠ leaveG.key)
    ∧ (leaves leaveS = true ∧ match leaveS.saveGroup kG ⟨plainSave leaveS, false⟩ with
        | some t => (match t.team? kG.team with
          | some tm => (∀ h ∈ t.groups, h.key.team ≠ tm.key) ∧ (∀ z ∈ t.saved, z.halted = false ∧ z.regpool = false) ∧ tm.defers = [] ∧ t.ops.copies = []
              ∧ ((t.ctx? tm.ctx).bind (fun c => c.findRoom (tm.record (t.teamLive tm.key)).length)).isSome = true
          | none => False)
        | none => False) := by
  refine ⟨by decide +kernel, by decide +kernel, ?_⟩
  have h : (match leaveS.saveGroup kG ⟨plainSave leaveS, false⟩ with
        | some t => (match t.team? kG.team with
          | some tm => decide ((∀ h ∈ t.groups, h.key.team ≠ tm.key) ∧ (∀ z ∈ t.saved, z.halted = false ∧ z.regpool = false) ∧ tm.defers = [] ∧ t.ops.copies = []
              ∧ ((t.ctx? tm.ctx).bind (fun c => c.findRoom (tm.record (t.teamLive tm.key)).length)).isSome = true)
          | none => false)
        | none => false) = true := by decide +kernel
  split at h
  · split at h
    · exact of_decide_eq_true h
    · cases h
  · cases h

def goneY : Saved := ⟨{ leaveG with evictReq := false }, 0x100000, 4096, false, false, false, []⟩
def savedS : State := { leaveS with groups := [], saved := [goneY], pkg := { S.pkg with healthy := 0x3FF } }
theorem witness_GroupsMove_resume :
    let tm : Team := { tm0 with bars := [] }
    savedS.saved.filter (fun z => z.g.key.team = goneY.g.key.team && z.g.key.group = goneY.g.key.group) = [goneY]
      ∧ goneY.g.key.shadow = false ∧ (∀ z ∈ savedS.saved, z.halted = false ∧ goneY.g.key.team.team ≤ z.g.key.team.team ∧ z.regpool = false)
      ∧ savedS.team? goneY.g.key.team = some tm ∧ savedS.group? goneY.g.key = none ∧ savedS.takesBack goneY.g (tm.coreFor tm.core goneY.g.key) = true
      ∧ (∀ p ∈ goneY.g.splits, p.st ≠ .blocked .halted)
      ∧ (savedS.mtx.stored (coreCluster 0)).length + (goneY.g.restoreTiles (cellRead savedS.mem.cells goneY.addr goneY.size) 0).length ≤ 4096 := by decide +kernel

/-! ## Homes, orders, copies -/

/-- Operations under way, not yet performed. -/
def rawOp (s : State) : MemOp := (s.ops.mem.head?).getD (opOf s)
def stS : State := run [.st ⟨C, .n64, .v 8, .a 0, .disp 0xFF8⟩] S
def atS' : State := run [.atom ⟨C, .add, true, .dev, .none, .x1, .v 254, .a 0, .s 0⟩] S
def lostS : State := stS.putMemOp { rawOp stS with pieces := (rawOp stS).pieces.map (fun p => { p with st := .lost, drops := 3 }) }
def dropS : State := loadS.putMemOp { rawOp loadS with pieces := (rawOp loadS).pieces.map (fun p => { p with drops := 2 }) }

/-- Piece 0 of an operation and those with it are due, and what a home access asks besides. -/
def dueB (s : State) (o : MemOp) : Bool :=
  match o.pieces with
  | p :: _ =>
    decide (s.memOp? o.id = some o) && (o.together 0 p).all (fun e => s.homeDue o e.2) && (!p.attr.sc || decide (o.together 0 p = [(0, p)]))
      && (!isRemote p.pa || s.reachable (frameDev p.pa)) && s.mem.monitors.all (fun m => decide (m.op ≠ o.id))
  | [] => false
theorem due_of {s : State} {o : MemOp} (h : dueB s o = true) : ∃ p, Claims.Due s o 0 p := by
  unfold dueB at h
  split at h
  · rename_i p rest hp
    simp only [Bool.and_eq_true, decide_eq_true_eq, List.all_eq_true, Bool.or_eq_true, Bool.not_eq_true'] at h
    obtain ⟨⟨⟨⟨h1, h2⟩, h3⟩, h4⟩, h5⟩ := h
    refine ⟨p, h1, by rw [hp]; rfl, h2, fun hs => ?_, fun hr => ?_, h5⟩
    · rcases h3 with h3 | h3
      · rw [hs] at h3; cases h3
      · exact h3
    · rcases h4 with h4 | h4
      · rw [hr] at h4; cases h4
      · exact h4
  · cases h

/-- The piece of an operation. -/
def firstOf (o : MemOp) : Piece := (o.pieces.head?).getD ⟨0, 0, 0, 0, 0, [], ⟨0, 0, false, false, 0, 0⟩, .todo, 0⟩
/-- The same operation at other places, one thread's granule after another's. -/
def moveOp (pa : Nat) (o : MemOp) : MemOp := { o with pieces := o.pieces.map (fun p => { p with pa := pa + 64 * p.thread }) }
def onlyOp (s : State) (o : MemOp) : State := s.setOps { s.ops with mem := [o] }
/-- The state with the island joined and a port up. -/
def joinedS : State := { S with isl := { S.isl with st := .joined, ports := [{ Port.fresh 0 with up := true }] } }
def storeOp (pa : Nat) : MemOp := moveOp pa (rawOp stS)
def loadOp (pa : Nat) : MemOp := moveOp pa (rawOp loadS)
/-- A store of eight bytes that is SC and lies across two granules, in two pieces. -/
def scOp : MemOp :=
  { rawOp stS with pieces := [⟨0, 0x103C, 0x103C, 4, 0, [1, 2, 3, 4], ⟨0, 0, true, false, 0, 0⟩, .todo, 0⟩,
                              ⟨0, 0x1040, 0x1040, 4, 4, [5, 6, 7, 8], ⟨0, 0, true, false, 0, 0⟩, .todo, 0⟩] }

/-- A store at its home, one that no window of the own frame admits, one at device 5, one to a register, and an SC one in parts. -/
theorem witness_HomesAndOrders_stores :
    (let o := rawOp stS
     let p := firstOf o
     dueB stS o = true ∧ o.kind = .store ∧ o.late = false ∧ stS.elsewhere p.pa = false ∧ isDevReg p.pa = false
      ∧ (stS.placeOf p.pa p.data.length p.attr.key .write).isSome = true ∧ stS.threadRefused o p.thread = none ∧ stS.mem.wf = true)
    ∧ (let s := onlyOp joinedS (storeOp (2 ^ 51))
       dueB s (storeOp (2 ^ 51)) = true ∧ s.elsewhere (firstOf (storeOp (2 ^ 51))).pa = false ∧ s.threadRefused (storeOp (2 ^ 51)) 0 = some cREMOTE_WINDOW)
    ∧ (let s := onlyOp joinedS (storeOp (2 ^ 51 + 5 * 2 ^ 42))
       dueB s (storeOp (2 ^ 51 + 5 * 2 ^ 42)) = true ∧ s.elsewhere (firstOf (storeOp (2 ^ 51 + 5 * 2 ^ 42))).pa = true)
    ∧ (let s := onlyOp S (storeOp 0x8000000000)
       dueB s (storeOp 0x8000000000) = true ∧ isDevReg (firstOf (storeOp 0x8000000000)).pa = true ∧ (storeOp 0x8000000000).late = false
        ∧ s.threadRefused (storeOp 0x8000000000) 0 = none)
    ∧ (let s := onlyOp S scOp
       s.memOp? scOp.id = some scOp ∧ scOp.kind = .store ∧ scOp.late = false ∧ s.threadRefused scOp 0 = none ∧ s.mem.monitors = []
        ∧ (scOp.together 0 (firstOf scOp)).length = 2 ∧ (∀ e ∈ scOp.together 0 (firstOf scOp), s.homeDue scOp e.2 = true ∧ isHbm e.2.pa = true)
        ∧ (∀ e ∈ scOp.together 0 (firstOf scOp), e.2.attr.key = (firstOf scOp).attr.key) ∧ s.mem.wf = true
        ∧ (scOp.together 0 (firstOf scOp)).Pairwise (fun d e => d.2.pa + d.2.data.length ≤ e.2.pa ∨ e.2.pa + e.2.data.length ≤ d.2.pa)) := by
  decide +kernel

/-- A private line of the core's L1 at 0x1000, and a line of device 5's frame in the RDC. -/
def privS : State := { loadS with mem := { loadS.mem with l1 := [⟨0, 0, (firstOf (rawOp loadS)).pa / 128, List.replicate 128 7, true, false, 0, false, 0x1000, 0⟩] } }
theorem witness_HomesAndOrders_loads :
    (let o := rawOp loadS
     let p := firstOf o
     dueB loadS o = true ∧ o.kind = .load ∧ (loadS.mem.l1? o.core o.ctx (p.pa / 128)).filter L1Line.priv = none ∧ loadS.elsewhere p.pa = false
      ∧ isDevReg p.pa = false ∧ o.rdcAllocates p = false ∧ (loadS.placeOf p.pa p.size p.attr.key .read).isSome = true ∧ ∀ l ∈ loadS.mem.l1, l.dirty = false)
    ∧ (let o := rawOp privS
       let p := firstOf o
       dueB privS o = true ∧ p.cacheable = true ∧ ((privS.mem.l1? o.core o.ctx (p.pa / 128)).filter L1Line.priv).map L1Line.bad = some false)
    ∧ (let o := loadOp (2 ^ 51 + 5 * 2 ^ 42)
       let s := onlyOp joinedS o
       dueB s o = true ∧ s.elsewhere (firstOf o).pa = true ∧ o.rdcAllocates (firstOf o) = true
        ∧ s.mem.rdc? (coreBase o.core) o.ctx ((firstOf o).pa / 128) = none)
    ∧ (let o := { loadOp (2 ^ 51 + 5 * 2 ^ 42) with acq := true }
       let s := onlyOp joinedS o
       dueB s o = true ∧ s.elsewhere (firstOf o).pa = true ∧ o.rdcAllocates (firstOf o) = false) := by
  decide +kernel

def prefS : State := run [.pref ⟨C, .l1, .a 0, .disp 0⟩] S
theorem witness_HomesAndOrders_paths :
    (dueB prefS (rawOp prefS) = true ∧ (rawOp prefS).kind = .pref true)
    ∧ (dropS.memOp? (rawOp dropS).id = some (rawOp dropS) ∧ (firstOf (rawOp dropS)).drops = 2
        ∧ ∀ e ∈ (rawOp dropS).together 0 (firstOf (rawOp dropS)), dropS.homeDue (rawOp dropS) e.2 = true)
    ∧ (let o := loadOp (2 ^ 51 + 5 * 2 ^ 42)
       let s := onlyOp S o
       s.memOp? o.id = some o ∧ s.reachable (frameDev (firstOf o).pa) = false ∧ o.heldAt = none
        ∧ ∀ e ∈ o.together 0 (firstOf o), s.homeDue o e.2 = true)
    ∧ (lostS.memOp? (rawOp lostS).id = some (rawOp lostS) ∧ ∃ p ∈ (rawOp lostS).pieces, p.st = .lost) := by
  decide +kernel

/-- The next atomic of an operation may be performed. -/
def atomDue (s : State) (o : MemOp) : Bool :=
  match o.nextAtomic with
  | some (t, p :: ps) =>
    decide (s.memOp? o.id = some o) && (p :: ps).all (fun q => s.homeDue o q) && (o.args.find? (fun a => a.thread = t)).isSome
      && s.mem.monitors.all (fun m => decide (m.op ≠ o.id))
      && (if isRemote p.pa then s.elsewhere p.pa && s.reachable (frameDev p.pa) else isHbm p.pa && (s.homeRead p.pa o.width p.attr.key).isSome && s.mem.wf)
  | _ => false
theorem witness_HomesAndOrders_units :
    atomDue atS' (rawOp atS') = true ∧ (rawOp atS').kind = .atomic .add true true
      ∧ atomDue (onlyOp joinedS (moveOp (2 ^ 51 + 5 * 2 ^ 42) (rawOp atS'))) (moveOp (2 ^ 51 + 5 * 2 ^ 42) (rawOp atS')) = true := by
  decide +kernel

def monS : State := run [.waitc ⟨C, .ne, false, true, .dev, .a 0, .imm 5⟩] S
/-- The monitor is held, and 2,048 cycles have passed. -/
def heldM : Monitor := ⟨(rawOp monS).id, 10, 0x1000, 8, .ne, false, 5, 0, true, 0, none⟩
def heldS : State := { monS with cycle := 2048, mem := { monS.mem with monitors := [heldM] } }
def flS : State := run [.ldra ⟨C, true, .dev, .v 8, .a 0, .disp 0⟩] S
def flO : MemOp := { rawOp flS with flush := [(0, 32)] }
def ackS : State := stS.putMemOp (arrived (rawOp stS))
def ldraE : PeerLdra := ⟨900, 5, 0, 32, List.replicate 8 0⟩
def ldraS : State := { S with isl := { S.isl with ldras := [ldraE] } }
/-- A release store to a frame of device 5, its flag set. -/
def relO : MemOp := { storeOp (2 ^ 51 + 5 * 2 ^ 42) with rel := true, flag := some 3 }
def relS : State := onlyOp joinedS relO
theorem witness_HomesAndOrders_orders :
    (monS.memOp? (rawOp monS).id = some (rawOp monS) ∧ (rawOp monS).kind = .monitor .ne false 5 ∧ monS.mem.monitors = []
      ∧ (rawOp monS).pieces = [firstOf (rawOp monS)] ∧ isHbm (firstOf (rawOp monS)).pa = true ∧ monS.homeDue (rawOp monS) (firstOf (rawOp monS)) = true
      ∧ (monS.homeRead (firstOf (rawOp monS)).pa (firstOf (rawOp monS)).size (firstOf (rawOp monS)).attr.key).isSome = true)
    ∧ (heldS.memOp? (rawOp monS).id = some (rawOp monS) ∧ heldS.mem.monitors.find? (fun e => e.op = (rawOp monS).id && e.held) = some heldM
      ∧ heldM.seen + 2048 ≤ heldS.cycle ∧ (heldS.homeRead (firstOf (rawOp monS)).pa 8 (firstOf (rawOp monS)).attr.key).isSome = true)
    ∧ ((flS.putMemOp flO).memOp? flO.id = some flO ∧ flO.flush = [(0, 32)] ∧ (flS.putMemOp flO).flushReady 0 = true)
    ∧ (ldraS.memOp? ldraE.id = none ∧ ldraS.isl.ldras.find? (fun x => x.id = ldraE.id) = some ldraE ∧ ldraS.flushReady ldraE.core = true)
    ∧ (ackS.memOp? (rawOp ackS).id = some (rawOp ackS) ∧ (rawOp ackS).kind = .store ∧ ∀ p ∈ (rawOp ackS).pieces, p.open' = false)
    ∧ (relS.memOp? relO.id = some relO ∧ relS.acceptable relO = true) := by
  decide +kernel

/-- No table maps the highest address; and tables at 0x8000, 0xA000 and 0xC000 lead it to a leaf of 1 GiB. -/
def walkS : State :=
  { S with ctxs := [{ Context.fresh 0 with root := 0x8000 }]
           mem := { S.mem with cells := cellWrite (cellWrite (cellWrite [] 0x9FF0 (leBytes 8 0xA003)) 0xBFF0 (leBytes 8 0xC003)) 0xDFF0 (leBytes 8 0xC39) } }
def lastVa : Nat := 2 ^ 57 - 1
theorem witness_HomesAndOrders_walks :
    ((S.ctx? 0).isSome = true ∧ S.tlbFind 383 0 lastVa = none ∧ (match S.leafFor 383 0 lastVa with | .error _ => true | .ok _ => false) = true
      ∧ (walkReads S lastVa (S.walkStart 383 0 lastVa (2 ^ 30)).1 (S.walkStart 383 0 lastVa (2 ^ 30)).2).getLast?.isSome = true)
    ∧ ((walkS.ctx? 0).isSome = true ∧ walkS.tlbFind 383 0 lastVa = none
        ∧ (match walkS.leafFor 383 0 lastVa with | .error _ => false | .ok w => w.1 == 0xC39#64) = true) := by
  decide +kernel

/-! ## Copies -/

/-- A copy within the scratchpad of eight bytes, in two words, its ranges apart. -/
def cyS : State := run [.cpy ⟨C, 0, false, true, .s 7, .s 3, .s 6⟩] cpS
def cyO : CopyOp := (cyS.ops.copies.head?).getD ⟨0, .toSpad, kG, 0, 0, 0, 0, [], false, none, 0, none, 0, none, 0⟩
def landed (k : Nat) : State × Nat × Option (BitVec 8 × Nat) × List Byte := State.deliverUnits cyO ((cyO.units.drop cyO.done).take k) cyS []
/-- The copy's next unit is due and meets no error, with what the statement asks of the team and of the unit (`Claims.UnitDue`,
`Claims.Whole`); `more` says whether another follows it. -/
def unitB (s : State) (o : CopyOp) (more : Bool) : Bool :=
  match o.units.drop o.done with
  | [] => false
  | u :: us =>
    decide (s.ops.copies.find? (fun c => c.id = o.id) = some o) && decide ((s.channelHead o.core o.ch).map CopyOp.id = some o.id)
      && s.engineReady o.g o.threads o.inst && !s.qfenceHolds o.g o.ch o.inst && !s.copyFailed o && (!o.snap || o.snapshot.isSome) && !u.far s
      && (o.kind != .toSpad || u.pas.all (fun p => !s.elsewhere p.2.2.1 && (s.placeOf p.2.2.1 p.2.1 p.2.2.2 .read).isSome
        && okB (s.engineRead o.core o.ctx p.2.2.1 p.2.1 p.2.2.2)))
      && (o.kind != .out || (u.pas.all (fun p => (s.writeRefused p.2.2.1 p.2.1 p.2.2.2).isNone && !isDevReg p.2.2.1) && o.snapshot.isNone
        && (match u.pas with | [(0, n, pa, key)] => n == u.len && !s.elsewhere pa && (s.placeOf pa u.len key .write).isSome | _ => false)))
      && (match o.snapshot with | some all => decide (4 * o.done + u.len ≤ all.length) | none => true)
      && decide (u.pas.Pairwise (fun p q => p.1 + p.2.1 ≤ q.1)) && (us.isEmpty != more)
      && (match s.team? o.g.team with | some tm => cellsWf tm.spad && cellsWf tm.spad2 | none => false) && s.mem.wf && s.ops.pts.isEmpty
      && (s.group? { o.g with shadow := false }).isSome
/-- The first copy of a state, and the state after its first unit. -/
def headOf (s : State) : CopyOp := (s.ops.copies.head?).getD cyO
def one (s : State) : State := run [.copyChannelOperation ⟨(headOf s).id, 1, none, .data []⟩] s
/-- The same from memory and to memory; and within the scratchpad onto itself, before and after it is read in advance. -/
def inS : State := run [.cpy ⟨{ C with fsel := .setA }, 0, false, false, .s 7, .a 0, .s 6⟩] cpS
def outS : State := run [.cpyout ⟨{ C with fsel := .setA }, 0, false, .a 0, .s 7, .s 6⟩] cpS
def lapS : State := run [.cpy ⟨C, 0, false, true, .s 7, .s 7, .s 6⟩] cpS
theorem witness_CopiesLand_units :
    (∀ s ∈ [cyS, inS, outS], unitB s (headOf s) true = true ∧ unitB (one s) (headOf (one s)) false = true)
    ∧ ((headOf inS).kind = .toSpad ∧ (headOf outS).kind = .out ∧ (headOf inS).flag.isSome = true ∧ (headOf cyS).kind ≠ .toSpad ∧ (headOf cyS).kind ≠ .out)
    ∧ ((headOf lapS).snap = true ∧ (headOf lapS).snapshot = none ∧ (headOf (one lapS)).snapshot.isSome = true ∧ unitB (one lapS) (headOf (one lapS)) false = true) := by
  decide +kernel
/-- What an engine reads: a line of the core's L1, or the home. -/
theorem witness_CopiesLand_reads :
    ((privS.mem.l1? 0 0 ((firstOf (rawOp loadS)).pa / 128)).any (fun l => !l.bad) = true ∧ isHbm (firstOf (rawOp loadS)).pa = true)
    ∧ (S.mem.l1? 0 0 (0x1000 / 128) = none ∧ S.pendingStores 0 0 = [] ∧ (S.homeRead 0x1000 4 7).isSome = true ∧ isHbm 0x1000 = true) := by decide +kernel
/-- An arrival deferred behind that copy, which has ended since. -/
def deferS : State :=
  let s := run [.barDefer ⟨C, 3, .s 10, .imm 0, 255⟩] (again cyS)
  s.setOps { s.ops with copies := [] }
theorem witness_CopiesLand :
    (cyS.ops.copies.find? (fun c => c.id = cyO.id) = some cyO ∧ (cyS.channelHead cyO.core cyO.ch).map CopyOp.id = some cyO.id
      ∧ cyS.engineReady cyO.g cyO.threads cyO.inst = true ∧ cyS.qfenceHolds cyO.g cyO.ch cyO.inst = false ∧ cyS.copyFailed cyO = false
      ∧ (cyO.snap = false ∨ cyO.snapshot.isSome = true) ∧ (cyO.units.drop cyO.done).length = 2
      ∧ (∀ k, k < 3 → 0 < k → (landed k).2.1 = k ∧ (landed k).2.2.1.isNone = true ∧ (landed k).2.2.2 = [])
      ∧ ((cyO.units.drop cyO.done)[1]?.map (fun u => u.far cyS)) = some false)
    ∧ match (deferS.team? kG.team).bind (fun t => t.defers.head?) with
      | some d => ((deferS.team? kG.team).bind (fun t => t.defers.find? (fun e => e.id = d.id))) = some d ∧ (∀ o ∈ deferS.ops.copies, o.id ∉ d.ops)
          ∧ deferS.earlierMet d.g (BitVec.twoPow 512 d.thread) d.id .team = true ∧ d.bar < 16
      | none => False := by
  refine ⟨by decide +kernel, ?_⟩
  have h : (match (deferS.team? kG.team).bind (fun t => t.defers.head?) with
      | some d => decide (((deferS.team? kG.team).bind (fun t => t.defers.find? (fun e => e.id = d.id))) = some d ∧ (∀ o ∈ deferS.ops.copies, o.id ∉ d.ops)
          ∧ deferS.earlierMet d.g (BitVec.twoPow 512 d.thread) d.id .team = true ∧ d.bar < 16)
      | none => false) = true := by decide +kernel
  split at h
  · exact of_decide_eq_true h
  · cases h

/-! ## The matrix engine -/

/-- Where the tile of an octet lies, from the operand of MKLD and MKST. -/
def bareReq' (o : Nat) : MatReq := okGet (Claims.rowsOf (M mzX.view) 0) ((M mzX.view).tilePlace ((M mzX.view).areg (.a 0)) 0 false o)
def mmS : State := run [.mma ⟨C, 0, false, .v 248, .w 16, .s 8⟩] matS
def mmO : MatOp := (mmS.mtx.ops.head?).getD drOp
def upOp : MatOp := { mzOp with level := 3, levelAt := 0 }
def matWith (o : MatOp) : State := { matS.setMtx { matS.mtx with ops := [o] } with cycle := 512 }
/-- An MKLD and an MKST of the image at 0x1000. -/
def kldOp : MatOp := { Claims.matOp (M mzX.view) matS { kind := .mkld, tile := 15, reqs := [bareReq' 0] } with areg := images.headD .zero }
def kstOp : MatOp := { kldOp with kind := .mkst }
def dpOp (k : MatKind) : MatOp := Claims.matOp (M mzX.view) matS { kind := k, words := [2], reqs := [] }
/-- Nothing of an operation is held back, and no part of it lies at a device that is not reached. -/
def moveB (s : State) (o : MatOp) : Bool :=
  decide (s.farOf (o.reqs.flatMap (fun r => r.pas.map (fun p => p.2.2.1))) = none) && s.isl.holds.all (fun h => decide (h.key ≠ .op o.id))
/-- The MKLD of an image at device 5. -/
def kldFar : MatOp := { kldOp with reqs := kldOp.reqs.map (fun r => { r with pas := r.pas.map (fun p => (p.1, p.2.1, 2 ^ 51 + 5 * 2 ^ 42 + p.2.2.1, p.2.2.2)) }) }
/-- Every tile is held once and whole, the tiles that some operations are on are named once, and their octets live. -/
def tilesB (s : State) (ops : List MatOp) : Bool :=
  decide ((s.mtx.tiles.map (fun t => (t.g, t.octet, t.k))).Nodup) && s.mtx.tiles.all (fun t => decide (t.words.length = 256))
    && decide ((Claims.tilesOf ops).Nodup) && ops.all (fun q => q.reqs.all (fun r =>
      (s.group? q.g).any (fun g => (List.range 8).any (fun n => (g.threads[8 * r.octet + n]?).any (fun th => !th.exited)))))
def kldGot : Option (State × List ThrFault × List Byte) := ((matWith kldOp).needTiles ((matWith kldOp).mtx.withMate kldOp)).bind (fun s1 =>
  (meets (matWith kldOp) (.data []) false kldOp.reqs).foldlM
    (fun (acc : State × List ThrFault × List Byte) e => acc.1.loadTile kldOp e.1 e.2 acc.2.1 acc.2.2) (s1, [], []))

theorem witness_MatrixQueueAndElements_queue :
    ((matWith upOp).mtx.op? upOp.id = some upOp ∧ upOp.granted = false ∧ 0 < upOp.level ∧ upOp.levelAt + 512 = (matWith upOp).cycle)
    ∧ (mmS.matChoice 0 = some mmO ∧ (mmS.needTiles ((mmS.passOf mmO).flatMap mmS.mtx.withMate)).isSome = true)
    ∧ ((matWith mzOp).mtx.head? 0 = some mzOp ∧ (matWith mzOp).matReady mzOp = true ∧ mzOp.kind = .mzero
        ∧ ((matWith mzOp).needTiles ((matWith mzOp).mtx.withMate mzOp)).isSome = true)
    ∧ ((matWith kldOp).mtx.head? 0 = some kldOp ∧ (matWith kldOp).matReady kldOp = true ∧ kldOp.kind = .mkld
        ∧ kldGot.isSome = true ∧ (kldGot.map (fun e => e.2.2)) = some [] ∧ (kldGot.bind (fun e => (matWith kldOp).endLoad e.1 kldOp e.2.1)).isSome = true)
    ∧ ((matWith kstOp).mtx.head? 0 = some kstOp ∧ (matWith kstOp).matReady kstOp = true ∧ kstOp.kind = .mkst
        ∧ ((matWith kstOp).reloadTiles ((matWith kstOp).mtx.withMate kstOp)).isSome = true ∧ moveB (matWith kstOp) kstOp = true ∧ moveB (matWith kldOp) kldOp = true)
    ∧ ((matWith kldFar).mtx.head? 0 = some kldFar ∧ (matWith kldFar).matReady kldFar = true ∧ (matWith kldFar).isl.holds = []
        ∧ (matWith kldFar).farOf (kldFar.reqs.flatMap (fun r => r.pas.map (fun p => p.2.2.1))) = some 5)
    ∧ ((matWith (dpOp (.dpld 63))).mtx.head? 0 = some (dpOp (.dpld 63)) ∧ (matWith (dpOp (.dpld 63))).matReady (dpOp (.dpld 63)) = true)
    ∧ ((matWith (dpOp (.dpinv 0))).mtx.head? 0 = some (dpOp (.dpinv 0)) ∧ (matWith (dpOp (.dpinv 0))).matReady (dpOp (.dpinv 0)) = true) := by
  decide +kernel

theorem witness_MatrixQueueAndElements_tiles :
    (let ops := (mmS.passOf mmO).flatMap mmS.mtx.withMate
     tilesB mmS ops = true ∧ (∀ q ∈ ops, fbScaled q.fmt0 = false ∧ (matPair (fbAfmt q.fmt0) (fbBfmt q.fmt0)).isSome = true))
    ∧ (∀ o ∈ [mzOp, kldOp, kstOp], tilesB (matWith o) ((matWith o).mtx.withMate o) = true)
    ∧ ((matWith kldOp).needTiles ((matWith kldOp).mtx.withMate kldOp)).any (fun s1 => kldOp.reqs.all (fun r =>
        decide (r.pas.Pairwise (fun p q => p.1 + p.2.1 ≤ q.1)) && decide (Claims.owed (matWith kldOp) r.pas = 0)
          && r.pas.all (fun p => (s1.placeOf p.2.2.1 p.2.1 p.2.2.2 .read).isSome && okB (s1.engineRead kldOp.core kldOp.ctx p.2.2.1 p.2.1 p.2.2.2)))) = true
    ∧ ((matWith kstOp).reloadTiles ((matWith kstOp).mtx.withMate kstOp)).any (fun s1 => s1.mem.wf) = true
    ∧ (let parts := kstOp.reqs.flatMap (fun r => r.pas.map (fun p => (r, p)))
       (∀ e ∈ parts, isHbm e.2.2.2.1 = true ∧ e.2.2.2.1 % 64 = 0 ∧ e.2.2.1 % 64 = 0 ∧ e.2.1 + e.2.2.1 ≤ 1024
          ∧ (matWith kstOp).writeRefused e.2.2.2.1 e.2.2.1 e.2.2.2.2 = none)
        ∧ parts.Pairwise (fun d e => d.2.2.2.1 + d.2.2.1 ≤ e.2.2.2.1 ∨ e.2.2.2.1 + e.2.2.1 ≤ d.2.2.2.1)) := by decide +kernel
/-- Format blocks for every way a pass sums: integers, floats, whole scale blocks, and a scale block in parts. -/
theorem witness_MatrixQueueAndElements_blocks :
    (∃ w0 : Word64, fbScaled w0 = false ∧ fbAcc w0 = .i32 ∧ (matPair (fbAfmt w0) (fbBfmt w0)).isSome = true)
    ∧ (∃ w0 : Word64, fbScaled w0 = false ∧ fbAcc w0 = .f32 ∧ (matPair (fbAfmt w0) (fbBfmt w0)).isSome = true)
    ∧ (∃ w0 : Word64, fbScaled w0 = true ∧ fbAcc w0 = .f32 ∧ (matPair (fbAfmt w0) (fbBfmt w0)).any (fun p => decide (fbLen w0 ≤ p.logicalK w0)) = true)
    ∧ (∃ w0 : Word64, fbScaled w0 = true ∧ fbAcc w0 = .f32 ∧ (matPair (fbAfmt w0) (fbBfmt w0)).any (fun p => decide (p.logicalK w0 < fbLen w0)) = true) :=
  ⟨⟨0, by decide +kernel⟩, ⟨0x100, by decide +kernel⟩, ⟨0x1100, by decide +kernel⟩, ⟨0x1D00, by decide +kernel⟩⟩

/-- Slot 0 holds a program of the context; in the second state no slot does. -/
def slotS : State := matS.setMtx { matS.mtx with ops := [drOp], slots := [⟨0, 0, true, 1, some 0, [2]⟩], drains := [⟨drOp.id, 0, 127⟩] }
def noSlotS : State := matS.setMtx { matS.mtx with ops := [drOp] }
theorem witness_MatrixQueueAndElements_elements :
    (slotS.mtx.run = none ∧ slotS.mtx.head? drOp.cluster = some drOp ∧ slotS.mtx.drainPos drOp = some (0, 127) ∧ drOp.drains = true ∧ drOp.stopped = false
      ∧ drOp.cut = false ∧ slotS.matReady drOp = true ∧ slotS.heldDrain drOp = false ∧ noSlotS.heldDrain drOp = false ∧ (slotS.mtx.slot drOp.cluster (field drOp.fmt0 20 6)).valid = true
      ∧ (slotS.mtx.slot drOp.cluster (field drOp.fmt0 20 6)).ctx = some drOp.ctx
      ∧ ((slotS.mtx.withMate drOp).foldlM (fun (s : State) p => s.reloadTile p 0) slotS).isSome = true)
    ∧ (noSlotS.mtx.run = none ∧ noSlotS.mtx.head? drOp.cluster = some drOp ∧ noSlotS.mtx.drainPos drOp = some (0, 0) ∧ noSlotS.matReady drOp = true
      ∧ 0 = firstElem (((drOp.req? 0).map MatReq.rows).getD 0) ∧ (noSlotS.mtx.slot drOp.cluster (field drOp.fmt0 20 6)).valid = false)
    ∧ ((({ State.reset with cycle := 1023 } : State).mtx.window + 1) * 1024 ≤ 1023 + 1 ∧ State.reset.sched.issue = []) := by decide +kernel

/-! ## Peers and collectives -/

def onS (s : State) : State := { s with isl := { s.isl with st := .joined, ports := [{ Port.fresh 0 with up := true }] } }
/-- One pass to device 0, this one, through an absent window; one to device 511, which is OFF in the second. -/
def putS : State := onS (run [.rput ⟨C, .n32, .x8, 0, .v 8, .v 6, .v 7⟩] S)
def farS : State := onS (run [.rput ⟨C, .n32, .x8, 0, .v 8, .v 6, .v 7⟩] (stateOf peerG))
def downS : State := { farS with isl := { farS.isl with peers := [(511, .off)] } }
def remOf (s : State) : RemoteOp := (s.ops.remote.head?).getD ⟨0, 0, .get, kG, 0, 0, 0, 0, 0, 0, false, [], .none, none, false, [], none, 0, none, 0, 0⟩
/-- Window 0: 64 KiB of local memory at 0x10000, every access, key slot 0. -/
def win0 : Window := ⟨0, 0x10000#64, 0x10000#64, 0xF#64, 0⟩
def withWin (s : State) : State := { s with isl := { s.isl with windows := [win0] } }
/-- The same passes checked: a put, an atomic and a get through the window here, a put and a get at device 511. -/
def dueS (s : State) : State := s.putRemote { remOf s with checked := true }
def v7G : Group := { G with v := (List.range 2).map (fun o => ⟨7, o, [0, 8, 16, 24, 32, 40, 48, 56].map (fun n => BitVec.ofNat 32 (n + 64 * o)), .pool, o, [], none⟩) }
def putHere : State := dueS (withWin (onS (run [.rput ⟨C, .n64, .x1, 0, .v 8, .v 6, .v 7⟩] (stateOf v7G))))
def atomHere : State := dueS (withWin (onS (run [.ratom ⟨C, .add, true, 0, .v 254, .v 6, .v 7⟩] (stateOf v7G))))
def getHere : State := dueS (withWin (onS (run [.rget ⟨C, .n32, .x1, 0, .v 8, .v 6, .v 7⟩] (stateOf v7G))))
def putFar : State := dueS farS
def getFar : State := dueS (onS (run [.rget ⟨C, .n32, .x1, 0, .v 8, .v 6, .v 7⟩] (stateOf peerG)))
def heldRS : State := { downS.putRemote { remOf downS with heldAt := some 0, checked := true } with cycle := 2250 * 2000 }
/-- Threads 0 to 7 at device 0 and 8 to 15 at device 511, in two passes. -/
def twoS : State := onS (run [.rput ⟨C, .n32, .x8, 0, .v 8, .v 6, .v 7⟩]
  (stateOf { G with v := [⟨6, 0, List.replicate 8 0, .pool, 0, [], none⟩, ⟨6, 1, List.replicate 8 511, .pool, 1, [], none⟩] }))

def passDueB (s : State) : Bool :=
  let h := remOf s
  decide (s.remoteHead 0 = some h) && s.ops.remote.all (fun p => decide (p.inst ≠ h.inst) || p.checked) && s.reachable h.peer
    && s.engineReady h.g h.mask h.inst && !s.qfenceHolds h.g 9 h.inst && h.args.all (fun a => !s.acquireHolds h.g a.thread h.inst)
    && decide ((h.args.map RemoteArg.thread).Nodup)
theorem passDue_of {s : State} (h : passDueB s = true) : Claims.PassDue s 0 (remOf s) := by
  simp only [passDueB, Bool.and_eq_true, decide_eq_true_eq, List.all_eq_true, Bool.or_eq_true, Bool.not_eq_true'] at h
  obtain ⟨⟨⟨⟨⟨⟨h1, h2⟩, h3⟩, h4⟩, h5⟩, h6⟩, h7⟩ := h
  exact ⟨h1, fun p hp hi => (h2 p hp).resolve_left (fun hn => hn hi), h3, h4, h5, h6, h7⟩
/-- The window here admits every thread, and what it leads to can be read. -/
def opens (s : State) : Bool :=
  let h := remOf s
  decide (h.peer = s.pkg.device.toNat) && s.mem.wf && !h.args.isEmpty && h.args.all (fun a =>
    match s.windowAddr h.win a.off h.size h.kind.need with
    | some (pa, key) => (s.homeRead pa h.size key).isSome && !s.baseLost pa && (h.kind != .put || decide (a.data.length = h.size))
    | none => false)

theorem witness_PeersAnswer_checks :
    (downS.remoteHead 0 = some (remOf downS) ∧ downS.reachable (remOf downS).peer = false ∧ (remOf downS).heldAt = none)
    ∧ (let s := withWin putS
       s.remoteHead 0 = some (remOf s) ∧ s.reachable (remOf s).peer = true ∧ (remOf s).checked = false ∧ s.ops.remote.length = 1
        ∧ (remOf s).peer = s.pkg.device.toNat ∧ ∀ a ∈ (remOf s).args, (s.windowAddr (remOf s).win a.off (remOf s).size (remOf s).kind.need).isSome = true)
    ∧ (farS.remoteHead 0 = some (remOf farS) ∧ farS.reachable (remOf farS).peer = true ∧ (remOf farS).checked = false ∧ farS.ops.remote.length = 1
        ∧ (remOf farS).peer ≠ farS.pkg.device.toNat)
    ∧ (twoS.remoteHead 0 = some (remOf twoS) ∧ twoS.reachable (remOf twoS).peer = true ∧ (remOf twoS).checked = false
        ∧ (remOf twoS).peer = twoS.pkg.device.toNat
        ∧ ∃ p ∈ twoS.ops.remote, p.inst = (remOf twoS).inst ∧ p.id ≠ (remOf twoS).id ∧ p.checked = false) := by decide +kernel
theorem witness_PeersAnswer_passes :
    (Claims.PassDue putHere 0 (remOf putHere) ∧ opens putHere = true ∧ (remOf putHere).kind = .put)
    ∧ (Claims.PassDue atomHere 0 (remOf atomHere) ∧ opens atomHere = true ∧ (remOf atomHere).kind = .atomic .add true ∧ (remOf atomHere).size = 8)
    ∧ (Claims.PassDue getHere 0 (remOf getHere) ∧ opens getHere = true ∧ (remOf getHere).kind = .get)
    ∧ (Claims.PassDue putFar 0 (remOf putFar) ∧ (remOf putFar).peer ≠ putFar.pkg.device.toNat ∧ (remOf putFar).kind = .put)
    ∧ (Claims.PassDue getFar 0 (remOf getFar) ∧ (remOf getFar).peer ≠ getFar.pkg.device.toNat ∧ (remOf getFar).kind = .get) :=
  ⟨⟨passDue_of (by decide +kernel), by decide +kernel, by decide +kernel⟩, ⟨passDue_of (by decide +kernel), by decide +kernel, by decide +kernel⟩,
   ⟨passDue_of (by decide +kernel), by decide +kernel, by decide +kernel⟩, ⟨passDue_of (by decide +kernel), by decide +kernel, by decide +kernel⟩,
   ⟨passDue_of (by decide +kernel), by decide +kernel, by decide +kernel⟩⟩
/-- A pass, and a load, held for a period. -/
def heldO : MemOp := { loadOp (2 ^ 51 + 5 * 2 ^ 42) with heldAt := some 0 }
def heldMS : State := { onlyOp S heldO with cycle := 2250 * 2000000 }
theorem witness_PeersAnswer_retries :
    (heldRS.ops.remote.find? (fun p => p.id = (remOf heldRS).id) = some (remOf heldRS) ∧ heldRS.reachable (remOf heldRS).peer = false
      ∧ (remOf heldRS).heldAt = some 0 ∧ heldRS.passed 0 (10 * ((remOf heldRS).retries + 1)) = true ∧ 10 * ((remOf heldRS).retries + 1) < heldRS.isl.retry
      ∧ heldRS.passed 0 heldRS.isl.retry = true ∧ (remOf heldRS).checked = true)
    ∧ (heldMS.ops.remote = [] ∧ heldMS.memOp? heldO.id = some heldO ∧ heldMS.passed 0 heldMS.isl.retry = true
      ∧ ∃ p ∈ heldO.pieces, p.open' = true ∧ isRemote p.pa = true ∧ heldMS.reachable (frameDev p.pa) = false)
    ∧ (let s := ringFarS [heldAt 0]
       s.isl.holds.find? (fun e => e.id = (heldAt 0).id) = some (heldAt 0) ∧ s.ops.remote = [] ∧ s.memOp? (heldAt 0).id = none ∧ s.hostHeld? (heldAt 0).id = none
        ∧ s.ops.copies = [] ∧ s.reachable (heldAt 0).dev = false ∧ s.passed 0 (10 * ((heldAt 0).retries + 1)) = true ∧ 10 * ((heldAt 0).retries + 1) < s.isl.retry) := by decide +kernel

/-- Accesses of a peer: of every kind through the window, and a misfit of none. -/
def askOk (k : PeerKind) (n : Nat) : Bool :=
  let s := withWin putS
  (peerAsk k).formed n && (peerAsk k).windowed && decide (0 % (peerAsk k).align = 0)
    && (match s.windowAddr 0 0 n (peerAsk k).need with
        | some (pa, key) => (s.homeRead pa n key).isSome && !s.baseLost pa && s.mem.wf
        | none => false)
theorem witness_PeersAnswer_peers :
    (withWin putS).isl.st ≠ .off ∧ askOk .read 8 = true ∧ askOk (.write [1, 2, 3, 4]) 4 = true ∧ askOk (.atomic .add true 0 0) 8 = true
      ∧ (putS.windowAddr 0 0 8 .read) = none
      ∧ (let s := { withWin putS with isl := { (withWin putS).isl with windows := [{ win0 with w2 := 0x1F#64 }] } }
         ∀ k ∈ [PeerKind.read, .ldra, .monitor .ne false 5, .unwatch .ne false 5], (peerAsk k).formed 8 = true ∧ (peerAsk k).placed 0x10000 8 = true
          ∧ ((s.frameAddr 0x10000 8 (peerAsk k).need).any (fun e => (s.homeRead e.1 8 e.2).isSome)) = true)
      ∧ putS.frameAddr 0x10000 8 .read = none := by decide +kernel

/-- The SUM is queued, the device joined; its instance before and after its own contribution. -/
def cS : State := onS (after (exec (.collSum umX) collS) collS)
def cO : CollOp := (cS.ops.colls.head?).getD ⟨0, 0, kG, 0, 0, 0, 0, 0, (collDesc []).1, 0, none, .failed, []⟩
def cSig : CollSig := cO.desc.sig cO.op
def cI : Instance := { key := cO.key, sig := some cSig, parts := [⟨0, [[0]], []⟩], mismatch := false, absent := 0, first := some 0, sent := 0 }
def instS : State := { cS with isl := { cS.isl with insts := [cI] }, cycle := 2250 * 2 }
/-- The descriptor's words are poisoned: the reading fails. -/
def failS : State := { cS with mem := { cS.mem with poison := (List.range 64).map (fun n => 64 + n) } }
def partX : EvPartial := { key := cO.key, src := 1, sig := some cSig, absent := 0, bad := false, mask := 1, fanout := 2, timeout := 1, parts := [] }
def errB {ε α : Type} : Except ε α → Bool
  | .ok _ => false
  | .error _ => true
theorem witness_CollectivesRun_contributes :
    (cS.ops.colls.find? (fun p => p.id = cO.id) = some cO ∧ elemTy cO.desc.ty = some (.int false true) ∧ cO.st = .queued ∧ cS.collHead cO = true
      ∧ cS.engineReady cO.g cO.threads cO.id = true ∧ cS.qfenceHolds cO.g 10 cO.id = false ∧ cS.isl.st = .joined ∧ cS.endedInst? cO.key = none
      ∧ okB (cS.contribution cO (.int false true)) = true)
    ∧ (failS.ops.colls.find? (fun p => p.id = cO.id) = some cO ∧ failS.collHead cO = true ∧ failS.engineReady cO.g cO.threads cO.id = true
      ∧ failS.endedInst? cO.key = none ∧ errB (failS.contribution cO (.int false true)) = true)
    ∧ (cS.pagesFar cO.pages (cS.inputRanges cO (.int false true)) = none ∧ cS.inputRanges cO (.int false true) = [(0x1100, 64, 0)])
    ∧ (let o := { cO with pages := cO.pages.map (fun q => (q.1, 2 ^ 39 + 5 * 2 ^ 30 + 1, q.2.2)) }
       let s := { cS.setOps { cS.ops with colls := [o] } with isl := { cS.isl with ports := [] } }
       s.ops.colls.find? (fun p => p.id = o.id) = some o ∧ s.collHead o = true ∧ s.engineReady o.g o.threads o.id = true ∧ s.isl.st = .joined
        ∧ s.endedInst? o.key = none ∧ s.pagesFar o.pages (s.inputRanges o (.int false true)) = some 5 ∧ s.isl.holds = []
        ∧ s.resultFar o (some cSig) ⟨0, [⟨0, [[0]], []⟩]⟩ = some 5)
    ∧ (let o := { cO with st := .duplicate }
       let s := cS.setOps { cS.ops with colls := [o] }
       s.ops.colls.find? (fun p => p.id = o.id) = some o ∧ s.engineReady o.g o.threads o.id = true)
    ∧ (let o := { cO with st := .ended (some cSig) ⟨0, [⟨0, [[0]], []⟩]⟩ }
       let s := cS.setOps { cS.ops with colls := [o] }
       s.ops.colls.find? (fun p => p.id = o.id) = some o ∧ s.resultFar o (some cSig) ⟨0, [⟨0, [[0]], []⟩]⟩ = none)
    ∧ (let s := { cS with isl := { cS.isl with ended := [⟨cO.key, none, ⟨1, []⟩⟩] } }
       s.collHead cO = true ∧ s.endedInst? cO.key = some ⟨cO.key, none, ⟨1, []⟩⟩) := by
  decide +kernel
/-- Its pages are sound, its group and its split await it, and its instance ends it. -/
theorem witness_CollectivesRun_sound : Claims.PagesSound cS cO
    ∧ (cS.group? kG).any (fun g => g.splits.any (fun p => p.sBusy.contains (cO.sreg, cO.id) && decide (cO.sreg < p.s.length))) = true
    ∧ cS.ops.pts = []
    ∧ (let o := { cO with st := .contributed }
       Claims.ending (cS.setOps { cS.ops with colls := [o] }) o.key = [o]) := by
  have h : (List.range 4096).all (fun i => isHbm (4096 + i) && !cS.dieLost (homeDie (4096 + i))) = true := by decide +kernel
  have hp : ∀ q ∈ cO.pages, q = (1, 1, 0) := by decide +kernel
  refine ⟨⟨by decide +kernel, fun q hq a ha => ?_, fun q hq q' hq' _ => by rw [hp q hq, hp q' hq']⟩, by decide +kernel, by decide +kernel, by decide +kernel⟩
  rw [hp q hq] at ha
  have ha : a / 4096 = 1 := ha
  have := List.all_eq_true.1 h (a - 4096) (List.mem_range.2 (by omega))
  rw [show 4096 + (a - 4096) = a by omega] at this
  simpa using this
/-- Two contributions of two elements, for each kind of collective and of element. -/
def valSig (op : BitVec 10) (ty : BitVec 8) : CollSig := { cSig with op := op, ty := ty, e := 2, param := 1, root := 3 }
def valParts : List Contribution := [⟨3, [[1, 2]], [5, 6]⟩, ⟨7, [[3, 4]], []⟩]
theorem witness_CollectivesRun_values :
    (∀ e ∈ [((0x340 : BitVec 10), (5 : BitVec 8), CollKind.sum), (0x340, 1, .sum), (0x340, 8, .sum), (0x341, 4, .min), (0x342, 7, .max), (0x341, 0, .min), (0x342, 3, .max),
        (0x343, 7, .hist), (0x344, 5, .rank), (0x345, 1, .select), (0x346, 1, .stat), (0x347, 9, .bcast)],
      (elemTy (valSig e.1 e.2.1).ty).isSome = true ∧ collKind (valSig e.1 e.2.1).op = e.2.2 ∧ 0 < (valSig e.1 e.2.1).e
        ∧ ∀ t ∈ elemTy e.2.1, (∀ row ∈ allRows valParts, ∀ v ∈ row, v < 2 ^ (8 * t.bytes)) ∧ (∀ p ∈ valParts, ∀ v ∈ p.obs, v < 2 ^ (8 * t.bytes)))
    ∧ ((column (allRows valParts) 1).map (fun v => (Claims.addend (.float .f32) v).2)).sum < 2 ^ 56
    ∧ (valParts.find? (fun p => p.dev = 3)).isSome = true ∧ valParts.find? (fun p => p.dev = 4) = none := by decide +kernel
theorem witness_CollectivesRun_ends :
    (cS.instGroup partX.key).any (fun g => decide (g.mask = partX.mask ∧ g.fanout = partX.fanout ∧ g.timeout = partX.timeout)) = true
    ∧ (cS.instGroup partX.key).any (fun g => decide (g.mask ≠ 3)) = true ∧ cS.endedInst? partX.key = none
    ∧ (State.reset.instGroup partX.key).isSome = false
    ∧ (instS.isl.st ≠ .off ∧ instS.inst? cO.key = some cI
      ∧ (instS.instGroup cO.key).any (fun g => decide (instS.instRoot g = some instS.pkg.device.toNat) && (instS.instEnd g cI).isSome && instS.passed 0 g.timeout
          && g.members.all (fun d => cI.parts.any (fun p => p.dev = d))) = true) := by
  decide +kernel

/-! ## Ports -/

def upP : Port := { Port.fresh 31 with up := true }
def portS (p : Port) : State := { State.reset with isl := { State.reset.isl with st := .joined, ports := [p] }, cycle := 2250 * 1000000 }
def fl0 (slot : Bool) (seq : BitVec 12) : Flit := ⟨0, 7, slot, seq, 0, false, 0, 0, 0, none, []⟩
/-- A packet of two flits to device 5. -/
def pk0 : Packet := ⟨0, 5, 0, 7, 0, 0, List.replicate 233 0, .bytes .management⟩
theorem witness_FlitsAndPorts_received :
    ((portS upP).portOr 31 = upP ∧ upP.up = true ∧ (portS upP).isl.st ≠ .off ∧ (portS upP).isl.offAfter = false
      ∧ (fl0 false 1).seq ≠ upP.rx.seq ∧ (fl0 false 0).seq = upP.rx.seq ∧ (fl0 true 0).slot ≠ upP.rx.slot ∧ (fl0 false 0).slot = upP.rx.slot
      ∧ upP.fails < 7 ∧ 7 ≤ ({ upP with fails := 7 } : Port).fails ∧ 4 ≤ ({ fl0 false 0 with ty := 4 } : Flit).ty.toNat
      ∧ ({ fl0 false 0 with resv := 1 } : Flit).resv ≠ 0 ∧ (fl0 false 0).ty.toNat < 4 ∧ (fl0 false 0).resv = 0)
    ∧ (let p : Port := { upP with replay := [⟨fl0 false 0xFFE, 0, false⟩, ⟨fl0 false 0xFFF, 0, true⟩] }
       (portS p).portOr 31 = p ∧ p.replay[1]? = some ⟨fl0 false 0xFFF, 0, true⟩
        ∧ ∀ j, ∀ g : SentFlit, j < 1 → p.replay[j]? = some g → g.flit.seq ≠ 0xFFF ∧ g.resend = false) := by
  refine ⟨by decide +kernel, by decide +kernel, by decide +kernel, fun j g hj hg => ?_⟩
  obtain rfl : j = 0 := by omega
  cases hg; decide
theorem witness_FlitsAndPorts_flits :
    (upP.up = true ∧ upP.stalledAt = none ∧ upP.replay = [] ∧ upP.tx.counter < (portS upP).isl.rekeyth - 1 ∧ upP.unfreed.getD 7 0 < upP.limits.getD 7 0
        ∧ pk0.ch = 7 ∧ upP.part = none ∧ (portS upP).packetDue pk0 = true ∧ (portS upP).portFor pk0 = some 31 ∧ (portS upP).inTurn 31 pk0 = true
        ∧ packetFlits pk0 = 2 ∧ channelOk pk0 = true)
    ∧ (let p : Port := { upP with part := some (pk0, 1) }
       (portS p).portOr 31 = p ∧ p.part = some (pk0, 1) ∧ p.unfreed.getD 7 0 < p.limits.getD 7 0)
    ∧ (upP.maySend = true ∧ upP.periodAt + lendingCycles ≤ (portS upP).cycle ∧ upP.tx.counter < (portS upP).isl.rekeyth - 1 ∧ upP.nakSeq = none)
    ∧ ([1, 2, 3, 4, 5, 6, 7, 8].length = 8 ∧ [1, 2, 3, 4, 5, 6, 7, 8].sum ≠ 0 ∧ (List.replicate 8 0).sum = 0) := by decide +kernel
/-- A port with keys in both slots, down and up, its counters at the threshold, and stalled. -/
def keyD : PortDir := { PortDir.fresh with keys := [(true, 1), (true, 2)] }
def keyP : Port := { Port.fresh 31 with tx := keyD, rx := keyD }
def edgeP : Port := { keyP with up := true, tx := { keyD with counter := 2 ^ 48 - 1 } }
def noKeyP : Port := { edgeP with tx := { PortDir.fresh with counter := 2 ^ 48 - 1 } }
theorem witness_FlitsAndPorts_keys :
    ((portS keyP).portOr 31 = keyP ∧ keyP.up = false ∧ keyP.tx.holds false = true ∧ keyP.tx.holds true = true ∧ keyP.rx.holds false = true ∧ keyP.rx.holds true = true)
    ∧ (edgeP.up = true ∧ edgeP.maySend = true ∧ true ≠ edgeP.tx.slot ∧ edgeP.tx.holds true = true ∧ true ≠ edgeP.rx.slot ∧ edgeP.stalledAt = none
      ∧ (portS edgeP).isl.rekeyth - 1 ≤ edgeP.tx.counter)
    ∧ (noKeyP.up = true ∧ noKeyP.tx.holds (!noKeyP.tx.slot) = false ∧ noKeyP.stalledAt = none ∧ (portS noKeyP).isl.rekeyth - 1 ≤ noKeyP.tx.counter)
    ∧ (let p : Port := { upP with stalledAt := some 0 }
       (portS p).portOr 31 = p ∧ (portS p).passed 0 1000 = true ∧ (portS p).isl.offAfter = false)
    ∧ (State.reset.pkg.device.toNat < 512 ∧ (1 : BitVec 512).getLsbD State.reset.pkg.device.toNat = true
      ∧ State.reset.endedInst? ⟨0, 0, 0⟩ = none) := by decide +kernel

/-! ## Package, commands, the debugger, the host -/

def readyDies : List Die := [⟨0, true, 0, false⟩, ⟨18, true, 0, false⟩]
/-- One compute die and the I-die are ready. -/
def bootS (closed : Bool) : State :=
  { State.reset with isl := { State.reset.isl with st := .islandOnly }
                     pkg := { State.reset.pkg with windowClosed := closed, healthy := if closed then 1 else 0, dies := readyDies } }
/-- The island is OFF, its dies as far as they have booted; and one that turns OFF with its last port. -/
def dieOffS (dies : List Die) : State := { State.reset with isl := { State.reset.isl with st := .off }, pkg := { State.reset.pkg with dies := dies } }
def leavingS : State := { portS upP with isl := { (portS upP).isl with offAfter := true } }
theorem witness_PackageStates_island :
    ((dieOffS readyDies).isl.st = .off ∧ (dieOffS readyDies).pkg.isReady 18 = true ∧ (dieOffS []).pkg.isReady 18 = false)
    ∧ (let s := bootS true
       s.isl.st = .islandOnly ∧ s.isl.offAfter = false ∧ s.pkg.windowClosed = true ∧ s.pkg.healthy ≠ 0 ∧ s.pkg.level ≠ 2#2 ∧ s.pkg.isReady 18 = true
        ∧ ∀ d, d < 10 → s.pkg.healthy.getLsbD d = true → s.pkg.isReady d = true)
    ∧ ((portS (Port.fresh 31)).isl.st = .joined ∧ ∀ p ∈ (portS (Port.fresh 31)).isl.ports, p.up = false)
    ∧ ((portS upP).isl.st = .joined ∧ 31 < 32 ∧ ((portS upP).portOr 31).up = true)
    ∧ (leavingS.isl.offAfter = true ∧ (leavingS.portOr 31).up = true ∧ ∀ p ∈ leavingS.isl.ports, p.port ≠ 31 → p.up = false)
    ∧ (5 < 512 ∧ 5 ≠ State.reset.pkg.device.toNat)
    ∧ (let s : State := { cS with isl := { cS.isl with insts := [cI], colls := [⟨cI.key.grp, 3, 0, []⟩] } }
       s.inst? cI.key = some cI ∧ (s.collGroup cI.key.grp).mask.getLsbD 1 = true ∧ (∀ p ∈ cI.parts, p.dev ≠ 1) ∧ cI.key ∉ ([] : List InstKey)) := by
  decide +kernel
theorem witness_PackageStates_boot :
    ((bootS false).pkg.windowClosed = false ∧ (bootS true).pkg.windowClosed = true ∧ (bootS false).pkg.isReady 0 = true ∧ (bootS false).pkg.isReady 18 = true
        ∧ (∀ e ∈ (bootS false).pkg.dies, e.id ≠ 17) ∧ ∀ e ∈ (dieOffS []).pkg.dies, e.id ≠ 18)
    ∧ ((bootS true).dieLost 0 = false ∧ (bootS true).pkg.healthy.getLsbD 0 = true)
    ∧ (105 ≤ (114 : BitVec 8).toNat ∧ (114 : BitVec 8).toNat < 115 ∧ State.reset.pkg.level ≠ 2#2 ∧ (curbKept 0).toNat ≤ State.reset.pkg.curbBudget.toNat)
    ∧ 115 ≤ (115 : BitVec 8).toNat
    ∧ (let s : State := { State.reset with pkg := { State.reset.pkg with level := 1, cool := some 5 } }
       (94 : BitVec 8).toNat < 95 ∧ s.pkg.level ≠ 0#2 ∧ s.pkg.cool = some 5 ∧ s.passed 5 1000000 = false
        ∧ ({ s with cycle := 5 + 1000000 * perMicro } : State).passed 5 1000000 = true) := by decide +kernel

/-- A command of a context that runs, and a descriptor of context 0 at 0 in memory. -/
def cmdS (op : BitVec 8) (s : State) : State := { s with isl := { s.isl with st := .joined }, pkg := { s.pkg with busy := true, cmdOp := op, cmdCtx := 0, featAct0 := 0x3FF#64 } }
def ctxDesc : List Byte :=
  [3, 0, 0, 0, 100, 0, 0, 0] ++ List.replicate 48 0 ++ [1, 0, 0, 0, 1, 0, 0, 0] ++ List.replicate 8 0 ++ [0, 0, 1, 0, 0, 0, 0, 0] ++ List.replicate 176 0
def startS : State := cmdS 1 { State.reset with mem := { State.reset.mem with cells := cellWrite [] 0 ctxDesc } }
def ctxS (op : BitVec 8) : State :=
  cmdS op { State.reset with ctxs := [Context.fresh 0], mem := { State.reset.mem with cells := cellWrite [] 0 ctxDesc } }
/-- One launch waits in queue 5. -/
def entryS : State := { ctxS 2 with ctxs := [{ Context.fresh 0 with qdepth := 4, qtail := [(5, 1)] }] }
theorem witness_CommandsAndDebug_commands :
    ((ctxS 1).running 1 = true ∧ (ctxS 1).cmdCtx?.isSome = true)
    ∧ (startS.running 1 = true ∧ startS.cmdCtx?.isNone = true ∧ okB (startS.readDesc (Context.fresh startS.pkg.cmdCtx.toNat) true) = true)
    ∧ ((cmdS 1 State.reset).cmdCtx?.isNone = true ∧ okB ((cmdS 1 State.reset).readDesc (Context.fresh 0) true) = false)
    ∧ ((ctxS 2).running 2 = true ∧ (ctxS 2).cmdCtx?.any (fun c => !(ctxS 2).toStop c && (ctxS 2).ctxIdle c) = true)
    ∧ ((cmdS 2 S).running 2 = true ∧ (cmdS 2 S).cmdCtx?.any (fun c => (cmdS 2 S).toStop c) = true)
    ∧ (entryS.running 2 = true ∧ (entryS.cmdCtx?.any (fun c => entryS.toStop c && c.waiting 5 == 1 && (List.range 64).all (fun p => p == 5 || c.waiting p == 0)
          && c.pre.isEmpty && entryS.groups.isEmpty && entryS.saved.isEmpty && entryS.launches.isEmpty && ((entryS.entryBytes c 5).map (fun r => (parseRec r).1.done)).getD 0 == 0)) = true)
    ∧ ((ctxS 3).running 3 = true ∧ (ctxS 3).cmdCtx?.any (fun c => okB ((ctxS 3).readDesc c false)) = true)
    ∧ ((ctxS 3).cmdCtx?.any (fun c => !okB (({ ctxS 3 with mem := State.reset.mem } : State).readDesc c false)) = true)
    ∧ ((ctxS 4).running 4 = true ∧ (ctxS 4).cmdCtx?.isSome = true ∧ (ctxS 4).openIn 0 (fun _ _ => true) = false ∧ (cmdS 4 State.reset).cmdCtx? = none)
    ∧ (∀ op ∈ [(2 : BitVec 8), 3, 4, 8, 9, 10, 11, 12], (cmdS op State.reset).running op.toNat = true ∧ (cmdS op State.reset).cmdCtx? = none)
    ∧ (let s : State := { ctxS 5 with ctxs := [{ Context.fresh 0 with keys := 1, root := 2 ^ 30 }] }
       s.running 5 = true ∧ ∃ c ∈ s.ctxs, c.keys.getLsbD s.pkg.cmdSlot.toNat = true)
    ∧ ((ctxS 5).running 5 = true ∧ (∀ c ∈ (ctxS 5).ctxs, c.keys.getLsbD (ctxS 5).pkg.cmdSlot.toNat = false) ∧ ((ctxS 5).physRead (ctxS 5).pkg.cmdA.toNat 64).isSome = true)
    ∧ ((ctxS 6).running 6 = true ∧ (ctxS 6).openUnder (ctxS 6).pkg.cmdSlot.toNat = false)
    ∧ ((ctxS 7).running 7 = true ∧ bitAt (ctxS 7).pkg.featAct0 7 = true ∧ (ctxS 7).pkg.cmdB.toNat % 64 = 0 ∧ ((ctxS 7).physRead 0 32).isSome = true
      ∧ ((ctxS 7).physRead (ctxS 7).pkg.cmdB.toNat 4672).isSome = true)
    ∧ ((ctxS 13).pkg.busy = true ∧ (ctxS 13).isl.st ≠ .off ∧ 12 < (ctxS 13).pkg.cmdOp.toNat ∧ (ctxS 0).pkg.cmdOp.toNat = 0) := by decide +kernel

/-- A group asked to halt, and one that has been saved so. -/
def haltG : Group := { leaveG with evictReq := false, haltReq := true }
/-- The command names launch 1, whose number team and group 0 have. -/
def naming (s : State) : State := { s with pkg := { s.pkg with cmdA := 1, cmdB := 0 } }
def haltS (op : BitVec 8) : State := naming (cmdS op { leaveS with groups := [haltG] })
def haltedS (op : BitVec 8) : State := naming (cmdS op { leaveS with groups := [], saved := [{ goneY with halted := true }] })
theorem witness_CommandsAndDebug_debug :
    ((ctxS 8).running 8 = true ∧ (ctxS 8).cmdCtx?.isSome = true) ∧ ((ctxS 9).running 9 = true ∧ (ctxS 9).halting 0 = false)
    ∧ (let s := naming (cmdS 10 leaveS)
       s.running 10 = true ∧ s.cmdCtx?.isSome = true ∧ ∃ g ∈ s.groups, (g.ctx = 0 && s.named g.key && !g.ended) = true ∧ g.haltReq = false)
    ∧ ((ctxS 10).running 10 = true ∧ (∀ g ∈ (ctxS 10).groups, (g.ctx = 0 && (ctxS 10).named g.key && !g.ended) = false) ∧ (ctxS 10).saved = [])
    ∧ ((haltedS 10).running 10 = true ∧ (∀ g ∈ (haltedS 10).groups, (g.ctx = 0 && (haltedS 10).named g.key && !g.ended) = false) ∧ ∀ y ∈ (haltedS 10).saved, y.halted = true)
    ∧ (ctxS 11).running 11 = true
    ∧ ((haltedS 12).running 12 = true ∧ ((haltedS 12).saved.find? (fun y => y.halted && y.g.ctx = 0 && (haltedS 12).named y.g.key)).isSome = true)
    ∧ ((ctxS 12).running 12 = true ∧ (ctxS 12).saved = [])
    ∧ ((haltS 0).group? haltG.key = some haltG ∧ haltG.key.shadow = false ∧ haltG.haltReq = true ∧ haltG.trapPends = false
      ∧ (∀ e ∈ (haltS 0).copiesOf haltG.key, (haltS 0).quiet e = true)
      ∧ ((haltS 0).saveGroup haltG.key ⟨⟨false, (haltS 0).teamRegrouped haltG.key.team, true, none⟩, false⟩).isSome = true) := by decide +kernel

/-- A host's requests: on a page of the context, on none, off alignment, with PHYS, and over the fabric. -/
def hreq (k : HostKind) (a n : Nat) : HostReq := ⟨k, a, true, 0, n, .plain, 0, true, false, .data []⟩
def virt (k : HostKind) (a n : Nat) : HostReq := { hreq k a n with phys := false }
def hostS : State := { ctxS 0 with ctxs := [{ Context.fresh 0 with keys := 1, root := 2 ^ 30 }], mem := S.mem, pkg := { (ctxS 0).pkg with keys := [(0, 7)] } }
/-- The request lies on a page that admits it, in memory that can be read. -/
def onPage (r : HostReq) : Bool :=
  (hostAsk r).formed r.size && !r.phys && decide (r.addr % 4096 + r.size ≤ 4096) && hostAligned r && !r.bad
    && (match hostS.leafFor devUnit r.ctx r.addr with
        | .ok (w0, w1) => permOk (hostAsk r).perm w0 && !leafPm w0 && (match hostS.leafAccess r.ctx r.addr (hostAsk r).perm 0 w0 w1 with
            | .ok (pa, at1) => isHbm pa && !hostS.baseLost pa && (hostS.homeRead pa r.size at1.key).isSome && hostS.mem.wf
            | .error _ => false)
        | .error _ => false)
theorem witness_RegistersAndHosts_writes :
    (ctxS 0).isl.st = .joined
    ∧ (let c := { Context.fresh 0 with qdepth := 1 }
       (1 - countOf c.qhead 63).toNat = c.qdepth ∧ c.qdepth < (2 - countOf c.qhead 63).toNat ∧ (0 - c.crhead).toNat ≤ (c.crtail - c.crhead).toNat
        ∧ (c.crtail - c.crhead).toNat < (1 - c.crhead).toNat)
    ∧ (0x8000000000 % 8 = 0 ∧ isDevReg 0x8000000000 = true ∧ (ctxS 0).pageAway 0x8000000000 = false) := by decide +kernel
/-- A write with a release, and a host whose acquiring read waits for a device that is not reached. -/
def relW : HostReq := { virt (.write [1]) 0x1FFF 1 with order := .rel }
def waitedS : State := { hostS with isl := { hostS.isl with hostHeld := [⟨9, { virt .read 0x2000 8 with order := .acq }, true, false, [], some 0, 0⟩] } }
theorem witness_RegistersAndHosts_requests :
    (hostS.isl.st ≠ .off ∧ hostS.pkg.hosted = true ∧ onPage (virt .read 0x1000 8) = true ∧ onPage (virt (.write [1]) 0x1FFF 1) = true
      ∧ onPage (virt (.atomic .add true 0 0) 0x1000 8) = true)
    ∧ ((hostAsk (virt .read 0x1000 8)).formed 8 = true ∧ errB (match hostS.leafFor devUnit 0 (2 ^ 56) with
        | .ok _ => (.ok () : Except Unit Unit)
        | .error _ => .error ()) = true)
    ∧ hostAligned (hreq (.atomic .add true 0 0) 0x1004 8) = false
    ∧ (hostAligned (hreq .read 0x8000000000 8) = true ∧ isDevReg 0x8000000000 = true ∧ hostS.pageAway 0x8000000000 = false ∧ isHostMem 0x1000 = false)
    ∧ (let s : State := { hostS with pkg := { hostS.pkg with mgmtHost := 7 } }
       8 ≠ s.pkg.mgmtHost.toNat ∧ 7 < 512 ∧ 7 = s.pkg.mgmtHost.toNat ∧ bitAt s.pkg.featAct0 6 = true ∧ (s.request (virt .read 0x1000 8) true true).isSome = true)
    ∧ (hostS.isl.hostHeld = [] ∧ (hostS.request (virt .read 0x1000 8) true).isSome = true
      ∧ waitedS.pkg.hosted = true ∧ (∀ h ∈ waitedS.isl.hostHeld, h.mgmt = false) ∧ waitedS.isl.hostHeld ≠ []
      ∧ (relW.order = .rel ∧ relW.phys = false ∧ relW.addr % 4096 + relW.size ≤ 4096 ∧ (hostAsk relW).formed relW.size = true ∧ hostAligned relW = true
        ∧ (match waitedS.leafFor devUnit relW.ctx relW.addr with
          | .ok (w0, w1) => !leafPm w0 && (match waitedS.leafAccess relW.ctx relW.addr .store 0 w0 w1 with
            | .ok (pa, _) => isHbm pa
            | .error _ => false)
          | .error _ => false) = true)) := by
  decide +kernel

/-! ## Steps, encodings, invariants, numbers -/

/-- A drain whose program is a DMOV.I, an event that is due, and a split whose slot holds an IADD, then a word with reserved codes. -/
def iaddW : Word64 := (encode (.iadd ⟨C, .i32, false, .v 0, .v 1, .imm 1⟩)).headD 0
def issueS (w : Word64) : State :=
  let p := { P with code := [w, w] }
  { stateOf (groupOf p) with sched := { State.reset.sched with issue := [⟨kG, 0⟩] } }
def issueP (w : Word64) : Split := { P with code := [w, w] }
theorem witness_StepRunsDecoded :
    (decodeMicro 0x804000C3#32 = some (.dmovI ⟨3, 0x10⟩)
      ∧ ((State.reset.placeMicro 0x804000C3#32).mtx.run.map (fun r => (State.reset.placeMicro 0x804000C3#32).mtx.runWord r)) = some 0x804000C3#32)
    ∧ (Instr.curbWindowStart.isEvent = true ∧ State.reset.mtx.run = none)
    ∧ ((issueS iaddW).sched.schedule = [] ∧ (issueS iaddW).sched.issue = [⟨kG, 0⟩] ∧ (issueS iaddW).group? kG = some (groupOf (issueP iaddW))
      ∧ (groupOf (issueP iaddW)).split? 0 = some (issueP iaddW) ∧ (issueP iaddW).st = .issuing
      ∧ okB (decode (issueP iaddW).decodeEnv (issueP iaddW).word ((issueP iaddW).code.getD (issueP iaddW).slot 0)) = true)
    ∧ (okB (decode (issueP 0xFFFFFFFFFFFFFC02).decodeEnv (issueP 0xFFFFFFFFFFFFFC02).word ((issueP 0xFFFFFFFFFFFFFC02).code.getD (issueP 0xFFFFFFFFFFFFFC02).slot 0)) = false
      ∧ (issueS 0xFFFFFFFFFFFFFC02).shadowOf (groupOf (issueP 0xFFFFFFFFFFFFFC02)) 0 = none) := by decide +kernel

/-- Every field of this one at its highest value, and a literal. -/
def maxAdd : Instr := .iadd ⟨{ Ctl.plain with pred := 7, pneg := true }, .i32, true, .v 255, .s 63, .lit 0xFFFFFFFFFFFFFFFF⟩
theorem witness_CoreRoundTrip : maxAdd.wf = true ∧ (encode maxAdd)[1]? = some 0xFFFFFFFFFFFFFFFF#64 ∧ (encode maxAdd).length = 2
    ∧ (∀ k, maxAdd.view = some k → (⟨0, 1, true⟩ : DecodeEnv).flagOk k.c.fsel = true) ∧ (⟨0, 1, true⟩ : DecodeEnv).slotOk maxAdd = true := by
  refine ⟨by decide +kernel, by decide +kernel, by decide +kernel, ?_, by decide +kernel⟩
  intro k h
  have h2 : maxAdd.view.any (fun k => (⟨0, 1, true⟩ : DecodeEnv).flagOk k.c.fsel) = true := by decide +kernel
  rw [h] at h2
  simpa using h2
/-- REGRP is an entry clause's first instruction. -/
theorem witness_CoreRoundTrip_regrp : (Instr.regrp ⟨C, .v 254, .v 1, 2⟩).wf = true ∧ (⟨0, 1, true⟩ : DecodeEnv).slotOk (.regrp ⟨C, .v 254, .v 1, 2⟩) = true := by
  decide +kernel
theorem witness_MicroRoundTrip : (Instr.dmovI ⟨7, 0x1FFF⟩).wf = true ∧ (encodeMicro (.dmovI ⟨7, 0x1FFF⟩)).isSome = true := by decide +kernel
theorem witness_StepKeepsInv : (State.reset.placeMicro 0x804000C3#32).Inv ∧ ∃ t, step (State.reset.placeMicro 0x804000C3#32) = .next t :=
  ⟨⟨rfl, by decide +kernel, by decide +kernel⟩, _, rfl⟩
/-- F32: two numbers, zeros of both signs, a signalling NaN beside a number, and two NaNs. -/
theorem witness_MinMaxNumber :
    ((∃ x : FBin, (x.c.hold = .none ∧ x.c.lrA = false ∧ x.c.lrB = false ∧ (∀ n, x.a ≠ .h n) ∧ ∀ n, x.b.reg? ≠ some (.h n)) ∧ Issues S G P ∧ Clear (I (x.view false)) (x.view false) ∧ RoomFor (I (x.view false)) (x.view false) x.d x.fmt.regs))
    ∧ ((fF32.unpack 0x7F800001).isNan = true ∧ (fF32.unpack 0x7F800001).isSnan = true ∧ (fF32.unpack 0x3F800000).isNan = false)
    ∧ (Claims.before (fF32.unpack 0x80000000) (fF32.unpack 0) ∧ Claims.before (fF32.unpack 0xFF800000) (fF32.unpack 0x7F800000)) :=
  ⟨⟨⟨C, .rn, .f32, .v 254, .v 1, .reg (.v 2)⟩, ⟨rfl, rfl, rfl, fun n h => (by cases h), fun n h => (by cases h)⟩, iS, clear_of (by decide +kernel), by unfold RoomFor; decide +kernel⟩, by decide +kernel,
    .inr (by decide +kernel), .inl (by decide +kernel)⟩
/-- Nibbles 0, 6, 7, 8, 14, 15. -/
theorem witness_Ds4Weights : (MatEl.ds4.int 0 = 64 ∧ MatEl.ds4.int 6 = 1 ∧ MatEl.ds4.int 7 = 0) ∧ (MatEl.ds4.int 8 = -64 ∧ MatEl.ds4.int 14 = -1 ∧ MatEl.ds4.int 15 = 0) := by
  decide

/-! ## Decoding: a word of every instruction

Each word is laid out field by field from the encoding tables of the spec (R20, R26 to R30, R320, R321 and the instruction's own
table), apart from the model's encoder. -/

/-- A word, and a literal of that number where the instruction is one with a literal, decode to an instruction. -/
def decodesTo (w lit : Word64) (i : Instr) : Bool :=
  match decode Claims.flags01 w lit with
  | .ok j => decide (j = i)
  | .error _ => false

/-- Lane integer. -/
def words_lane_integer : List (Word64 × Word64 × Instr) :=
  [(0x0001C00000000001, 0, .nop ⟨C⟩),
   (0x1401C00A0280A002, 0, .iadd ⟨C, .i64, true, .v 40, .v 80, .reg (.v 160)⟩),
   (0x0201C00A2290A803, 0, .isub ⟨C, .n32, false, .v 42, .v 82, .reg (.v 162)⟩),
   (0x0801C00A42A0B004, 0, .imul ⟨C, .i16, false, .v 44, .v 84, .reg (.v 164)⟩),
   (0x0001C00A62B0B805, 0, .imulh ⟨C, .i32, false, .v 46, .v 86, .reg (.v 166)⟩),
   (0x0A01C00A82C0C007, 0, .imin ⟨C, .n16, false, .v 48, .v 88, .reg (.v 168)⟩),
   (0x0C01C00AA2D0C808, 0, .imax ⟨C, .i8, false, .v 50, .v 90, .reg (.v 170)⟩),
   (0x0601C00AC2E0D010, 0, .and ⟨C, .n64, false, .v 52, .v 92, .reg (.v 172)⟩),
   (0x0E01C00AE2F0D811, 0, .or ⟨C, .n8, false, .v 54, .v 94, .reg (.v 174)⟩),
   (0x0001C00B0300E012, 0, .xor ⟨C, .i32, false, .v 56, .v 96, .reg (.v 176)⟩),
   (0x0201C00B2310E814, 0, .shl ⟨C, .n32, false, .v 58, .v 98, .reg (.v 178)⟩),
   (0x0401C00B4320F015, 0, .shr ⟨C, .i64, false, .v 60, .v 100, .reg (.v 180)⟩),
   (0x0001C00B6330F816, 0, .sar ⟨C, .i32, false, .v 62, .v 102, .reg (.v 182)⟩),
   (0x0601C00B83410017, 0, .rot ⟨C, .n64, false, .v 64, .v 104, .reg (.v 184)⟩),
   (0x0001C00BA351081B, 0, .bfx ⟨C, .i32, false, .v 66, .v 106, .reg (.v 186)⟩),
   (0x1401E12060200806, 0, .imad ⟨C, .i64, true, .v 2, .v 4, .reg (.v 6), .s 9⟩),
   (0x4201DFE00A18041C, 77, .bfi ⟨C, .n32, false, .v 1, .w 3, .lit 77, .v 255⟩),
   (0x0001C00001103009, 0, .iabs ⟨C, .i32, false, .v 12, .v 34⟩),
   (0x0801C0000110300A, 0, .ineg ⟨C, .i16, false, .v 12, .v 34⟩),
   (0x0E01C00001103013, 0, .not ⟨C, .n8, false, .v 12, .v 34⟩),
   (0x0601C00001103018, 0, .popc ⟨C, .n64, false, .v 12, .v 34⟩),
   (0x0201C00001103019, 0, .clz ⟨C, .n32, false, .v 12, .v 34⟩),
   (0x0401C0000110301A, 0, .brev ⟨C, .i64, false, .v 12, .v 34⟩),
   (0x0601C00001103028, 0, .mov ⟨C, .n64, false, .v 12, .v 34⟩),
   (0x0A01C077A04DD820, 0, .icmp ⟨C, .n16, .le, .p 6, .v 9, .reg (.h 2)⟩),
   (0x0001EEB5F0402421, 0, .sel ⟨C, .i32, .v 9, .v 8, .reg (.w 31), .p 5⟩),
   (0x8E01E00000032029, 0, .movi ⟨C, .n8, .v 200, .imm 0x20000⟩)]
theorem test_decode_lane_integer : words_lane_integer.all (fun e => decodesTo e.1 e.2.1 e.2.2) = true := by decide +kernel

/-- Lane floating point. -/
def words_lane_floating_point : List (Word64 × Word64 × Instr) :=
  [(0x0801C013F0502080, 0, .fadd ⟨C, .rz, .f32, .v 8, .v 10, .reg (.s 63)⟩),
   (0x1201C013F0502081, 0, .fsub ⟨C, .ru, .f64, .v 8, .v 10, .reg (.s 63)⟩),
   (0x1C01C013F0502082, 0, .fmul ⟨C, .rd, .f16, .v 8, .v 10, .reg (.s 63)⟩),
   (0x0601C013F0502084, 0, .fmin ⟨C, .rn, .bf16, .v 8, .v 10, .reg (.s 63)⟩),
   (0x0001C013F0502085, 0, .fmax ⟨C, .rn, .f32, .v 8, .v 10, .reg (.s 63)⟩),
   (0x1201C1C0C0502083, 0, .ffma ⟨C, .ru, .f64, .v 8, .v 10, .reg (.v 12), .v 14⟩),
   (0x0001C00000502086, 0, .fabs ⟨C, .rn, .f32, .v 8, .v 10⟩),
   (0x0201C00000502087, 0, .fneg ⟨C, .rn, .f64, .v 8, .v 10⟩),
   (0x0801C00000502088, 0, .frcp ⟨C, .rz, .f32, .v 8, .v 10⟩),
   (0x1201C00000502089, 0, .frsq ⟨C, .ru, .f64, .v 8, .v 10⟩),
   (0x1801C0000050208A, 0, .fsqrt ⟨C, .rd, .f32, .v 8, .v 10⟩),
   (0x0801C0000050208B, 0, .fex2 ⟨C, .rz, .f32, .v 8, .v 10⟩),
   (0x1001C0000050208C, 0, .flg2 ⟨C, .ru, .f32, .v 8, .v 10⟩),
   (0x1801C0000050208D, 0, .fsin ⟨C, .rd, .f32, .v 8, .v 10⟩),
   (0x0801C0000050208E, 0, .fcos ⟨C, .rz, .f32, .v 8, .v 10⟩),
   (0x0201C00000502091, 0, .fclass ⟨C, .rn, .f64, .v 8, .v 10⟩),
   (0x4601C0E0000DDC90, 0x3F80, .fcmp ⟨C, .bf16, .or, .p 7, .v 1, .lit 0x3F80⟩)]
theorem test_decode_lane_floating_point : words_lane_floating_point.all (fun e => decodesTo e.1 e.2.1 e.2.2) = true := by decide +kernel

/-- Conversion and cross-lane. -/
def words_conversion_and_cross_lane : List (Word64 × Word64 × Instr) :=
  [(0x1801C56000180900, 0, .cvt ⟨C, false, .rd, .f64, .i32, .v 2, .v 3⟩),
   (0x2001CE0000200900, 0, .cvt ⟨C, true, .rn, .i8, .n64, .v 2, .v 4⟩),
   (0x2401C00050180901, 0, .pack ⟨C, true, .rn, .i16, .v 2, .v 3, .v 5⟩),
   (0x0201C00000180902, 0, .unpack ⟨C, .bf16, .v 2, .v 3⟩),
   (0x8C01C00010200910, 0, .shfl ⟨C, true, .down, .v 2, .v 4, .imm 1⟩),
   (0x0601C0000BA00911, 0, .vote ⟨C, .ballot, .v 2, .p 4⟩),
   (0x2E01C00000200912, 0, .lred ⟨C, true, .xor, .v 2, .v 4⟩),
   (0x2801C00000200913, 0, .scan ⟨C, true, .maxN, .v 2, .v 4⟩)]
theorem test_decode_conversion_and_cross_lane : words_conversion_and_cross_lane.all (fun e => decodesTo e.1 e.2.1 e.2.2) = true := by decide +kernel

/-- Uniform and control. -/
def words_uniform_and_control : List (Word64 × Word64 × Instr) :=
  [(0x0001C0107C8C1540, 0, .sadd ⟨C, .s 5, .special .core, .reg (.s 7)⟩),
   (0x8001DFFFF8341541, 0, .ssub ⟨C, .s 5, .s 6, .imm 0x1FFFF⟩),
   (0x0001C0107C8C1542, 0, .smul ⟨C, .s 5, .special .core, .reg (.s 7)⟩),
   (0x8001DFFFF8341543, 0, .sand ⟨C, .s 5, .s 6, .imm 0x1FFFF⟩),
   (0x0001C0107C8C1544, 0, .sor ⟨C, .s 5, .special .core, .reg (.s 7)⟩),
   (0x8001DFFFF8341545, 0, .sxor ⟨C, .s 5, .s 6, .imm 0x1FFFF⟩),
   (0x0001C0107C8C1546, 0, .sshl ⟨C, .s 5, .special .core, .reg (.s 7)⟩),
   (0x8201C00038341547, 0, .sshr ⟨C, true, .s 5, .s 6, .imm 3⟩),
   (0x1601C0107835D548, 0, .scmp ⟨C, .ge, true, .p 5, .s 6, .reg (.s 7)⟩),
   (0x0001C0000C841549, 0, .smov ⟨C, .s 5, .special .cycle⟩),
   (0x4001C0000004154A, 5, .smovi ⟨C, .s 5, .lit 5⟩),
   (0x8001C01FF034154B, 0, .rdlane ⟨C, .s 5, .v 6, .imm 511⟩),
   (0x8001FFFFF0000180, 0, .bra ⟨C, 0x3FFFF⟩),
   (0x8001C00020000181, 0, .brc ⟨C, 2⟩),
   (0x0201C0000024FD82, 0, .brx ⟨C, .v 4, some (.s 63)⟩),
   (0x8001E00000040583, 0, .call ⟨C, 0x20000, .s 1⟩),
   (0x0001C00009F00184, 0, .ret ⟨C, .s 62⟩),
   (0x0001C00000000185, 0, .exit ⟨C⟩),
   (0x0001C00000000186, 0, .yield ⟨C⟩),
   (0x8001CFFFF0000187, 0, .pause ⟨C, 65535⟩),
   (0x8001C00FF0000190, 0, .trap ⟨C, 255⟩),
   (0x0201C00008180191, 0, .rte ⟨C, some (.s 3)⟩),
   (0x0001C00000000191, 0, .rte ⟨C, none⟩),
   (0x8001C02040040D92, 0, .rdsr ⟨C, 0x204, .s 3⟩),
   (0x8001C02F08180193, 0, .wrsr ⟨C, 0x2F0, .s 3⟩),
   (0x0001C00000000194, 0, .bkpt ⟨C⟩)]
theorem test_decode_uniform_and_control : words_uniform_and_control.all (fun e => decodesTo e.1 e.2.1 e.2.2) = true := by decide +kernel

/-- Memory. -/
def words_memory : List (Word64 × Word64 × Instr) :=
  [(0x1801E070280DB9C0, 0, .aset ⟨C, false, false, true, true, .a 14, .s 1, .s 2, .s 3⟩),
   (0x8001FFFFFB1585C1, 0, .adv ⟨C, .a 1, .a 2, .imm 0x3FFFF⟩),
   (0x0401C0000B1425C2, 0, .ard ⟨C, .limit, .s 9, .a 2⟩),
   (0x0A01E0903B1585C3, 0, .anarrow ⟨C, true, false, true, .a 1, .a 2, .s 3, .s 4⟩),
   (0x3601E0104B1BF1D0, 0, .ld ⟨C, .n128, .v 252, .a 3, .idx (.s 4) .x8 0x100⟩),
   (0x8001E0000B1D7DD1, 0, .st ⟨C, .i8, .w 31, .a 3, .disp 0x20000⟩),
   (0x2A01C0F04B1C25D2, 0, .ldu ⟨C, .n64, .s 9, .a 3, .idx (.s 4) .x2 7⟩),
   (0x0C01C0204B1801D3, 0, .pref ⟨C, .l2, .a 3, .idx (.v 4) .x4 1⟩),
   (0x2601FFE05B1811D4, 0, .ldAcq ⟨C, true, .grp, .v 4, .a 3, .idx (.v 5) .x8 0x1FF⟩),
   (0x9801C0005B1C11D5, 0, .stRel ⟨C, false, .sys, .s 4, .a 3, .disp 5⟩)]
theorem test_decode_memory : words_memory.all (fun e => decodesTo e.1 e.2.1 e.2.2) = true := by decide +kernel

/-- Members, scratchpad, copies, barriers. -/
def words_members_scratchpad_copies_barriers : List (Word64 × Word64 × Instr) :=
  [(0x8201C00030200A00, 0, .mbcast ⟨C, true, .v 2, .v 4, .imm 3⟩),
   (0x2201C00000250A01, 0, .mred ⟨C, true, .minI, .w 2, .v 4⟩),
   (0x0401C0000BA5CA02, 0, .mvote ⟨C, .eq, .p 2, .p 4⟩),
   (0x9001C0003B250A03, 0, .ldw ⟨C, .i16, .w 2, .a 4, .disp 3⟩),
   (0x4001C00000050A04, 3, .movw ⟨C, .w 2, .lit 3⟩),
   (0x0001C20F08100210, 0, .regrp ⟨C, .s 2, .v 240, 16⟩),
   (0x0001C02030000211, 0, .regret ⟨C, .v 3, 1⟩),
   (0x9801C00038200A40, 0, .ldl ⟨C, .n16, .v 2, .s 4, .disp 3⟩),
   (0x2401FFE098250A41, 0, .stl ⟨C, .n32, .w 2, .s 4, .idx (.v 9) .x4 0x1FF⟩),
   (0x3E01C10068200A42, 0, .atoml ⟨C, .cas, .n64, .v 2, .s 4, .reg (.v 6), some (.v 8)⟩),
   (0x2E01C01038140650, 0, .cpy ⟨C, 7, false, true, .s 1, .s 2, .s 3⟩),
   (0x0A01C0104B140651, 0, .cpyh ⟨C, 5, .s 1, .a 2, .s 4⟩),
   (0x1801C01038158652, 0, .cpyout ⟨C, 4, true, .a 1, .s 2, .s 3⟩),
   (0x1601C00000040653, 0, .cpywp ⟨C, 3, true, .s 1⟩),
   (0x8C01C00090000254, 0, .cpywait ⟨C, 6, .imm 9⟩),
   (0x9E01C00020040680, 0, .barArr ⟨C, 15, .s 1, .imm 2⟩),
   (0x1001C00008080281, 0, .barWait ⟨C, 8, .s 1⟩),
   (0x0E01C01020000282, 0, .barSync ⟨C, 7, .reg (.s 2)⟩),
   (0x0801DFF020040683, 0, .barDefer ⟨C, 4, .s 1, .reg (.s 2), 255⟩),
   (0x0401C0102005CE84, 0, .barLast ⟨C, 2, .p 3, .reg (.s 2)⟩),
   (0x8001C003FB140690, 0, .launch ⟨C, .s 1, .a 2, .imm 63⟩),
   (0x0001C00000000291, 0, .tdone ⟨C⟩)]
theorem test_decode_members_scratchpad_copies_barriers : words_members_scratchpad_copies_barriers.all (fun e => decodesTo e.1 e.2.1 e.2.2) = true := by decide +kernel

/-- Atomics, fences, remote. -/
def words_atomics_fences_remote : List (Word64 × Word64 × Instr) :=
  [(0x3201C7E09B1012C0, 0, .atom ⟨C, .cas, true, .sys, .ar, .x8, .v 4, .a 2, .v 9⟩),
   (0x1401C3309B1512C1, 0, .red ⟨C, .fadd, false, .team, .rel, .x2, .w 4, .a 2, .s 9⟩),
   (0x8001C000181012C2, 0, .atomr ⟨C, .v 4, .s 2, .imm 1⟩),
   (0x1201C000000002D0, 0, .fence ⟨C, .rel, .team⟩),
   (0xB801C0008B1012D1, 0, .ldra ⟨C, true, .sys, .v 4, .a 2, .disp 8⟩),
   (0x8001C07FF00002D2, 0, .qfence ⟨C, 0x7FF⟩),
   (0x3001C0109B1036D3, 0, .waitc ⟨C, .ge, true, true, .dev, .a 2, .reg (.s 9)⟩),
   (0x1601C7E0981012E0, 0, .rget ⟨C, .i16, .x8, 63, .v 4, .s 2, .v 9⟩),
   (0x2A01C030901412E1, 0, .rput ⟨C, .n64, .x2, 1, .s 4, .v 2, .s 9⟩),
   (0x2801C410901012E2, 0, .ratom ⟨C, .maxN, true, 32, .v 4, .v 2, .s 9⟩)]
theorem test_decode_atomics_fences_remote : words_atomics_fences_remote.all (fun e => decodesTo e.1 e.2.1 e.2.2) = true := by decide +kernel

/-- Accumulators, collectives, matrix. -/
def words_accumulators_collectives_matrix : List (Word64 × Word64 × Instr) :=
  [(0x0601C00000000300, 0, .laclr ⟨C, 3⟩),
   (0x0401C06000200301, 0, .laadd ⟨C, 2, .bf16, .v 4⟩),
   (0x0201C03050200302, 0, .lamad ⟨C, 1, .f64, .v 4, .s 5⟩),
   (0x1201C00000000303, 0, .lamrg ⟨C, 1, 2⟩),
   (0x0401C14000001304, 0, .larnd ⟨C, 2, .f16, .ru, .v 4⟩),
   (0x1201C1205B200305, 0, .lald ⟨C, 1, .a 4, .idx (.v 5) .x4 9⟩),
   (0x8601C0040B200306, 0, .lasv ⟨C, 3, .a 4, .disp 64⟩),
   (0x1201C04000000307, 0, .lafl ⟨C, 1, 2, .all⟩),
   (0x0801D5605B102710, 0, .redla ⟨C, false, .sys, true, .x4, .a 2, .v 5, .value .f16 (.v 9)⟩),
   (0x0001C0000B042740, 0, .collSum ⟨C, .s 9, .a 0⟩),
   (0x0001C0000B0C2B41, 0, .collMin ⟨C, .s 10, .a 1⟩),
   (0x0001C0000B142F42, 0, .collMax ⟨C, .s 11, .a 2⟩),
   (0x0001C0000B1C3343, 0, .collHist ⟨C, .s 12, .a 3⟩),
   (0x0001C0000B243744, 0, .collRank ⟨C, .s 13, .a 4⟩),
   (0x0001C0000B2C3B45, 0, .collSelect ⟨C, .s 14, .a 5⟩),
   (0x0001C0000B343F46, 0, .collStat ⟨C, .s 15, .a 6⟩),
   (0x0001C0000B3C4347, 0, .collBcast ⟨C, .s 16, .a 7⟩),
   (0x1E01E0D440800380, 0, .mma ⟨C, 15, false, .v 16, .w 4, .s 6⟩),
   (0x2201E0D440800381, 0, .mmad ⟨C, 1, true, .v 16, .w 4, .s 6⟩),
   (0x2401E0C000000382, 0, .mdrain ⟨C, 2, true, .s 6⟩),
   (0x1201C00000000383, 0, .mzero ⟨C, 9⟩),
   (0x9201FFF80B080384, 0, .mkld ⟨C, 9, .a 1, 0x3FF80⟩),
   (0x8C01C0080B080385, 0, .mkst ⟨C, 6, .a 1, 128⟩),
   (0x0001C7E00B080386, 0, .dpld ⟨C, 63, .a 1⟩),
   (0x0001C7C000000387, 0, .dpinv ⟨C, 62⟩),
   (0x0001C80000040788, 0, .mstat ⟨C, 64, .s 1⟩)]
theorem test_decode_accumulators_collectives_matrix : words_accumulators_collectives_matrix.all (fun e => decodesTo e.1 e.2.1 e.2.2) = true := by decide +kernel

/-- Micro-instructions. -/
def words_micro : List (Word32 × Instr) :=
  [(0x00000001, .dnop), (0x00000002, .dend), (0x000003C3, .dmov ⟨7, 1⟩), (0xFFFC0043, .dmovI ⟨1, 0x1FFF⟩), (0x00040084, .drow ⟨2, true⟩), (0x000000C5, .dcol ⟨3, false⟩),
   (0x005000C6, .dlds ⟨3, true, 2⟩), (0x00043448, .dadd ⟨.f64, 1, 2, 3⟩), (0x00083449, .dmul ⟨.i32, 1, 2, 3⟩), (0x0002344A, .dfma ⟨.f32, 1, 2, 3, 4⟩), (0x0004344B, .dmin ⟨.f64, 1, 2, 3⟩), (0x0008344C, .dmax ⟨.i32, 1, 2, 3⟩),
   (0x0002344D, .dclamp ⟨.f32, 1, 2, 3, 4⟩), (0x0002344E, .dsel ⟨1, 2, 3, 4⟩), (0x0044344F, .dcmp ⟨.f64, .gt, 1, 2, 3⟩), (0x00740450, .dscale ⟨.f64, 1, 2, true, 3⟩), (0x00200451, .dbias ⟨.f32, 1, 2, false, 1⟩), (0x00C80452, .dcvt ⟨.i32, .f16, .rz, 1, 2⟩),
   (0x00040453, .dexp2 ⟨.f64, 1, 2⟩), (0x00000454, .drcp ⟨.f32, 1, 2⟩), (0x001C2218, .dst ⟨true, 3, 1, 2⟩), (0x00000219, .dstv ⟨1⟩), (0x0034021A, .dla ⟨.f64, 3, 1⟩)]
theorem test_decode_micro : words_micro.all (fun e => decide (decodeMicro e.1 = some e.2)) = true := by decide +kernel

/-- Words of the spec's worked programs (03, 07, 11, 14, 17, 19) beside those of `Obligations.DecodeWords`. -/
def words_worked : List (Word64 × Instr) :=
  [(0x2401C0104B781DD1, .st ⟨C, .n32, .v 7, .a 15, .idx (.s 4) .x4 0⟩), (0x0401C010D0000254, .cpywait ⟨C, 2, .reg (.s 13)⟩),
   (0x8801C0000B000DD5, .stRel ⟨C, false, .team, .v 3, .a 0, .disp 0⟩), (0x2401C060703022E0, .rget ⟨C, .n32, .x4, 3, .v 8, .v 6, .v 7⟩),
   (0x9001C0000B0806D1, .ldra ⟨C, false, .dev, .v 1, .a 1, .disp 0⟩), (0x0001C02000200301, .laadd ⟨C, 0, .f64, .v 4⟩),
   (0x0081C0000B1C2346, .collStat ⟨{ C with fsel := .setA }, .s 8, .a 3⟩), (0x0081C0000B245340, .collSum ⟨{ C with fsel := .setA }, .s 20, .a 4⟩),
   (0x0081C0000B345B44, .collRank ⟨{ C with fsel := .setA }, .s 22, .a 6⟩), (0x0201C00000002304, .larnd ⟨C, 1, .f32, .rn, .v 8⟩),
   (0x0001C0A00B300386, .dpld ⟨C, 5, .a 6⟩), (0x0081C010BB1C2A50, .cpy ⟨{ C with fsel := .setA }, 0, false, false, .s 10, .a 3, .s 11⟩),
   (0x000080010B180306, .lasv ⟨{ C with pred := 2 }, 0, .a 3, .idx (.v 16) .x1 0⟩),
   (0x0211C000A0203080, .fadd ⟨{ C with lrA := true }, .rn, .f64, .v 12, .v 4, .reg (.v 10)⟩)]
theorem test_decode_worked : words_worked.all (fun e => decodesTo e.1 0 e.2) = true := by decide +kernel

/-- Why a word is refused. -/
def refusedFor (w : Word64) : BitVec 8 :=
  match decode Claims.flags01 w 0 with
  | .ok _ => 0
  | .error e => e.cause
/-- R21, R25, R26, R30, R31: an unused field of NOP, FSEL without a completion, I and L together, a reserved operand code, a pair on
an odd register. -/
theorem test_decode_refuses : [0x0001C00000000401, 0x0081C00000281802, 0xC001C00000281802, 0x0001C0000BD81802, 0x0401C00000281802].map refusedFor
    = [cILLEGAL_INSTRUCTION, cILLEGAL_INSTRUCTION, cILLEGAL_INSTRUCTION, cILLEGAL_OPERAND, cILLEGAL_OPERAND] := by decide +kernel
/-- R33, R34: unassigned opcodes, among them a gap inside a family and the reserved range. -/
theorem test_decode_unassigned : ([0x000, 0x00B, 0x15F, 0x3C0, 0x3FF].map (fun w : Word64 => match decode Claims.flags01 w 0 with
    | .ok (.unassignedOpcode x) => decide (x.w = w)
    | _ => false)) = List.replicate 5 true := by decide +kernel

/-! ## Well-formedness: a term that each check refuses -/

/-- SAT on an IMULH, which has no saturating form (R57). -/
theorem test_wf_modifier : (Instr.imulh ⟨C, .i32, true, .v 0, .v 1, .reg (.v 2)⟩).wf = false := by decide
/-- HOLD of a source in an s register (R24). -/
theorem test_wf_hold : (Instr.iadd ⟨{ C with hold := .srcA }, .i32, false, .v 0, .s 1, .reg (.v 2)⟩).wf = false := by decide
/-- LR on an s register, and on source B where an immediate stands (R21, R27). -/
theorem test_wf_last_read : (Instr.iadd ⟨{ C with lrA := true }, .i32, false, .v 0, .s 1, .reg (.v 2)⟩).wf = false
    ∧ (Instr.iadd ⟨{ C with lrB := true }, .i32, false, .v 0, .v 1, .imm 2⟩).wf = false := by decide
/-- A flag for an instruction without a completion, and both flags (R25). -/
theorem test_wf_flag_select : (Instr.iadd ⟨{ C with fsel := .setA }, .i32, false, .v 0, .v 1, .imm 2⟩).wf = false
    ∧ (Instr.mzero ⟨{ C with fsel := .both }, 0⟩).wf = false := by decide
/-- A system register that has no number (R72). -/
theorem test_wf_system_register : (Instr.rdsr ⟨C, 0x002, .s 0⟩).wf = false := by decide
/-- A pair on an odd register, a destination that is a special value, and a reserved code (R31). -/
theorem test_wf_operand : (Instr.iadd ⟨C, .i64, false, .v 1, .v 2, .imm 2⟩).wf = false ∧ (Instr.mov ⟨C, .i32, false, .special .lane, .v 2⟩).wf = false
    ∧ (Instr.mov ⟨C, .i32, false, .v 0, .reserved 0x1C0⟩).wf = false := by decide
/-- DEXP2 of I32 (R322). -/
theorem test_wf_micro : (Instr.dexp2 ⟨.i32, 0, 0⟩).wf = false := by decide
/-- Core 384, which the package does not have (R3). -/
theorem test_wf_event : (Instr.coreUncorrectableError ⟨384⟩).wf = false ∧ (Instr.coreUncorrectableError ⟨383⟩).wf = true := by decide

/-! ## Values, by hand from the rules -/

/-- The group with v registers 0, 1, 2, ... of every thread at these words. -/
def withV (l : List Nat) : Group :=
  { G with v := (l.mapIdx (fun n x => [⟨n, 0, List.replicate 8 (BitVec.ofNat 32 x), .pool, 2 * n, [], none⟩,
      ⟨n, 1, List.replicate 8 (BitVec.ofNat 32 x), .pool, 2 * n + 1, [], none⟩])).flatten }
/-- Register d of thread 9 after one instruction. -/
def vAfter (i : Instr) (l : List Nat) (d : Nat) : Nat := ((gOf (after (exec i (stateOf (withV l))) S)).vWord d 9).toNat
def flagsAfter (i : Instr) (l : List Nat) : Nat := (((gOf (after (exec i (stateOf (withV l))) S)).threads[9]?).map (fun t => t.fflags.toNat)).getD 0
def sAfter (i : Instr) (l : List Nat) (d : Nat) : Nat := ((pOf (after (exec i (stateOf (withV l))) S)).s.getD d 0).toNat

/-- R57: wraps, and saturates with SAT. -/
theorem test_iadd_wraps : vAfter (.iadd ⟨C, .i32, false, .v 2, .v 0, .reg (.v 1)⟩) [0x7FFFFFFF, 1] 2 = 0x80000000 := by decide +kernel
theorem test_iadd_saturates : vAfter (.iadd ⟨C, .i32, true, .v 2, .v 0, .reg (.v 1)⟩) [0x7FFFFFFF, 1] 2 = 0x7FFFFFFF := by decide +kernel
/-- R47: a narrow result is extended by its type. -/
theorem test_isub_narrow : vAfter (.isub ⟨C, .n8, false, .v 2, .v 0, .reg (.v 1)⟩) [0, 1] 2 = 0xFF
    ∧ vAfter (.isub ⟨C, .i8, false, .v 2, .v 0, .reg (.v 1)⟩) [0, 1] 2 = 0xFFFFFFFF := by decide +kernel
theorem test_imulh_unsigned : vAfter (.imulh ⟨C, .n32, false, .v 2, .v 0, .reg (.v 0)⟩) [0xFFFFFFFF] 2 = 0xFFFFFFFE := by decide +kernel
theorem test_imad_carries : vAfter (.imad ⟨C, .n64, false, .v 4, .v 0, .reg (.v 0), .v 2⟩) [0x10000, 0, 0xFFFFFFFF, 0] 5 = 1 := by decide +kernel
/-- R57: shifts by the width and beyond. -/
theorem test_sar_by_width : vAfter (.sar ⟨C, .i32, false, .v 2, .v 0, .imm 32⟩) [0x80000000] 2 = 0xFFFFFFFF := by decide +kernel
theorem test_shl_by_width : vAfter (.shl ⟨C, .i32, false, .v 2, .v 0, .imm 32⟩) [0xFFFFFFFF] 2 = 0 := by decide +kernel
theorem test_rot_wraps : vAfter (.rot ⟨C, .i32, false, .v 2, .v 0, .imm 33⟩) [0x80000001] 2 = 3 := by decide +kernel
theorem test_clz_zero : vAfter (.clz ⟨C, .n16, false, .v 2, .v 0⟩) [0] 2 = 16 := by decide +kernel
theorem test_brev_lowest : vAfter (.brev ⟨C, .i32, false, .v 2, .v 0⟩) [1] 2 = 0x80000000 := by decide +kernel
theorem test_neg_overwrites_source : vAfter (.ineg ⟨C, .i32, false, .v 0, .v 0⟩) [0x80000000] 0 = 0x80000000 := by decide +kernel
/-- R60, R50, R12: 1 + 2; the largest number doubled, to nearest and toward zero, with OF and NX. -/
theorem test_fadd_exact : vAfter (.fadd ⟨C, .rn, .f32, .v 2, .v 0, .reg (.v 1)⟩) [0x3F800000, 0x40000000] 2 = 0x40400000 := by decide +kernel
theorem test_fadd_overflow : vAfter (.fadd ⟨C, .rn, .f32, .v 2, .v 0, .reg (.v 0)⟩) [0x7F7FFFFF] 2 = 0x7F800000
    ∧ vAfter (.fadd ⟨C, .rz, .f32, .v 2, .v 0, .reg (.v 0)⟩) [0x7F7FFFFF] 2 = 0x7F7FFFFF := by decide +kernel
/-- R52: the number beside a signalling NaN, with the invalid flag. -/
theorem test_fmin_signalling : vAfter (.fmin ⟨C, .rn, .f32, .v 2, .v 0, .reg (.v 1)⟩) [0x7F800001, 0x3F800000] 2 = 0x3F800000
    ∧ flagsAfter (.fmin ⟨C, .rn, .f32, .v 2, .v 0, .reg (.v 1)⟩) [0x7F800001, 0x3F800000] = 16 := by decide +kernel
theorem test_fsqrt_exact : vAfter (.fsqrt ⟨C, .rn, .f32, .v 2, .v 0⟩) [0x40800000] 2 = 0x40000000 := by decide +kernel
theorem test_frcp_zero : vAfter (.frcp ⟨C, .rn, .f32, .v 2, .v 0⟩) [0x80000000] 2 = 0xFF800000 := by decide +kernel
/-- R64: NaN to an integer is 0; beyond the range the nearest bound. -/
theorem test_cvt_nan : vAfter (.cvt ⟨C, false, .rn, .i32, .f32, .v 2, .v 0⟩) [0x7FC00000] 2 = 0 := by decide +kernel
theorem test_cvt_bound : vAfter (.cvt ⟨C, false, .rz, .i8, .f32, .v 2, .v 0⟩) [0xC3800000] 2 = 0xFFFFFF80 := by decide +kernel
/-- R66: sixteen threads with 3 each; the exclusive scan of lane 9. -/
theorem test_lred_add : vAfter (.lred ⟨C, false, .add, .v 2, .v 0⟩) [3] 2 = 48 := by decide +kernel
theorem test_scan_exclusive : vAfter (.scan ⟨C, true, .add, .v 2, .v 0⟩) [3] 2 = 27 := by decide +kernel
theorem test_rdlane : sAfter (.rdlane ⟨C, .s 20, .v 0, .imm 15⟩) [0x80000000] 20 = 0x80000000 := by decide +kernel
/-- R67: the sign fill of SSHR.A, and s0's wrap. -/
theorem test_sshr_arithmetic : sAfter (.sshr ⟨C, true, .s 20, .s 0, .imm 64⟩) [] 20 = 0
    ∧ sAfter (.ssub ⟨C, .s 20, .s 0, .imm 1⟩) [] 20 = 2 ^ 64 - 1 := by decide +kernel
/-- R265 to R269: one added in F32 and rounded out. -/
theorem test_accumulator_one :
    (gOf (run [.larnd ⟨C, 0, .f32, .rn, .v 2⟩] (again (after (exec (.laadd ⟨C, 0, .f32, .v 0⟩) (stateOf (withV [0x3F800000]))) S)))).vWord 2 9 = 0x3F800000 := by
  decide +kernel

/-- R174: the spec's two addresses. -/
theorem test_home_die : homeDie 0x1234567000 = 16 ∧ homeDie 0x1234568000 = 10 := by decide +kernel
/-- R206: the spec's 4 by 4 grids. -/
theorem test_curve_hilbert : ({ LRec.zero with curve := 3, blk := 2, nx := 4, ny := 4 } : LRec).curveOrder = [0, 1, 5, 4, 8, 12, 13, 9, 10, 14, 15, 11, 7, 6, 2, 3] := by
  decide +kernel
theorem test_curve_morton : ({ LRec.zero with curve := 2, blk := 2, nx := 4, ny := 4 } : LRec).curveOrder = [0, 1, 4, 5, 2, 3, 6, 7, 8, 9, 12, 13, 10, 11, 14, 15] := by
  decide +kernel
/-- R388: the spec's features. -/
theorem test_features : (after (exec (.featreq1Write ⟨0⟩) { ctxS 0 with pkg := { (ctxS 0).pkg with featReq0 := 0x3B } }) S).pkg.featAct0 = 0x3B := by decide +kernel
/-- R377: the spec's IVs. -/
theorem test_flit_iv : flitIv 5 17 false false 0xFFFFFFFFFA = 0x02C40000000000FFFFFFFFFA ∧ flitIv 5 17 false true 3 = 0x02C500000000000000000003 := by decide +kernel
/-- R300: the spec's DS8 weights. -/
theorem test_ds8 : [0x00, 0x13, 0x70, 0x9E, 0x77].map MatEl.ds8.int = [128, 40, 64, -33, 0] := by decide +kernel
/-- R305: positions 1, 3, 4, 6, and 1, 3, 3, 6. -/
theorem test_sparse_positions : metaGood 0xD19 0 = true ∧ metaGood 0xCD9 0 = false := by decide +kernel

end Sys2Proof.Tests
end

section
/-! PROOFS. FMIN and FMAX (R52): the order of the values of a format, the number they choose, and how an instruction ends whose
effect is a floating-point result in the lanes (R53, R61). -/

namespace Sys2Proof.Machine

/-! ## The order of values -/

/-- Of two values at most one is less than the other; finite ones compare at their common exponent. -/
theorem FVal.lt_asymm {a b : FVal} (h : a.lt b = true) : b.lt a = false := by
  cases a with
  | nan _ => cases h
  | inf x =>
    cases b with
    | nan _ => cases h
    | inf y => cases x <;> simp_all [FVal.lt]
    | fin _ _ _ => simp_all [FVal.lt]
  | fin x m e =>
    cases b with
    | nan _ => cases h
    | inf y => simp_all [FVal.lt]
    | fin y n k =>
      simp only [FVal.lt, decide_eq_true_eq, decide_eq_false_iff_not, Int.min_comm k e] at h ⊢
      omega

/-- The order of R52, in which −0 stands before +0, is strict. -/
theorem before_asymm {a b : FVal} (h : Claims.before a b) : ¬Claims.before b a := by
  rcases h with hlt | ⟨heq, hna, hnb⟩
  · rintro (hgt | ⟨heq, -, -⟩)
    · rw [FVal.lt_asymm hlt] at hgt
      cases hgt
    · simp [FVal.eq, hlt] at heq
  · rintro (hgt | ⟨-, hnb', -⟩)
    · simp [FVal.eq, hgt] at heq
    · rw [hnb] at hnb'
      cases hnb'

theorem before_irrefl (a : FVal) : ¬Claims.before a a := fun h => before_asymm h h

/-! ## The number chosen -/

/-- FMIN and FMAX of two numbers choose the first where its standing before the second is what is asked for, else the second. -/
theorem minmax_of_numbers (f : Fmt) (isMin : Bool) {x y : Nat} (hx : (f.unpack x).isNan = false) (hy : (f.unpack y).isNan = false) :
    (f.minmax isMin x y).1 = x ∧ (Claims.before (f.unpack x) (f.unpack y) ↔ isMin = true)
      ∨ (f.minmax isMin x y).1 = y ∧ ¬(Claims.before (f.unpack x) (f.unpack y) ↔ isMin = true) := by
  have hb : Claims.before (f.unpack x) (f.unpack y)
      ↔ ((f.unpack x).lt (f.unpack y) || ((f.unpack x).eq (f.unpack y) && (f.unpack x).neg? && !(f.unpack y).neg?)) = true := by
    simp [Claims.before, and_assoc]
  rw [hb, ← Bool.eq_iff_iff]
  simp only [Fmt.minmax, hx, hy, Bool.and_self, Bool.false_eq_true, if_false]
  split
  · next h => exact .inl ⟨rfl, h⟩
  · next h => exact .inr ⟨rfl, h⟩

/-- No operand stands before the one FMIN chooses, nor the one FMAX chooses before an operand (R52). -/
theorem minmax_extreme (f : Fmt) (isMin : Bool) {x y : Nat} (hx : (f.unpack x).isNan = false) (hy : (f.unpack y).isNan = false) :
    let r := (f.minmax isMin x y).1
    (r = x ∨ r = y)
      ∧ if isMin then ¬Claims.before (f.unpack x) (f.unpack r) ∧ ¬Claims.before (f.unpack y) (f.unpack r)
        else ¬Claims.before (f.unpack r) (f.unpack x) ∧ ¬Claims.before (f.unpack r) (f.unpack y) := by
  intro r
  have irr := before_irrefl
  rcases minmax_of_numbers f isMin hx hy with ⟨hr, hb⟩ | ⟨hr, hb⟩
  · rw [show r = x from hr]
    refine ⟨.inl rfl, ?_⟩
    cases isMin
    · exact ⟨irr _, by simpa using hb⟩
    · exact ⟨irr _, before_asymm (hb.2 rfl)⟩
  · rw [show r = y from hr]
    refine ⟨.inr rfl, ?_⟩
    cases isMin
    · exact ⟨before_asymm (by simpa using hb), irr _⟩
    · exact ⟨by simpa using hb, irr _⟩

/-- What FMIN and FMAX compute is minimumNumber and maximumNumber (R52). -/
theorem minmax_isNumber (f : Fmt) (isMin : Bool) (x y : Nat) : Claims.isNumber f isMin x y (f.minmax isMin x y) := by
  refine ⟨fun hx hy => ?_, fun hx hy => ?_, fun hx hy => ?_, fun hx hy => minmax_extreme f isMin hx hy, ?_⟩
  · simp [Fmt.minmax, hx, hy]
  · simp [Fmt.minmax, hx, hy]
  · simp [Fmt.minmax, hx, hy]
  · simp [Fmt.minmax, flagIf, fNV]

/-! ## A floating-point result in the lanes -/

/-- The model's elements of a register are those of R49. -/
theorem perElem_eq_elements (f : FFmt) (op : (Word64 → Nat) → FRes) : perElem f op = Claims.elements f op := by
  cases f <;> simp [perElem, Claims.elements, Nat.mul_comm]

theorem fmtRegs_one_or_two (f : FFmt) : f.regs = 1 ∨ f.regs = 2 := by
  cases f <;> simp [FFmt.regs]

section LaneResults

variable {s : State} {g : Group} {p : Split}

/-- The write of each active thread's result and flags after the last reads (R53, R61, R111). -/
theorem writeF_spec {w : View} {d : Opnd} {regs : Nat} (hr : RoomFor (issueOf s g p w) w d regs) (h12 : regs = 1 ∨ regs = 2)
    (r : Nat → Word64 × BitVec 5) :
    ∃ h, ((issueOf s g p w).lastReads w).writeF d regs r = .ok { issueOf s g p w with g := h }
      ∧ h = { g with v := h.v, seq := h.seq, threads := h.threads }
      ∧ Lanes (issueOf s g p w) w d regs (fun t => (r t).1) h
      ∧ Threads (issueOf s g p w) (fun t th => if (issueOf s g p w).act.getLsbD t then th.raise (r t).2 else th) h := by
  obtain ⟨h, hw, ho, hl⟩ := writeV_spec hr h12 (fun t => (r t).1)
  refine ⟨h.mapThreads (fun t th => if (issueOf s g p w).act.getLsbD t then th.raise (r t).2 else th), ?_, ?_, ⟨hl.1, hl.2⟩, ?_⟩
  · rw [Iss.writeF, hw]
    rfl
  · rw [ho]
    rfl
  · have ht : h.threads = g.threads := by rw [ho]
    refine ⟨?_, fun t => ?_⟩
    · simp [Group.mapThreads, ht, issueOf, Iss.start]
    · simp [Group.mapThreads, ht, issueOf, Iss.start, List.getElem?_mapIdx]

/-- An instruction whose whole effect is a value and IEEE flags for each active thread (R61). -/
theorem runCore_writeF (m : Meaning) {d : Opnd} {regs : Nat} (r : Iss → Nat → Word64 × BitVec 5) (h : Issues s g p)
    (hc : Clear (issueOf s g p m.view) m.view m.data) (hr : RoomFor (issueOf s g p m.view) m.view d regs)
    (h12 : regs = 1 ∨ regs = 2) (hn : m.nonIdem = fun _ => false) (hd : m.det = fun _ => false)
    (hb : m.body = fun i => i.writeF d regs (r i))
    (hf : r ((issueOf s g p m.view).lastReads m.view) = r (issueOf s g p m.view)) :
    ∃ h', runCore m s = .next (goesOn s h' (holding (issueOf s g p m.view) m.view) m.lit)
      ∧ RestKept (issueOf s g p m.view) h'
      ∧ Lanes (issueOf s g p m.view) m.view d regs (fun t => (r (issueOf s g p m.view) t).1) h'
      ∧ Threads (issueOf s g p m.view)
          (fun t th => if (issueOf s g p m.view).act.getLsbD t then th.raise (r (issueOf s g p m.view) t).2 else th) h' := by
  obtain ⟨h', hw, ho, hl, ht⟩ := writeF_spec hr h12 (r (issueOf s g p m.view))
  have hb' : m.body ((issueOf s g p m.view).lastReads m.view) = .ok { issueOf s g p m.view with g := h' } := by
    rw [hb, ← hw, ← hf]
  have hk : h'.key = g.key := by rw [ho]
  refine ⟨counted (issueOf s g p m.view) h', ?_, ?_, ⟨hl.1, hl.2⟩, ⟨ht.1, ht.2⟩⟩
  · rw [runCore_seq m h hc hn hd hb' rfl rfl hk rfl rfl rfl, held_group]
    rfl
  · unfold RestKept
    rw [ho]
    rfl

/-- A floating-point instruction of two sources writes its operation on each pair of elements, with the flags (R60, R61). -/
theorem runCore_floatBin (x : FBin) (round : Bool) (op : Fmt → Nat → Nat → FRes) :
    let i := issueOf s g p (x.view round)
    let r (t : Nat) := Claims.elements x.fmt (fun e => op (fmtOf x.fmt) (e (i.val x.a x.fmt.regs t)) (e (i.src x.b x.fmt.regs t)))
    Issues s g p → Clear i (x.view round) → RoomFor i (x.view round) x.d x.fmt.regs →
      ∃ h, runCore (floatBin x round op) s = .next (goesOn s h (holding i (x.view round)) x.b.isLit) ∧ RestKept i h
        ∧ Lanes i (x.view round) x.d x.fmt.regs (fun t => (r t).1) h
        ∧ Threads i (fun t th => if i.act.getLsbD t then th.raise (r t).2 else th) h := by
  intro i r hi hc hr
  apply runCore_writeF (floatBin x round op) (fun i t =>
      Claims.elements x.fmt (fun e => op (fmtOf x.fmt) (e (i.val x.a x.fmt.regs t)) (e (i.src x.b x.fmt.regs t))))
    hi hc hr (fmtRegs_one_or_two x.fmt) rfl rfl
  · simp only [floatBin, perElem_eq_elements]
  · rfl

end LaneResults

/-! ## The instructions -/

theorem exec_minmax (x : FBin) (isMin : Bool) (s : State) :
    exec (if isMin then .fmin x else .fmax x) s = runCore (floatBin x false (fun f a b => f.minmax isMin a b)) s := by
  cases isMin <;> rfl

/-- Settles O59: `Fmt.minmax` chooses the number, and the instruction writes it to every active thread. -/
theorem minMaxNumber : Obligations.MinMaxNumber := by
  intro x isMin
  refine ⟨(fmtOf x.fmt).minmax isMin, fun a b _ _ => minmax_isNumber _ isMin a b, ?_⟩
  intro s g p i r _ hi hc hr
  rw [exec_minmax]
  exact runCore_floatBin x false (fun f a b => f.minmax isMin a b) hi hc hr

end Sys2Proof.Machine
end

section
/-! PROOFS. The DS4 weights (R301): the scaled integer of a four-bit code by its sign and shift code, and the places of two
weights in a byte. -/

namespace Sys2Proof.Machine

/-! ## The weight of a code -/

@[simp] theorem termMag_seven : termMag 7 = 0 := rfl

theorem termMag_of_ne_seven {k : Nat} (h : k ≠ 7) : termMag k = 2 ^ (6 - k) := by
  simp [termMag, h]

/-- With bit 3 clear the weight is the magnitude of its shift code. -/
theorem ds4_int_of_lt_eight {b : Nat} (h : b < 8) : MatEl.ds4.int b = termMag (b % 8) := by
  have hcode : b % 16 = b := by omega
  have hsign : b / 8 % 2 ≠ 1 := by omega
  rw [MatEl.int, ds4Int, hcode, if_neg hsign]

/-- With bit 3 set the weight is the negated magnitude of its shift code. -/
theorem ds4_int_of_eight_le {b : Nat} (h : 8 ≤ b) (h16 : b < 16) : MatEl.ds4.int b = -termMag (b % 8) := by
  have hcode : b % 16 = b := by omega
  have hsign : b / 8 % 2 = 1 := by omega
  rw [MatEl.int, ds4Int, hcode, if_pos hsign]

/-- Shift code 7 is the weight zero under either sign. -/
theorem ds4_int_of_shift_seven {b : Nat} (h16 : b < 16) (hk : b % 8 = 7) : MatEl.ds4.int b = 0 := by
  rcases Nat.lt_or_ge b 8 with h | h
  · rw [ds4_int_of_lt_eight h, hk, termMag_seven]
  · rw [ds4_int_of_eight_le h h16, hk, termMag_seven, Int.neg_zero]

/-! ## The places in a byte -/

/-- Two four-bit elements span a byte. -/
theorem two_pow_two_mul_ds4_bits (j : Nat) : 2 ^ (2 * j * MatEl.ds4.bits) = 256 ^ j := by
  calc 2 ^ (2 * j * 4) = 2 ^ (8 * j) := by rw [show 2 * j * 4 = 8 * j by omega]
    _ = 256 ^ j := Nat.pow_mul 2 8 j

/-- The lower-indexed weight of byte j stands in its bits 3:0. -/
theorem ds4_at_even (image j : Nat) : MatEl.ds4.at image (2 * j) = image / 256 ^ j % 256 % 16 := by
  rw [MatEl.at, two_pow_two_mul_ds4_bits]
  exact (Nat.mod_mod_of_dvd _ (by decide : 16 ∣ 256)).symm

/-- The higher-indexed weight of byte j stands in its bits 7:4. -/
theorem ds4_at_odd (image j : Nat) : MatEl.ds4.at image (2 * j + 1) = image / 256 ^ j % 256 / 16 := by
  rw [MatEl.at, Nat.add_mul, Nat.pow_add, two_pow_two_mul_ds4_bits, ← Nat.div_div_eq_div_mul]
  exact (Nat.mod_mul_right_div_self _ 16 16).symm

/-! ## The statement -/

/-- Settles O60: the scaled integer by sign and shift code, and each weight's place in its byte. -/
theorem ds4Weights : Obligations.Ds4Weights := by
  refine ⟨fun b h16 => ⟨ds4_int_of_shift_seven h16, fun hk h => ?_, fun hk h => ?_, rfl⟩,
    fun image j => ⟨ds4_at_even image j, ds4_at_odd image j⟩⟩
  · rw [ds4_int_of_lt_eight h, termMag_of_ne_seven hk]
  · rw [ds4_int_of_eight_le h h16, termMag_of_ne_seven hk]

end Sys2Proof.Machine
end
